-- ==== Sys2Proof/Word.lean ====
section
/-! DEFINITION. The word and byte types of the Ianan A9 (R42, R72). -/

namespace Sys2Proof

/-- A 64-bit scalar register value, or any N64 word of memory. -/
abbrev Word := BitVec 64

/-- One byte of memory. -/
abbrev Byte := BitVec 8

end Sys2Proof
end

