-- ==== Sys2Proof/Syntax.lean ====
section
/-! DEFINITION. The instructions of the Ianan A9: one constructor for each row of the opcode table.
Rows with an encoding carry the fields of their word, and the words of majors 0x40 to 0x67 and 0x70 to 0x7B carry
their optional P word (R75, R76).  Rows without an encoding are steps of the device; they carry
the names of the agents that take part. -/

namespace Sys2Proof

/-- The fields of a P word, major 0x7C (R75). -/
structure Pfx where
  /-- type selector [31:28] -/
  tx : BitVec 4
  /-- saturate [27] -/
  sat : BitVec 1
  /-- fourth operand [26:20] -/
  rs3 : BitVec 7
  /-- cross-lane modifier [19:16] -/
  xmod : BitVec 4
  /-- rounding mode [15:13] -/
  rm : BitVec 3
  /-- density-time [12] -/
  dt : BitVec 1
  /-- policy [11]: 0 merge, 1 zero -/
  pol : BitVec 1
  /-- mask register [10:7] -/
  m : BitVec 4
  deriving DecidableEq, Repr

/-- The element types, in the order of their codes (R79). -/
inductive Ty where
  | s8 | s16 | s32 | s64 | n8 | n16 | n32 | n64
  | f16 | b16 | f32 | f64 | t8 | t6 | s4 | n4
  deriving DecidableEq, Repr

/-- A master that can be stopped by a fault, a violation or an error (R284). -/
inductive Master where
  /-- hart `h` = 4 times the physical core number plus the hart number -/
  | hart (h : Nat)
  /-- copy channel `c` of a core -/
  | channel (core c : Nat)
  /-- sparse stream `st` of a core -/
  | stream (core st : Nat)
  /-- indirect-stream engine, 0 to 31 -/
  | engine (e : Nat)
  /-- host-link requester, 0 to 255 -/
  | requester (r : Nat)
  deriving DecidableEq, Repr

/-- The kinds of access (R277, R332). -/
inductive AccKind where
  | read | write | atomic | fetch
  deriving DecidableEq, Repr

/-- The units whose errors are counted (R324). -/
inductive ErrUnit where
  | laneGroup (core g : Nat)
  | core (core : Nat)
  | vault (n : Nat)
  | bank (n : Nat)
  | stack (n : Nat)
  deriving DecidableEq, Repr

/-- An access that reaches this package from outside: from a host-link requester (R314) or from another
package over the torus (R169). -/
structure BusAccess where
  /-- what the access does -/
  kind : AccKind
  /-- the address the requester gave -/
  addr : Nat
  /-- its length in bytes -/
  size : Nat
  /-- the data of a write, or the operand of an atomic -/
  data : Nat
  /-- the operation of an atomic (R201) -/
  op : Nat
  /-- the compare value of an AMOCAS (R201), whose new value is the data -/
  cmp : Nat
  /-- made through a POINTER page of the package that issued it (R164) -/
  pointer : Bool
  /-- host memory reached without the home banks (R315) -/
  direct : Bool
  deriving DecidableEq, Repr

/-- The access of a master that meets an error as its data is consumed (R292): address and kind; for a hart, the place in its
vector instruction queue of the entry that makes it, none for the scalar unit, and the consuming element or pair. -/
structure ErrAccess where
  va : Nat
  kind : AccKind
  entry : Option Nat
  elem : Nat
  deriving DecidableEq, Repr

/-- What meets an uncorrectable error (R292, R326): context data on its way through the shadow bank of the master's core, an access of the
master here, or one whose error, or violation, a remote package reports. -/
inductive ErrPlace where
  | context
  | access (acc : ErrAccess)
  | remote (acc : ErrAccess)
  deriving DecidableEq, Repr

/-- An access of a master over the links (R317). -/
structure LinkAccess where
  master : Master
  acc : ErrAccess
  deriving DecidableEq, Repr

/-- What the boot of one package finds: the outcomes of the checks of R318 and the contents of the
images that R321 names. -/
structure BootInput where
  /-- does the RSA-3072 check of steps 1, 2, 3 pass -/
  rsa : List Bool
  /-- does the SLH-DSA check of steps 1, 2, 3 pass -/
  slh : List Bool
  /-- the firmware image in flash -/
  image : List Byte
  /-- the signatures of the configuration record in flash -/
  recSigs : List Byte
  /-- version word of the firmware image -/
  fwVer : Word
  /-- VERS of the configuration record -/
  cfgVer : Word
  /-- core mask of the configuration record, bit 64t + 8c + k -/
  coreMask : Nat
  /-- lane-group masks of the configuration record, one byte for each core -/
  laneMasks : List Nat
  /-- torus coordinates x, y, z of the package -/
  coord : Nat × Nat × Nat
  /-- DX, DY, DZ of the domain -/
  dims : Nat × Nat × Nat
  /-- link training result, as LSTAT.UP -/
  up : Nat
  deriving DecidableEq, Repr

/-- The instructions and steps of the part. -/
inductive Instr where
  /-- ADD: Writes the sum of two scalar registers to rd (R85) -/
  | add (d : BitVec 7) (a : BitVec 7) (b : BitVec 7)
  /-- SUB: Writes rs1 minus rs2 to rd (R85) -/
  | sub (d : BitVec 7) (a : BitVec 7) (b : BitVec 7)
  /-- AND: Writes the bitwise and of two scalar registers (R85) -/
  | and (d : BitVec 7) (a : BitVec 7) (b : BitVec 7)
  /-- OR: Writes the bitwise or of two scalar registers (R85) -/
  | or (d : BitVec 7) (a : BitVec 7) (b : BitVec 7)
  /-- XOR: Writes the bitwise exclusive-or of two scalar registers (R85) -/
  | xor (d : BitVec 7) (a : BitVec 7) (b : BitVec 7)
  /-- ANDN: Writes rs1 and not rs2 (R85) -/
  | andn (d : BitVec 7) (a : BitVec 7) (b : BitVec 7)
  /-- SLL: Shifts rs1 left by the low six bits of rs2 (R85) -/
  | sll (d : BitVec 7) (a : BitVec 7) (b : BitVec 7)
  /-- SRL: Shifts rs1 right logically (R85) -/
  | srl (d : BitVec 7) (a : BitVec 7) (b : BitVec 7)
  /-- SRA: Shifts rs1 right arithmetically (R85) -/
  | sra (d : BitVec 7) (a : BitVec 7) (b : BitVec 7)
  /-- SLT: Writes 1 when rs1 is below rs2 as signed values (R85) -/
  | slt (d : BitVec 7) (a : BitVec 7) (b : BitVec 7)
  /-- SLTU: Writes 1 when rs1 is below rs2 as unsigned values (R85) -/
  | sltu (d : BitVec 7) (a : BitVec 7) (b : BitVec 7)
  /-- MIN: Writes the signed minimum (R85) -/
  | min (d : BitVec 7) (a : BitVec 7) (b : BitVec 7)
  /-- MAX: Writes the signed maximum (R85) -/
  | max (d : BitVec 7) (a : BitVec 7) (b : BitVec 7)
  /-- MINU: Writes the unsigned minimum (R85) -/
  | minu (d : BitVec 7) (a : BitVec 7) (b : BitVec 7)
  /-- MAXU: Writes the unsigned maximum (R85) -/
  | maxu (d : BitVec 7) (a : BitVec 7) (b : BitVec 7)
  /-- SEL: Writes rs1 when rd is nonzero, else rs2 (R85) -/
  | sel (d : BitVec 7) (a : BitVec 7) (b : BitVec 7)
  /-- MUL: Writes the low 64 bits of the product (R86) -/
  | mul (d : BitVec 7) (a : BitVec 7) (b : BitVec 7)
  /-- MULH: Writes the high 64 bits of the signed product (R86) -/
  | mulh (d : BitVec 7) (a : BitVec 7) (b : BitVec 7)
  /-- MULHU: Writes the high 64 bits of the unsigned product (R86) -/
  | mulhu (d : BitVec 7) (a : BitVec 7) (b : BitVec 7)
  /-- DIV: Writes the signed quotient by DivS (R86) -/
  | div (d : BitVec 7) (a : BitVec 7) (b : BitVec 7)
  /-- DIVU: Writes the unsigned quotient, all ones on division by zero (R86) -/
  | divu (d : BitVec 7) (a : BitVec 7) (b : BitVec 7)
  /-- REM: Writes the signed remainder by RemS (R86) -/
  | rem (d : BitVec 7) (a : BitVec 7) (b : BitVec 7)
  /-- REMU: Writes the unsigned remainder (R86) -/
  | remu (d : BitVec 7) (a : BitVec 7) (b : BitVec 7)
  /-- CLZ: Writes the count of leading zero bits (R86) -/
  | clz (d : BitVec 7) (a : BitVec 7)
  /-- CTZ: Writes the count of trailing zero bits (R86) -/
  | ctz (d : BitVec 7) (a : BitVec 7)
  /-- POPC: Writes the count of one bits (R86) -/
  | popc (d : BitVec 7) (a : BitVec 7)
  /-- ADDI: Adds a sign-extended immediate (R87) -/
  | addi (d : BitVec 7) (a : BitVec 7) (i : BitVec 11)
  /-- ANDI: Ands with a sign-extended immediate (R87) -/
  | andi (d : BitVec 7) (a : BitVec 7) (i : BitVec 11)
  /-- ORI: Ors with a sign-extended immediate (R87) -/
  | ori (d : BitVec 7) (a : BitVec 7) (i : BitVec 11)
  /-- XORI: Exclusive-ors with a sign-extended immediate (R87) -/
  | xori (d : BitVec 7) (a : BitVec 7) (i : BitVec 11)
  /-- SLTI: Signed compare against an immediate (R87) -/
  | slti (d : BitVec 7) (a : BitVec 7) (i : BitVec 11)
  /-- SLTIU: Unsigned compare against an immediate (R87) -/
  | sltiu (d : BitVec 7) (a : BitVec 7) (i : BitVec 11)
  /-- SLLI: Shifts left by an immediate count (R87) -/
  | slli (d : BitVec 7) (a : BitVec 7) (i : BitVec 6)
  /-- SRLI: Shifts right logically by an immediate count (R87) -/
  | srli (d : BitVec 7) (a : BitVec 7) (i : BitVec 6)
  /-- SRAI: Shifts right arithmetically by an immediate count (R87) -/
  | srai (d : BitVec 7) (a : BitVec 7) (i : BitVec 6)
  /-- LIH: Shifts rd left by 18 and inserts an 18-bit immediate (R88) -/
  | lih (d : BitVec 7) (i : BitVec 18)
  /-- ADDPC: Writes PC plus the immediate times 2048 (R88) -/
  | addpc (d : BitVec 7) (i : BitVec 18)
  /-- LB: Loads a sign-extended byte (R92) -/
  | lb (d : BitVec 7) (a : BitVec 7) (i : BitVec 11)
  /-- LBU: Loads a zero-extended byte (R92) -/
  | lbu (d : BitVec 7) (a : BitVec 7) (i : BitVec 11)
  /-- LH: Loads a sign-extended halfword (R92) -/
  | lh (d : BitVec 7) (a : BitVec 7) (i : BitVec 11)
  /-- LHU: Loads a zero-extended halfword (R92) -/
  | lhu (d : BitVec 7) (a : BitVec 7) (i : BitVec 11)
  /-- LW: Loads a sign-extended word (R92) -/
  | lw (d : BitVec 7) (a : BitVec 7) (i : BitVec 11)
  /-- LWU: Loads a zero-extended word (R92) -/
  | lwu (d : BitVec 7) (a : BitVec 7) (i : BitVec 11)
  /-- LD: Loads a doubleword (R92) -/
  | ld (d : BitVec 7) (a : BitVec 7) (i : BitVec 11)
  /-- SB: Stores a byte (R92) -/
  | sb (s : BitVec 7) (a : BitVec 7) (i : BitVec 11)
  /-- SH: Stores a halfword (R92) -/
  | sh (s : BitVec 7) (a : BitVec 7) (i : BitVec 11)
  /-- SW: Stores a word (R92) -/
  | sw (s : BitVec 7) (a : BitVec 7) (i : BitVec 11)
  /-- SD: Stores a doubleword (R92) -/
  | sd (s : BitVec 7) (a : BitVec 7) (i : BitVec 11)
  /-- BEQ: Branches when equal (R93) -/
  | beq (b : BitVec 7) (a : BitVec 7) (o : BitVec 11)
  /-- BNE: Branches when not equal (R93) -/
  | bne (b : BitVec 7) (a : BitVec 7) (o : BitVec 11)
  /-- BLT: Branches when signed less (R93) -/
  | blt (b : BitVec 7) (a : BitVec 7) (o : BitVec 11)
  /-- BGE: Branches when signed greater or equal (R93) -/
  | bge (b : BitVec 7) (a : BitVec 7) (o : BitVec 11)
  /-- BLTU: Branches when unsigned less (R93) -/
  | bltu (b : BitVec 7) (a : BitVec 7) (o : BitVec 11)
  /-- BGEU: Branches when unsigned greater or equal (R93) -/
  | bgeu (b : BitVec 7) (a : BitVec 7) (o : BitVec 11)
  /-- FADD_F32: Rounded F32 addition (R90) -/
  | faddF32 (d : BitVec 7) (a : BitVec 7) (b : BitVec 7)
  /-- FSUB_F32: Rounded F32 subtraction (R90) -/
  | fsubF32 (d : BitVec 7) (a : BitVec 7) (b : BitVec 7)
  /-- FMUL_F32: Rounded F32 multiplication (R90) -/
  | fmulF32 (d : BitVec 7) (a : BitVec 7) (b : BitVec 7)
  /-- FDIV_F32: Rounded F32 division (R90) -/
  | fdivF32 (d : BitVec 7) (a : BitVec 7) (b : BitVec 7)
  /-- FSQRT_F32: Rounded F32 square root (R90) -/
  | fsqrtF32 (d : BitVec 7) (a : BitVec 7)
  /-- FMIN_F32: F32 minimumNumber (R90) -/
  | fminF32 (d : BitVec 7) (a : BitVec 7) (b : BitVec 7)
  /-- FMAX_F32: F32 maximumNumber (R90) -/
  | fmaxF32 (d : BitVec 7) (a : BitVec 7) (b : BitVec 7)
  /-- FMA_F32: F32 fused multiply-add into rd (R90) -/
  | fmaF32 (d : BitVec 7) (a : BitVec 7) (b : BitVec 7)
  /-- FCMP_EQ_F32: Quiet F32 equality compare (R90) -/
  | fcmpEqF32 (d : BitVec 7) (a : BitVec 7) (b : BitVec 7)
  /-- FCMP_LT_F32: Signalling F32 less-than compare (R90) -/
  | fcmpLtF32 (d : BitVec 7) (a : BitVec 7) (b : BitVec 7)
  /-- FCMP_LE_F32: Signalling F32 less-or-equal compare (R90) -/
  | fcmpLeF32 (d : BitVec 7) (a : BitVec 7) (b : BitVec 7)
  /-- FCMP_UN_F32: Quiet F32 unordered compare (R90) -/
  | fcmpUnF32 (d : BitVec 7) (a : BitVec 7) (b : BitVec 7)
  /-- FCLASS_F32: Writes the F32 class mask (R90) -/
  | fclassF32 (d : BitVec 7) (a : BitVec 7)
  /-- FADD_F64: Rounded F64 addition (R90) -/
  | faddF64 (d : BitVec 7) (a : BitVec 7) (b : BitVec 7)
  /-- FSUB_F64: Rounded F64 subtraction (R90) -/
  | fsubF64 (d : BitVec 7) (a : BitVec 7) (b : BitVec 7)
  /-- FMUL_F64: Rounded F64 multiplication (R90) -/
  | fmulF64 (d : BitVec 7) (a : BitVec 7) (b : BitVec 7)
  /-- FDIV_F64: Rounded F64 division (R90) -/
  | fdivF64 (d : BitVec 7) (a : BitVec 7) (b : BitVec 7)
  /-- FSQRT_F64: Rounded F64 square root (R90) -/
  | fsqrtF64 (d : BitVec 7) (a : BitVec 7)
  /-- FMIN_F64: F64 minimumNumber (R90) -/
  | fminF64 (d : BitVec 7) (a : BitVec 7) (b : BitVec 7)
  /-- FMAX_F64: F64 maximumNumber (R90) -/
  | fmaxF64 (d : BitVec 7) (a : BitVec 7) (b : BitVec 7)
  /-- FMA_F64: F64 fused multiply-add into rd (R90) -/
  | fmaF64 (d : BitVec 7) (a : BitVec 7) (b : BitVec 7)
  /-- FCMP_EQ_F64: Quiet F64 equality compare (R90) -/
  | fcmpEqF64 (d : BitVec 7) (a : BitVec 7) (b : BitVec 7)
  /-- FCMP_LT_F64: Signalling F64 less-than compare (R90) -/
  | fcmpLtF64 (d : BitVec 7) (a : BitVec 7) (b : BitVec 7)
  /-- FCMP_LE_F64: Signalling F64 less-or-equal compare (R90) -/
  | fcmpLeF64 (d : BitVec 7) (a : BitVec 7) (b : BitVec 7)
  /-- FCMP_UN_F64: Quiet F64 unordered compare (R90) -/
  | fcmpUnF64 (d : BitVec 7) (a : BitVec 7) (b : BitVec 7)
  /-- FCLASS_F64: Writes the F64 class mask (R90) -/
  | fclassF64 (d : BitVec 7) (a : BitVec 7)
  /-- FCVT: Converts one scalar value between integer and float types (R91) -/
  | fcvt (d : BitVec 7) (a : BitVec 7) (s : BitVec 4) (t : BitVec 4)
  /-- JAL: Links NextPC and jumps by a word offset (R94) -/
  | jal (d : BitVec 7) (o : BitVec 18)
  /-- JALR: Links NextPC and jumps to a register plus offset (R94) -/
  | jalr (d : BitVec 7) (a : BitVec 7) (i : BitVec 11)
  /-- NEST: Runs the following body words over a descriptor loop nest (R96) -/
  | nest (a : BitVec 7) (n : BitVec 5)
  /-- WIN: Moves the scalar and vector window bases (R99) -/
  | win (s : BitVec 4) (v : BitVec 4)
  /-- QPUSH: Appends a scalar to a queue register, waiting for room (R100) -/
  | qpush (a : BitVec 7) (q : BitVec 7)
  /-- QPOP: Removes the head of a queue register into rd, waiting for an entry (R100) -/
  | qpop (d : BitVec 7) (q : BitVec 7)
  /-- QCNT: Writes the number of entries in a queue register (R100) -/
  | qcnt (d : BitVec 7) (q : BitVec 7)
  /-- QLINK: Links or unlinks a queue register to a producer hart's queue (R218) -/
  | qlink (q : BitVec 7) (a : BitVec 7)
  /-- TRAP: Takes the scalar-side trap with cause 3 and a code (R105) -/
  | trap (c : BitVec 14)
  /-- BRK: Takes the scalar-side trap with cause 4 and a code (R105) -/
  | brk (c : BitVec 14)
  /-- CLEAN: Writes back every dirty cached line of a range (R110) -/
  | clean (a : BitVec 7) (b : BitVec 7)
  /-- CDROP: Removes every cached line of a range without writing back (R110) -/
  | cdrop (a : BitVec 7) (b : BitVec 7)
  /-- TLBINV: Invalidates cached translations of a range in every walker of the package (R111) -/
  | tlbinv (a : BitVec 7) (b : BitVec 7)
  /-- SRR: Reads a system register into rd (R102) -/
  | srr (d : BitVec 7) (n : BitVec 11)
  /-- SRW_FFLAGS: Writes FFLAGS after earlier vector instructions complete (R27) -/
  | srwFflags (a : BitVec 7)
  /-- SRW_FCTL: Writes each FCTL field by its own rule after the vector drain (R28) -/
  | srwFctl (a : BitVec 7)
  /-- SRW_FEXCA: Writes FEXCA after the vector drain (R67) -/
  | srwFexca (a : BitVec 7)
  /-- SRW_FEXCB: Writes FEXCB after the vector drain (R67) -/
  | srwFexcb (a : BitVec 7)
  /-- SRW_FPROGA: Sets the start positions of the next progress-class fibre instruction (R258) -/
  | srwFproga (a : BitVec 7)
  /-- SRW_FPROGB: Sets the second word of start positions (R258) -/
  | srwFprogb (a : BitVec 7)
  /-- SRW_FSTAT: Writes FSTAT, with RNG cleared only by a zero (R258) -/
  | srwFstat (a : BitVec 7)
  /-- SRW_MCTL: Writes the Billon stall mode and timeout (R241) -/
  | srwMctl (a : BitVec 7)
  /-- SRW_LMAP: Selects the column that LMAP describes (R14) -/
  | srwLmap (a : BitVec 7)
  /-- VADD: Element-wise integer add, vector second source (R127) -/
  | vadd (d : BitVec 7) (a : BitVec 7) (b : BitVec 7) (px : Option Pfx)
  /-- VSUB: Element-wise integer subtract, vector second source (R127) -/
  | vsub (d : BitVec 7) (a : BitVec 7) (b : BitVec 7) (px : Option Pfx)
  /-- VAND: Element-wise and, vector second source (R127) -/
  | vand (d : BitVec 7) (a : BitVec 7) (b : BitVec 7) (px : Option Pfx)
  /-- VOR: Element-wise or, vector second source (R127) -/
  | vor (d : BitVec 7) (a : BitVec 7) (b : BitVec 7) (px : Option Pfx)
  /-- VXOR: Element-wise xor, vector second source (R127) -/
  | vxor (d : BitVec 7) (a : BitVec 7) (b : BitVec 7) (px : Option Pfx)
  /-- VMIN: Element-wise integer minimum, vector second source (R127) -/
  | vmin (d : BitVec 7) (a : BitVec 7) (b : BitVec 7) (px : Option Pfx)
  /-- VMAX: Element-wise integer maximum, vector second source (R127) -/
  | vmax (d : BitVec 7) (a : BitVec 7) (b : BitVec 7) (px : Option Pfx)
  /-- VSADD: Element-wise saturating add, vector second source (R127) -/
  | vsadd (d : BitVec 7) (a : BitVec 7) (b : BitVec 7) (px : Option Pfx)
  /-- VSSUB: Element-wise saturating subtract, vector second source (R127) -/
  | vssub (d : BitVec 7) (a : BitVec 7) (b : BitVec 7) (px : Option Pfx)
  /-- VADD_SCALAR: Integer add with a scalar second source (R127) -/
  | vaddScalar (d : BitVec 7) (a : BitVec 7) (b : BitVec 7) (px : Option Pfx)
  /-- VSUB_SCALAR: Integer subtract with a scalar second source (R127) -/
  | vsubScalar (d : BitVec 7) (a : BitVec 7) (b : BitVec 7) (px : Option Pfx)
  /-- VAND_SCALAR: And with a scalar second source (R127) -/
  | vandScalar (d : BitVec 7) (a : BitVec 7) (b : BitVec 7) (px : Option Pfx)
  /-- VOR_SCALAR: Or with a scalar second source (R127) -/
  | vorScalar (d : BitVec 7) (a : BitVec 7) (b : BitVec 7) (px : Option Pfx)
  /-- VXOR_SCALAR: Xor with a scalar second source (R127) -/
  | vxorScalar (d : BitVec 7) (a : BitVec 7) (b : BitVec 7) (px : Option Pfx)
  /-- VMIN_SCALAR: Integer minimum with a scalar second source (R127) -/
  | vminScalar (d : BitVec 7) (a : BitVec 7) (b : BitVec 7) (px : Option Pfx)
  /-- VMAX_SCALAR: Integer maximum with a scalar second source (R127) -/
  | vmaxScalar (d : BitVec 7) (a : BitVec 7) (b : BitVec 7) (px : Option Pfx)
  /-- VSADD_SCALAR: Saturating add with a scalar second source (R127) -/
  | vsaddScalar (d : BitVec 7) (a : BitVec 7) (b : BitVec 7) (px : Option Pfx)
  /-- VSSUB_SCALAR: Saturating subtract with a scalar second source (R127) -/
  | vssubScalar (d : BitVec 7) (a : BitVec 7) (b : BitVec 7) (px : Option Pfx)
  /-- VMUL: Element-wise integer multiply, vector second source (R128) -/
  | vmul (d : BitVec 7) (a : BitVec 7) (b : BitVec 7) (px : Option Pfx)
  /-- VMULH: Element-wise high half of the product (R128) -/
  | vmulh (d : BitVec 7) (a : BitVec 7) (b : BitVec 7) (px : Option Pfx)
  /-- VMACC: Element-wise multiply-accumulate into vd (R128) -/
  | vmacc (d : BitVec 7) (a : BitVec 7) (b : BitVec 7) (px : Option Pfx)
  /-- VSLL: Element-wise shift left (R128) -/
  | vsll (d : BitVec 7) (a : BitVec 7) (b : BitVec 7) (px : Option Pfx)
  /-- VSRL: Element-wise logical shift right (R128) -/
  | vsrl (d : BitVec 7) (a : BitVec 7) (b : BitVec 7) (px : Option Pfx)
  /-- VSRA: Element-wise arithmetic shift right (R128) -/
  | vsra (d : BitVec 7) (a : BitVec 7) (b : BitVec 7) (px : Option Pfx)
  /-- VCLZ: Element-wise count of leading zeros (R128) -/
  | vclz (d : BitVec 7) (a : BitVec 7) (px : Option Pfx)
  /-- VPOPC: Element-wise population count (R128) -/
  | vpopc (d : BitVec 7) (a : BitVec 7) (px : Option Pfx)
  /-- VMUL_SCALAR: Integer multiply by a scalar (R128) -/
  | vmulScalar (d : BitVec 7) (a : BitVec 7) (b : BitVec 7) (px : Option Pfx)
  /-- VMULH_SCALAR: High half of the product with a scalar (R128) -/
  | vmulhScalar (d : BitVec 7) (a : BitVec 7) (b : BitVec 7) (px : Option Pfx)
  /-- VMACC_SCALAR: Multiply-accumulate with a scalar (R128) -/
  | vmaccScalar (d : BitVec 7) (a : BitVec 7) (b : BitVec 7) (px : Option Pfx)
  /-- VSLL_SCALAR: Shift left by a scalar count (R128) -/
  | vsllScalar (d : BitVec 7) (a : BitVec 7) (b : BitVec 7) (px : Option Pfx)
  /-- VSRL_SCALAR: Logical shift right by a scalar count (R128) -/
  | vsrlScalar (d : BitVec 7) (a : BitVec 7) (b : BitVec 7) (px : Option Pfx)
  /-- VSRA_SCALAR: Arithmetic shift right by a scalar count (R128) -/
  | vsraScalar (d : BitVec 7) (a : BitVec 7) (b : BitVec 7) (px : Option Pfx)
  /-- VFADD: Element-wise float add, vector second source (R129) -/
  | vfadd (d : BitVec 7) (a : BitVec 7) (b : BitVec 7) (px : Option Pfx)
  /-- VFSUB: Element-wise float subtract (R129) -/
  | vfsub (d : BitVec 7) (a : BitVec 7) (b : BitVec 7) (px : Option Pfx)
  /-- VFMUL: Element-wise float multiply (R129) -/
  | vfmul (d : BitVec 7) (a : BitVec 7) (b : BitVec 7) (px : Option Pfx)
  /-- VFMA: Element-wise fused multiply-add (R129) -/
  | vfma (d : BitVec 7) (a : BitVec 7) (b : BitVec 7) (px : Option Pfx)
  /-- VFNMA: Element-wise negated-product fused multiply-add (R129) -/
  | vfnma (d : BitVec 7) (a : BitVec 7) (b : BitVec 7) (px : Option Pfx)
  /-- VFDIV: Element-wise float divide (R129) -/
  | vfdiv (d : BitVec 7) (a : BitVec 7) (b : BitVec 7) (px : Option Pfx)
  /-- VFSQRT: Element-wise float square root (R129) -/
  | vfsqrt (d : BitVec 7) (a : BitVec 7) (px : Option Pfx)
  /-- VFMIN: Element-wise minimumNumber (R129) -/
  | vfmin (d : BitVec 7) (a : BitVec 7) (b : BitVec 7) (px : Option Pfx)
  /-- VFMAX: Element-wise maximumNumber (R129) -/
  | vfmax (d : BitVec 7) (a : BitVec 7) (b : BitVec 7) (px : Option Pfx)
  /-- VFCLASS: Element-wise class mask (R129) -/
  | vfclass (d : BitVec 7) (a : BitVec 7) (px : Option Pfx)
  /-- VFADD_SCALAR: Float add with a scalar second source (R129) -/
  | vfaddScalar (d : BitVec 7) (a : BitVec 7) (b : BitVec 7) (px : Option Pfx)
  /-- VFSUB_SCALAR: Float subtract with a scalar second source (R129) -/
  | vfsubScalar (d : BitVec 7) (a : BitVec 7) (b : BitVec 7) (px : Option Pfx)
  /-- VFMUL_SCALAR: Float multiply by a scalar (R129) -/
  | vfmulScalar (d : BitVec 7) (a : BitVec 7) (b : BitVec 7) (px : Option Pfx)
  /-- VFMA_SCALAR: Fused multiply-add with a scalar multiplier (R129) -/
  | vfmaScalar (d : BitVec 7) (a : BitVec 7) (b : BitVec 7) (px : Option Pfx)
  /-- VFNMA_SCALAR: Negated fused multiply-add with a scalar multiplier (R129) -/
  | vfnmaScalar (d : BitVec 7) (a : BitVec 7) (b : BitVec 7) (px : Option Pfx)
  /-- VFDIV_SCALAR: Float divide by a scalar (R129) -/
  | vfdivScalar (d : BitVec 7) (a : BitVec 7) (b : BitVec 7) (px : Option Pfx)
  /-- VFMIN_SCALAR: minimumNumber with a scalar (R129) -/
  | vfminScalar (d : BitVec 7) (a : BitVec 7) (b : BitVec 7) (px : Option Pfx)
  /-- VFMAX_SCALAR: maximumNumber with a scalar (R129) -/
  | vfmaxScalar (d : BitVec 7) (a : BitVec 7) (b : BitVec 7) (px : Option Pfx)
  /-- VCMP: Integer compare writing one mask bit per element (R130) -/
  | vcmp (d : BitVec 7) (a : BitVec 7) (b : BitVec 7) (c : BitVec 4) (px : Option Pfx)
  /-- VFCMP_EQ: Quiet float equality compare into a mask (R130) -/
  | vfcmpEq (d : BitVec 7) (a : BitVec 7) (b : BitVec 7) (px : Option Pfx)
  /-- VFCMP_NE: Quiet float inequality compare into a mask (R130) -/
  | vfcmpNe (d : BitVec 7) (a : BitVec 7) (b : BitVec 7) (px : Option Pfx)
  /-- VFCMP_LT: Signalling float less-than compare into a mask (R130) -/
  | vfcmpLt (d : BitVec 7) (a : BitVec 7) (b : BitVec 7) (px : Option Pfx)
  /-- VFCMP_LE: Signalling float less-or-equal compare into a mask (R130) -/
  | vfcmpLe (d : BitVec 7) (a : BitVec 7) (b : BitVec 7) (px : Option Pfx)
  /-- VFCMP_UN: Quiet unordered compare into a mask (R130) -/
  | vfcmpUn (d : BitVec 7) (a : BitVec 7) (b : BitVec 7) (px : Option Pfx)
  /-- MAND: Ands two mask registers (R131) -/
  | mand (d : BitVec 7) (a : BitVec 7) (b : BitVec 7) (px : Option Pfx)
  /-- MOR: Ors two mask registers (R131) -/
  | mor (d : BitVec 7) (a : BitVec 7) (b : BitVec 7) (px : Option Pfx)
  /-- MXOR: Exclusive-ors two mask registers (R131) -/
  | mxor (d : BitVec 7) (a : BitVec 7) (b : BitVec 7) (px : Option Pfx)
  /-- MANDN: Ands a mask with the complement of another (R131) -/
  | mandn (d : BitVec 7) (a : BitVec 7) (b : BitVec 7) (px : Option Pfx)
  /-- MPOPC: Writes the number of set mask bits to a scalar (R131) -/
  | mpopc (d : BitVec 7) (a : BitVec 7) (px : Option Pfx)
  /-- MFIRST: Writes the lowest set mask bit to a scalar (R131) -/
  | mfirst (d : BitVec 7) (a : BitVec 7) (px : Option Pfx)
  /-- MSET: Sets mask bits below a scalar limit (R131) -/
  | mset (d : BitVec 7) (a : BitVec 7) (px : Option Pfx)
  /-- VCVT: Converts each active element between types (R132) -/
  | vcvt (d : BitVec 7) (a : BitVec 7) (s : BitVec 4) (px : Option Pfx)
  /-- VWIDEN: Widens each active element exactly (R133) -/
  | vwiden (d : BitVec 7) (a : BitVec 7) (px : Option Pfx)
  /-- VNARROW: Shifts and narrows each integer element to half width (R134) -/
  | vnarrow (d : BitVec 7) (a : BitVec 7) (b : BitVec 7) (px : Option Pfx)
  /-- VQUANT: Quantises elements by block exponents to T8, T6, S8 or S4 (R136) -/
  | vquant (d : BitVec 7) (a : BitVec 7) (b : BitVec 3) (c : BitVec 3) (x : BitVec 1) (px : Option Pfx)
  /-- SMAXE: Writes block exponents into a scale register (R135) -/
  | smaxe (d : BitVec 7) (a : BitVec 7) (b : BitVec 3) (px : Option Pfx)
  /-- VSCACC: Scales S32 partial sums and accumulates them into F32 (R138) -/
  | vscacc (d : BitVec 7) (a : BitVec 7) (e : BitVec 3) (c : BitVec 3) (px : Option Pfx)
  /-- VSCALE: Multiplies each element by a block power of two (R137) -/
  | vscale (d : BitVec 7) (a : BitVec 7) (b : BitVec 3) (c : BitVec 3) (x : BitVec 1) (px : Option Pfx)
  /-- VREDSUM: Integer sum reduction (R139) -/
  | vredsum (d : BitVec 7) (a : BitVec 7) (b : BitVec 7) (px : Option Pfx)
  /-- VREDMIN: Integer minimum reduction (R139) -/
  | vredmin (d : BitVec 7) (a : BitVec 7) (b : BitVec 7) (px : Option Pfx)
  /-- VREDMAX: Integer maximum reduction (R139) -/
  | vredmax (d : BitVec 7) (a : BitVec 7) (b : BitVec 7) (px : Option Pfx)
  /-- VFREDSUM: Ordered float sum reduction (R139) -/
  | vfredsum (d : BitVec 7) (a : BitVec 7) (b : BitVec 7) (px : Option Pfx)
  /-- VFREDSUMT: Pairwise-tree float sum reduction (R139) -/
  | vfredsumt (d : BitVec 7) (a : BitVec 7) (b : BitVec 7) (px : Option Pfx)
  /-- VFREDMAX: maximumNumber reduction (R139) -/
  | vfredmax (d : BitVec 7) (a : BitVec 7) (b : BitVec 7) (px : Option Pfx)
  /-- VPERM: Permutes each row by an index vector (R140) -/
  | vperm (d : BitVec 7) (a : BitVec 7) (b : BitVec 7) (px : Option Pfx)
  /-- VSLIDEUP: Slides each row up by a scalar count (R140) -/
  | vslideup (d : BitVec 7) (a : BitVec 7) (b : BitVec 7) (px : Option Pfx)
  /-- VSLIDEDN: Slides each row down by a scalar count (R140) -/
  | vslidedn (d : BitVec 7) (a : BitVec 7) (b : BitVec 7) (px : Option Pfx)
  /-- VREV: Reverses each row (R140) -/
  | vrev (d : BitVec 7) (a : BitVec 7) (px : Option Pfx)
  /-- VBCAST: Broadcasts a scalar to every element (R140) -/
  | vbcast (d : BitVec 7) (a : BitVec 7) (px : Option Pfx)
  /-- VIOTA: Writes the count of active elements below each element (R140) -/
  | viota (d : BitVec 7) (px : Option Pfx)
  /-- VMERGE: Selects between two sources by the mask (R140) -/
  | vmerge (d : BitVec 7) (a : BitVec 7) (b : BitVec 7) (px : Option Pfx)
  /-- VRESHAPE: Transposes the sweep viewed as rows of length L (R141) -/
  | vreshape (d : BitVec 7) (a : BitVec 7) (b : BitVec 7) (px : Option Pfx)
  /-- VCOMPRESS: Packs the active elements of each row to its front (R142) -/
  | vcompress (d : BitVec 7) (a : BitVec 7) (px : Option Pfx)
  /-- VEXPAND: Spreads leading elements to the active positions of each row (R143) -/
  | vexpand (d : BitVec 7) (a : BitVec 7) (px : Option Pfx)
  /-- VEXTRACT: Copies one element to a scalar register (R143) -/
  | vextract (d : BitVec 7) (a : BitVec 7) (b : BitVec 7) (px : Option Pfx)
  /-- VINSERT: Writes a scalar into one element (R143) -/
  | vinsert (d : BitVec 7) (a : BitVec 7) (b : BitVec 7) (px : Option Pfx)
  /-- VQPOP: Moves queue entries into the rows of a vector sweep (R144) -/
  | vqpop (d : BitVec 7) (q : BitVec 7) (px : Option Pfx)
  /-- VQPUSH: Appends the rows of a vector sweep to a queue (R144) -/
  | vqpush (q : BitVec 7) (a : BitVec 7) (px : Option Pfx)
  /-- SETVL: Sets VL and ROWS from scalar requests (R126) -/
  | setvl (d : BitVec 7) (a : BitVec 7) (b : BitVec 7) (t : BitVec 4) (px : Option Pfx)
  /-- SETVLI: Sets VL from a scalar and ROWS from an immediate (R126) -/
  | setvli (d : BitVec 7) (a : BitVec 7) (r : BitVec 2) (t : BitVec 4) (px : Option Pfx)
  /-- VLD: Unit-stride vector load (R195) -/
  | vld (d : BitVec 7) (a : BitVec 7) (i : BitVec 11) (px : Option Pfx)
  /-- VLDS: Strided vector load (R195) -/
  | vlds (d : BitVec 7) (a : BitVec 7) (b : BitVec 7) (px : Option Pfx)
  /-- VLDX: Indexed vector load (R195) -/
  | vldx (d : BitVec 7) (a : BitVec 7) (b : BitVec 7) (m : BitVec 2) (px : Option Pfx)
  /-- VST: Unit-stride vector store (R195) -/
  | vst (s : BitVec 7) (a : BitVec 7) (i : BitVec 11) (px : Option Pfx)
  /-- VSTS: Strided vector store (R195) -/
  | vsts (s : BitVec 7) (a : BitVec 7) (b : BitVec 7) (px : Option Pfx)
  /-- VSTX: Indexed vector store (R195) -/
  | vstx (s : BitVec 7) (a : BitVec 7) (b : BitVec 7) (m : BitVec 2) (px : Option Pfx)
  /-- VLDW: Unit-stride load guarded by a watermark slot (R198) -/
  | vldw (d : BitVec 7) (a : BitVec 7) (k : BitVec 2) (px : Option Pfx)
  /-- VAMO: Per-element slice atomics returning old values (R199) -/
  | vamo (d : BitVec 7) (a : BitVec 7) (b : BitVec 7) (o : BitVec 4) (px : Option Pfx)
  /-- AMO: Scalar atomic with optional ordering (R201) -/
  | amo (d : BitVec 7) (a : BitVec 7) (p : BitVec 4) (z : BitVec 1) (o : BitVec 3) (s : BitVec 3)
  /-- AMOCAS: Scalar compare-and-swap using rd and rd + 1 (R201) -/
  | amocas (d : BitVec 7) (a : BitVec 7) (z : BitVec 1) (o : BitVec 3) (s : BitVec 3)
  /-- FENCE: Orders accesses by scope, order and direction (R202) -/
  | fence (s : BitVec 3) (o : BitVec 2) (t : BitVec 2)
  /-- BAR: Arrives at a barrier of the hart's group at a scope (R203) -/
  | bar (s : BitVec 3) (a : BitVec 7)
  /-- WAITGE: Waits until a word reaches a threshold, with acquire (R204) -/
  | waitge (s : BitVec 3) (a : BitVec 7) (b : BitVec 7)
  /-- WMPUB: Releases and then publishes a progress word by atomic maximum (R205) -/
  | wmpub (s : BitVec 3) (a : BitVec 7) (b : BitVec 7)
  /-- WMBIND: Binds a watermark slot to a word, base and scope (R205) -/
  | wmbind (k : BitVec 2) (s : BitVec 3) (a : BitVec 7) (b : BitVec 7)
  /-- LAUNCH: Releases and submits a device-side launch, returning a handle (R206) -/
  | launch (d : BitVec 7) (a : BitVec 7)
  /-- CPY: Issues a copy command on a copy channel (R210) -/
  | cpy (c : BitVec 3) (a : BitVec 7)
  /-- CWAIT: Waits for a copy channel's write pointer and returns its status (R212) -/
  | cwait (d : BitVec 7) (c : BitVec 3) (b : BitVec 7)
  /-- CWP: Returns a copy channel's status at once (R212) -/
  | cwp (d : BitVec 7) (c : BitVec 3)
  /-- SSTR: Opens a sparse stream of coordinates into a queue (R213) -/
  | sstr (q : BitVec 7) (a : BitVec 7) (b : BitVec 7) (s : BitVec 2)
  /-- SCLOSE: Closes a sparse stream (R213) -/
  | sclose (s : BitVec 2)
  /-- ISTR: Issues an indirect-stream gather command (R215) -/
  | istr (k : BitVec 2) (a : BitVec 7)
  /-- IWAIT: Waits for an indirect-stream slot and returns its status (R217) -/
  | iwait (d : BitVec 7) (k : BitVec 2)
  /-- EST: Broadcasts a store to the Electrum region in slot writes (R227) -/
  | est (v : BitVec 7) (a : BitVec 7) (b : BitVec 7)
  /-- EADD_S32: Broadcasts S32 adds to the Electrum region (R227) -/
  | eaddS32 (v : BitVec 7) (a : BitVec 7) (b : BitVec 7)
  /-- EADD_F32: Broadcasts F32 adds to the Electrum region (R227) -/
  | eaddF32 (v : BitVec 7) (a : BitVec 7) (b : BitVec 7)
  /-- ESEQ: Reads the local replica's slot-write count (R228) -/
  | eseq (d : BitVec 7)
  /-- EWAIT: Waits for a condition at the local Electrum replica (R229) -/
  | ewait (m : BitVec 2) (a : BitVec 7) (b : BitVec 7)
  /-- FLD: Loads coordinate-value pairs from two arrays into a fibre (R265) -/
  | fld (d : BitVec 7) (a : BitVec 7) (b : BitVec 7) (px : Option Pfx)
  /-- FST: Stores a fibre's pairs to two arrays (R265) -/
  | fst (d : BitVec 7) (a : BitVec 7) (px : Option Pfx)
  /-- FWALK: Walks one compressed level into a fibre (R267) -/
  | fwalk (d : BitVec 7) (a : BitVec 7) (b : BitVec 7) (px : Option Pfx)
  /-- FSORT: Sorts a fibre and combines equal coordinates (R268) -/
  | fsort (d : BitVec 7) (a : BitVec 7) (o : BitVec 4) (px : Option Pfx)
  /-- FISECT: Intersects two ordered sources, combining matches (R269) -/
  | fisect (d : BitVec 7) (a : BitVec 7) (b : BitVec 7) (o : BitVec 3) (px : Option Pfx)
  /-- FISECTC: Adds the size of an intersection to a scalar (R269) -/
  | fisectc (d : BitVec 7) (a : BitVec 7) (b : BitVec 7) (px : Option Pfx)
  /-- FUNION: Unites two ordered sources, combining matches (R269) -/
  | funion (d : BitVec 7) (a : BitVec 7) (b : BitVec 7) (o : BitVec 3) (px : Option Pfx)
  /-- FMERGE: Merges up to eight ordered fibres (R270) -/
  | fmerge (d : BitVec 7) (a : BitVec 7) (k : BitVec 3) (o : BitVec 4) (px : Option Pfx)
  /-- FCOMPACT: Keeps only the pairs with nonzero value (R271) -/
  | fcompact (d : BitVec 7) (a : BitVec 7) (px : Option Pfx)
  /-- FEXPAND: Scatters a fibre into a dense vector sweep (R272) -/
  | fexpand (d : BitVec 7) (a : BitVec 7) (b : BitVec 7) (px : Option Pfx)
  /-- FGATHER: Fills a fibre's values from a dense vector sweep (R272) -/
  | fgather (d : BitVec 7) (a : BitVec 7) (b : BitVec 7) (px : Option Pfx)
  /-- FSLICE: Keeps the pairs whose coordinate lies within bounds (R271) -/
  | fslice (d : BitVec 7) (a : BitVec 7) (b : BitVec 7) (px : Option Pfx)
  /-- FMAP: Applies a scalar operation to every value of a fibre (R271) -/
  | fmap (d : BitVec 7) (a : BitVec 7) (b : BitVec 7) (o : BitVec 3) (px : Option Pfx)
  /-- FCFG: Sets a fibre's capacity and empties it (R273) -/
  | fcfg (f : BitVec 7) (a : BitVec 7) (px : Option Pfx)
  /-- FCLR: Empties a fibre (R273) -/
  | fclr (f : BitVec 7) (px : Option Pfx)
  /-- FLENR: Reads a fibre's capacity and occupancy (R273) -/
  | flenr (d : BitVec 7) (f : BitVec 7) (px : Option Pfx)
  /-- MTLOAD: Loads a tile slot from memory with alignment (R245) -/
  | mtload (c : BitVec 7) (a : BitVec 7) (b : BitVec 7) (t : BitVec 2) (px : Option Pfx)
  /-- MTZERO: Zeroes a tile slot and marks it EMPTY (R246) -/
  | mtzero (t : BitVec 2) (px : Option Pfx)
  /-- MROW: Multiplies a vector row by a tile and commits an accumulator row (R247) -/
  | mrow (v : BitVec 7) (a : BitVec 7) (c : BitVec 7) (t : BitVec 2) (px : Option Pfx)
  /-- MROWG: Multiplies a fibre against tile rows by coordinate and commits (R248) -/
  | mrowg (f : BitVec 7) (a : BitVec 7) (c : BitVec 7) (t : BitVec 2) (px : Option Pfx)
  /-- MDRAIN: Folds, reads and clears an accumulator row into a vector (R249) -/
  | mdrain (d : BitVec 7) (a : BitVec 7) (px : Option Pfx)
  /-- MDRAIN_KEEP: Folds and reads an accumulator row without clearing it (R249) -/
  | mdrainKeep (d : BitVec 7) (a : BitVec 7) (px : Option Pfx)
  /-- MCLR: Clears a range of accumulator rows and their Billon entries (R250) -/
  | mclr (a : BitVec 7) (px : Option Pfx)
  /-- MSTAT_ROW: Returns the status of an accumulator row (R251) -/
  | mstatRow (d : BitVec 7) (a : BitVec 7) (px : Option Pfx)
  /-- MSTAT_SLOT: Returns the status of a tile slot (R251) -/
  | mstatSlot (d : BitVec 7) (a : BitVec 7) (px : Option Pfx)
  /-- TRAP_ENTRY: After the vector queue drains, enters the task's handler or freezes (R104) -/
  | trapEntry (h : Nat)
  /-- VECTOR_BEAT: A lane group grants one ready element group to a hart in round-robin order (R51) -/
  | vectorBeat (core : Nat) (lane : Nat)
  /-- ENGINE_DISPATCH: An engine command passes to its engine once the interlock allows and the engine is free (R207) -/
  | engineDispatch (h : Nat)
  /-- INTERLOCK_RELEASE: An interlock entry is released when the last access of its instruction or command is performed (R174) -/
  | interlockRelease (h : Nat) (k : Nat)
  /-- VLDW_ELEMENT_READY: A read of the bound word above the element position lets a waiting VLDW element proceed (R198) -/
  | vldwElementReady (h : Nat)
  /-- QPOP_ENTRY_ARRIVAL: A waiting QPOP completes when an entry arrives (R101) -/
  | qpopEntryArrival (h : Nat)
  /-- QPUSH_ROOM: A waiting QPUSH completes when the queue gains room (R101) -/
  | qpushRoom (h : Nat)
  /-- FENCE_COMPLETE: A fence completes once the accesses it orders have been performed (R184) -/
  | fenceComplete (h : Nat)
  /-- BARRIER_DEPARTURE: Once every member has arrived, the barrier departs with an acquire (R203) -/
  | barrierDeparture (h : Nat)
  /-- WAITGE_SATISFIED: A read returns at least the threshold and WAITGE completes (R204) -/
  | waitgeSatisfied (h : Nat)
  /-- EWAIT_SATISFIED: The condition holds at the local replica and EWAIT completes (R229) -/
  | ewaitSatisfied (h : Nat)
  /-- CWAIT_SATISFIED: The write pointer reaches the threshold or the command ends and CWAIT returns (R212) -/
  | cwaitSatisfied (h : Nat)
  /-- IWAIT_SATISFIED: The indirect command ends and IWAIT returns its status (R217) -/
  | iwaitSatisfied (h : Nat)
  /-- SCLOSE_COMPLETE: The stream has stopped and SCLOSE retires (R213) -/
  | scloseComplete (h : Nat)
  /-- TLBINV_COMPLETE: Every walker has acknowledged and TLBINV completes (R280) -/
  | tlbinvComplete (h : Nat)
  /-- WALKER_INVALIDATE: A walker receives an invalidation and moves in-flight work to fresh translation (R281) -/
  | walkerInvalidate (walker : Nat)
  /-- EXIT_COMPLETE: After the drains and the system release, the task ends and its slot returns (R109) -/
  | exitComplete (h : Nat)
  /-- UNCORRECTABLE_ERROR: An uncorrectable error at consumption freezes the consumer or kills the task (R292); one found, like a
  violation, at a remote package is reported by its owner (R170, R326) -/
  | uncorrectableError (master : Master) (unit : ErrUnit) (place : ErrPlace)
  /-- ENGINE_HOLD_SWAP: A hart waiting on an engine held by a fault takes the page-fault swap (R207) -/
  | engineHoldSwap (h : Nat)
  /-- PREEMPTION: A running context swaps with the shadow bank in 96 cycles (R62) -/
  | preemption (h : Nat)
  /-- SPILL_COMPLETE: The outgoing context has been written to its frame and the bank is free (R288) -/
  | spillComplete (core : Nat)
  /-- STAGING_COMPLETE: A staged frame swaps in and the task resumes on its own hart slot (R289) -/
  | stagingComplete (core : Nat)
  /-- BILLON_COMMIT_RETRY: When USED falls, waiting row operations retry their commits in order (R240) -/
  | billonCommitRetry (h : Nat)
  /-- BILLON_STALL_TIMEOUT: A row operation waiting past MCTL.TMO freezes its hart with cause 1 (R240) -/
  | billonStallTimeout (h : Nat)
  /-- SLOT_GRANT: In each Electrum slot, the owning launch grants the slot to its next ready hart (R222) -/
  | slotGrant (tower : Nat) (slot : Nat)
  /-- ELECTRUM_APPLY: Every awake replica and the master apply a slot write and advance ESEQ (R227) -/
  | electrumApply (tower : Nat) (copy : Nat)
  /-- COPY_CHUNK_COMPLETE: A chunk is performed and verified, advancing and publishing the write pointer or stopping on mismatch (R211) -/
  | copyChunkComplete (core : Nat) (ch : Nat)
  /-- SPARSE_STREAM_APPEND: A sparse stream appends its next coordinate or terminator when the queue has room (R213) -/
  | sparseStreamAppend (core : Nat) (st : Nat)
  /-- ISTR_ROW_DELIVER: An indirect-stream engine delivers a gathered row to memory or the queue (R215) -/
  | istrRowDeliver (engine : Nat)
  /-- ISTR_COMPLETE: An indirect command ends and adds 1 to its version's done counter (R215) -/
  | istrComplete (engine : Nat)
  /-- DIR_GETS: A home bank serves a GetS from a scalar data cache (R160) -/
  | dirGets (core : Nat) (line : Nat)
  /-- DIR_GETX: A home bank serves a GetX from a scalar data cache (R160) -/
  | dirGetx (core : Nat) (line : Nat)
  /-- DIR_UPG: A home bank serves an Upg from a sharer (R160) -/
  | dirUpg (core : Nat) (line : Nat)
  /-- SLICE_READ: A read is performed at the home bank (R160) -/
  | sliceRead (h : Nat)
  /-- SLICE_WRITE: A write is performed at the home bank after invalidations (R160) -/
  | sliceWrite (h : Nat)
  /-- SLICE_ATOMIC: The bank's atomic unit performs one atomic in the line's coherence order (R167) -/
  | sliceAtomic (h : Nat)
  /-- DIR_ACK: The bank collects an acknowledgement and completes the transaction when all have arrived (R160) -/
  | dirAck (core : Nat) (line : Nat)
  /-- DIR_PUT: The bank takes a PutE or PutM from an owner (R162) -/
  | dirPut (core : Nat) (line : Nat)
  /-- LLC_SUPERBLOCK_EVICTION: A bank recalls scalar copies, writes back dirty lines and frees a tag (R156) -/
  | llcSuperblockEviction (sb : Nat)
  /-- DC_INV: A scalar data cache invalidates a line and acknowledges (R161) -/
  | dcInv (core : Nat) (line : Nat)
  /-- DC_DOWN: A scalar data cache downgrades a line to S, returning dirty data (R161) -/
  | dcDown (core : Nat) (line : Nat)
  /-- DC_FWDX: A scalar data cache gives up a line, returning dirty data (R161) -/
  | dcFwdx (core : Nat) (line : Nat)
  /-- DC_REPLY: Data or a grant arrives at a scalar data cache and the line enters its state (R161) -/
  | dcReply (core : Nat) (line : Nat)
  /-- DC_SUPERBLOCK_EVICTION: A scalar data cache evicts a superblock with Puts (R156) -/
  | dcSuperblockEviction (core : Nat) (sb : Nat)
  /-- REMOTE_ACCESS: An access from another package arrives over the torus and is performed at the home bank (R169) -/
  | remoteAccess (acc : BusAccess)
  /-- LINK_REPLAY_EXHAUSTED: A link exhausts its replay and the issuing master freezes (R317) -/
  | linkReplayExhausted (access : LinkAccess)
  /-- HOST_REQUEST: A host-link requester's request is translated and performed (R314) -/
  | hostRequest (requester : Nat) (acc : BusAccess)
  /-- RING_ENTRY_TAKE: The scheduler takes the next work-queue entry when allowed (R297) -/
  | ringEntryTake (wq : Nat)
  /-- WAIT_ENTRY_COMPLETE: A wait entry's word reaches its threshold and the entry completes (R297) -/
  | waitEntryComplete (wq : Nat)
  /-- GROUP_START: A group starts when its hart slots, frames and resources are free (R301) -/
  | groupStart (seq : Nat) (place : Nat)
  /-- PRIORITY_AGEING: A waiting group or saved task rises one priority per 2^20 cycles (R303) -/
  | priorityAgeing (task : Bool) (key : Nat)
  /-- GRAPH_NODE_READY: A graph node whose predecessors completed reads its predicate and runs or skips (R306) -/
  | graphNodeReady (seq : Nat) (node : Nat)
  /-- LAUNCH_COMPLETE: All tasks have exited; grants end, the completion word is written and the interrupt raised (R309) -/
  | launchComplete (seq : Nat)
  /-- COALESCE_WINDOW_EXPIRY: A completion window ends and one interrupt covers the completions in it (R311) -/
  | coalesceWindowExpiry (event : Bool) (vec : Nat)
  /-- ABORT_COMPLETE: Every task is killed, grants end and the aborted completion word is written (R310) -/
  | abortComplete (seq : Nat)
  /-- LANE_GROUP_RETIREMENT: A lane-group retirement takes effect once its core holds no task (R17) -/
  | laneGroupRetirement (core : Nat) (group : Nat)
  /-- CORE_RETIREMENT: A core retirement takes effect once no launch is in flight (R17) -/
  | coreRetirement (core : Nat)
  /-- WQDB: A doorbell write sets the new tail of a work queue (R297) -/
  | wqdb (v : Word)
  /-- WQTBASE: Writes the queue table base, discarded while a launch is in flight (R295) -/
  | wqtbase (v : Word)
  /-- FRPOOL: Writes the frame pool, discarded while a launch is in flight (R295) -/
  | frpool (v : Word)
  /-- SCABORT: Aborts the launch or graph named by a handle (R310) -/
  | scabort (v : Word)
  /-- FBBASE: Writes the fault ring base, only while it is empty and nothing is held (R283) -/
  | fbbase (v : Word)
  /-- FBCTL: Writes the fault buffer control; setting ON posts held records (R286) -/
  | fbctl (v : Word)
  /-- FBTAIL: Consumes records and posts held records as space frees (R286) -/
  | fbtail (v : Word)
  /-- FBACK: Acknowledges outstanding translation-fault records, resuming their masters (R287) -/
  | fback (v : Word)
  /-- FBOVF: Clears the held-record count (R283) -/
  | fbovf (v : Word)
  /-- INTERRUPT_UNMASK: Unmasking a vector sends its pending message (R316) -/
  | interruptUnmask (event : Bool) (vec : Nat)
  /-- PACKAGE_RESET: Reset runs the boot sequence from the boot ROM (R318) -/
  | packageReset (boot : BootInput)
  /-- RPTCTL: Setting GO requests an attestation report (R327) -/
  | rptctl (v : Word)
  /-- ATTESTATION_REPORT_WRITTEN: The signed report is written to the host and DONE is set (R327) -/
  | attestationReportWritten
  /-- LAYER_SLEEP: A layer whose conditions held for SLPDLY cycles enters sleep (R322) -/
  | layerSleep (tower : Nat) (layer : Nat)
  /-- LAYER_WAKE_REQUEST: The scheduler needs a sleeping layer's core and power begins to return (R322) -/
  | layerWakeRequest (tower : Nat) (layer : Nat)
  /-- LAYER_POWER_RETURN: Power returns and the replica starts listening with its ESEQ set (R231) -/
  | layerPowerReturn (tower : Nat) (layer : Nat)
  /-- WAKE_COMPLETE: The reload of every block finishes and tasks may start on the layer (R231) -/
  | wakeComplete (tower : Nat) (layer : Nat)
  /-- THERMAL_THROTTLE: Power or temperature above its limit holds issue beats of the tower (R323) -/
  | thermalThrottle (tower : Nat)
  /-- THERMAL_STOP: A junction at 105 °C holds all issue in the tower and raises vector 4 (R323) -/
  | thermalStop (tower : Nat)
  /-- THERMAL_RESUME: A junction below 95 °C lets issue resume (R323) -/
  | thermalResume (tower : Nat)
  /-- THERMAL_SHUTDOWN: A die at 115 °C loses every task and drops every link (R323) -/
  | thermalShutdown
  /-- CORRECTABLE_ERROR: A corrected error is counted and may make its unit lasting (R324) -/
  | correctableError (unit : ErrUnit)
  /-- RAS_WINDOW_EXPIRY: The counting window ends and error counts start afresh (R324) -/
  | rasWindowExpiry
  /-- TSTREQ: Requests an in-field test slot for a core (R325) -/
  | tstreq (v : Word)
  /-- IN_FIELD_TEST_START: The built-in test starts once the core holds no task (R325) -/
  | inFieldTestStart (core : Nat)
  /-- IN_FIELD_TEST_END: The test ends after 2^22 cycles and the core returns or is retired (R325) -/
  | inFieldTestEnd (core : Nat) (pass : Bool)
  /-- DBG_HALT: Freezes a hart at its next scalar instruction boundary (R330) -/
  | dbgHalt (v : Word)
  /-- DBG_RELEASE: Resumes a frozen hart from its restart vectors (R330) -/
  | dbgRelease (v : Word)
  /-- DBG_KILL: Discards a frozen context and stops its engine commands (R293) -/
  | dbgKill (v : Word)
  /-- DBG_EVICT: Spills a frozen context to its frame with class 3 (R293) -/
  | dbgEvict (v : Word)
  /-- DBG_READ: Copies a frozen context to DBGBUF (R330) -/
  | dbgRead (v : Word)
  /-- TRBASE: Writes the trace ring base, discarded while tracing is on (R329) -/
  | trbase (v : Word)
  /-- REGISTER_WRITE: Writes a register-space word that has no row of its own (R312) -/
  | registerWrite (offset : Nat) (v : Word)
  /-- ILLEGAL_ENCODING: A word or word pair that is not an instruction reaches the scalar unit and takes the scalar-side trap with cause 1 before it enters the vector queue (R82) -/
  | illegalEncoding (pre : Option (BitVec 32)) (base : BitVec 32)
  /-- ROW_OPERATION_COMMIT: A row operation's bit-plane broadcast in its tile slot ends and its commit into the accumulator row and Billon is attempted (R238) -/
  | rowOperationCommit (h : Nat)
  /-- TILE_LOAD_COMPLETE: An MTLOAD finishes writing its last row, and its slot leaves LOADING for READY, releasing the row operations that wait on it (R245) -/
  | tileLoadComplete (h : Nat)
  /-- TRET: Returns from a trap handler to s32 and restores the window (R106) -/
  | tret
  /-- YIELD: Offers the hart slot to a waiting task of equal or higher priority (R108) -/
  | yield
  /-- EXIT: Ends the task after draining, closing streams and releasing (R109) -/
  | exit
  deriving DecidableEq, Repr

end Sys2Proof
end

