-- ==== Sys2Proof/Machine/State.lean ====
section
/-! DEFINITION. The state of one package: everything the manual gives the machine, as plain data.
Sparse files are lists of (number, value) in ascending number without entries equal to the default
(Machine/Sparse.lean); Machine/Ops.lean reads and writes them. -/

namespace Sys2Proof.Machine

/-- A sparse file: number and value, ascending, no default values. -/
abbrev SMap (α : Type) := List (Nat × α)

/-- A vector register or a scale register: 2048 bytes (R42, R36). -/
abbrev VReg := BitVec 16384
/-- A mask register: 32,768 bits (R42). -/
abbrev MReg := BitVec 32768

/-- A queue register: slot of its head, and its entries from the head on (R69, R100). -/
structure Queue where
  head : Nat
  ents : List Word
  deriving DecidableEq, Repr

/-- A fibre register: capacity and pairs (R254). -/
structure Fibre where
  cap : Nat
  pairs : List (Nat × Nat)
  deriving DecidableEq, Repr

/-- A watermark binding (R205). -/
structure Binding where
  addr : Nat
  base : Nat
  scope : Nat
  deriving DecidableEq, Repr

/-- The nest of a hart (R95 to R98). start is the address of the NEST; body holds the loop buffer. -/
structure Nest where
  suspended : Bool
  start : Nat
  body : List (BitVec 32)
  trips : List Nat
  ctrs : List Nat
  regs : List Nat
  steps : List (List Word)
  deriving DecidableEq, Repr

/-- Who holds an interlock entry (R174, R176, R224). -/
inductive IlOwner where
  /-- the queue entry with this number -/
  | entry (id : Nat)
  /-- the copy command on this channel -/
  | channel (c : Nat)
  /-- the command on this sparse stream -/
  | stream (st : Nat)
  /-- the indirect stream on this engine -/
  | istr (eng : Nat)
  /-- an EST or EADD whose last slot write has this place in the slot order -/
  | electrum (order : Nat)
  deriving DecidableEq, Repr

/-- An interlock entry: ranges of 64-byte blocks, first and last (R174, R175). -/
structure Ilock where
  owner : IlOwner
  reads : List (Nat × Nat)
  writes : List (Nat × Nat)
  /-- physical blocks of other packages that its accesses touch, recorded or not (R169) -/
  far : List (Nat × Nat)
  deriving DecidableEq, Repr

/-- The partial sums of a row operation that has read its tile and whose commit has not fitted (R234, R240): the sums, the
flags with their indexes, and the elements to record. -/
structure RowSum where
  sums : List Int
  flags : List (Nat × Nat)
  recs : List Nat
  deriving DecidableEq, Repr

/-- A tile slot (R232). -/
structure Tile where
  state : Nat
  fmt : Nat
  nr : Nat
  nc : Nat
  /-- cells of rows 0 to nr − 1, columns 0 to nc − 1 -/
  cells : List Int
  deriving DecidableEq, Repr

/-- Restart classes of R60, as the sequencer needs them. -/
inductive VKind where
  /-- divisible: elements in ascending index -/
  | elem
  /-- indivisible -/
  | whole
  /-- progress class: one commit at a time -/
  | progress
  deriving DecidableEq, Repr

/-- An entry of the vector instruction queue (R47, R70, R331). -/
structure Entry where
  /-- number of the entry within its hart -/
  id : Nat
  /-- the instruction word and its P word -/
  word : BitVec 32
  pre : Option (BitVec 32)
  /-- address of the instruction -/
  addr : Nat
  /-- captured scalar operands -/
  opA : Word
  opB : Word
  opC : Word
  /-- VLe, ROWS, rounding mode, MAXVL.BYTES -/
  vle : Nat
  rows : Nat
  rm : Nat
  maxb : Nat
  /-- VL as captured (R131 counts mask bits by it) -/
  vl : Nat
  /-- physical registers of destination and sources -/
  physD : Nat
  physA : Nat
  physB : Nat
  physC : Nat
  /-- captured exception-list fields -/
  xsz : Nat
  xbase : Nat
  xle : Bool
  /-- index of the first uncommitted element -/
  estart : Nat
  begun : Bool
  /-- the effect of an indivisible entry is committed, and these records are still to be appended (R336) -/
  pendRec : Option (List Nat)
  /-- records already appended (R336) -/
  recDone : Nat
  /-- saved minima: NV DZ OF UF NX CN SA -/
  mins : List Nat
  /-- progress words -/
  progA : Word
  progB : Word
  /-- elements each lane group has reached, and, after a freeze, committed (R64, R331) -/
  reach : List Nat
  hard : List Nat
  /-- captured watermark binding (R198) -/
  wm : Option Binding
  /-- the last coordinate consumed from each source since the entry began or resumed (R257) -/
  lastA : Option Nat
  lastB : Option Nat
  /-- time of the first failed commit, while it waits for Billon room (R240) -/
  stallSince : Option Nat
  part : Option RowSum
  /-- the tile that a row operation has read as it began (R234) -/
  tile : Option Tile
  /-- an engine command that has taken its interlock entry, or an entry that holds one -/
  locked : Bool
  /-- class, governing width, widths of source (or index) and destination elements, and number of elements of a divisible
  instruction, as its word gives them (R45, R60) -/
  kind : VKind
  gw : Nat
  sw : Nat
  dw : Nat
  total : Nat
  /-- what lane groups ahead of the others have read from memory and hold back, by element (R59, R172) -/
  held : SMap Nat
  deriving DecidableEq, Repr

/-- Status of an engine command: STATE and COUNT of R212. -/
structure CmdStat where
  state : Nat
  count : Nat
  deriving DecidableEq, Repr

/-- A pending barrier arrival (R203). -/
structure BarWait where
  scope : Nat
  gen : Nat
  /-- channel whose command ties the arrival -/
  tie : Option Nat
  /-- has the arrival been counted, and has every member arrived -/
  counted : Bool
  complete : Bool
  deriving DecidableEq, Repr

/-- An order that a fence or a synchronising operation keeps between earlier and later accesses of a hart, while earlier ones are
still to be performed (R182, R184, R186). -/
structure Gate where
  /-- queue entries numbered below this are earlier -/
  id : Nat
  /-- agents of the source set and of the target set: scalar, vector -/
  srcS : Bool
  srcV : Bool
  dstS : Bool
  dstV : Bool
  /-- are earlier writes ordered, and not only earlier reads -/
  fromWrites : Bool
  /-- are later reads ordered, and not only later writes -/
  toReads : Bool
  /-- must the Electrum copies have applied what the hart issued or observed (R191) -/
  elec : Bool
  deriving DecidableEq, Repr

/-- A scope-checker tag (R192): scope, releasing hart and its package. -/
structure Tag where
  scope : Nat
  hart : Nat
  deriving DecidableEq, Repr

/-- A read, as the scope checker sees it: its address, and the tags that the lines it read had when it returned (R192, R193). -/
structure LastRead where
  va : Nat
  tags : List Tag
  deriving DecidableEq, Repr

/-- A freeze raised while the task was not on its hart: event code, address, access bits, the address of the instruction that made the
access, and, of an access by a queue entry, the entry's number and the element (R292, R294). -/
structure DueStop where
  code : Nat
  va : Nat
  acc : Nat
  pc : Nat
  entry : Option Nat
  elem : Nat
  deriving DecidableEq, Repr

/-- The context of a hart: what a swap moves and a frame saves (R59, R68 to R70). -/
structure Ctx where
  pc : BitVec 56
  regs : SMap Word
  vregs : SMap VReg
  masks : SMap MReg
  scales : SMap VReg
  fibres : SMap Fibre
  queues : SMap Queue
  vl : Nat
  rows : Nat
  swb : Nat
  vwb : Nat
  fflags : BitVec 7
  xsz : Nat
  xbase : Nat
  xlovf : Bool
  xle : Bool
  rm : Nat
  /-- FEXCA and FEXCB: NV DZ OF UF NX CN SA -/
  fexc : List Nat
  fprogA : Word
  fprogB : Word
  rng : Bool
  ord : Bool
  ovf : Bool
  mode : Nat
  tmo : Nat
  lmapSel : Nat
  wmarks : SMap Binding
  nest : Option Nest
  vq : List Entry
  nextId : Nat
  ilocks : List Ilock
  bar : Option BarWait
  /-- completed barrier generations of the hart, by scope -/
  barGen : SMap Nat
  /-- last copy command on each channel; the commands of the indirect-stream slots -/
  cpys : SMap CmdStat
  istrs : SMap CmdStat
  /-- number of ordered slot writes of the tower up to and with the hart's last one (R191, R224) -/
  elecEnd : Nat
  /-- progress of an EXIT: 0 none; 1 its steps 1 and 2 are done (R109) -/
  exiting : Nat
  /-- scope-checker agent state (R192): the release whose first write is to come. Of the scalar agent its scope; of the vector agent
  the number of the first queue entry after each FENCE, and its scope, in program order -/
  relS : Option Nat
  relV : List (Nat × Nat)
  /-- last read of the scalar and the vector agent -/
  lastS : Option LastRead
  lastV : Option LastRead
  /-- orders that earlier accesses still hold open -/
  gates : List Gate
  /-- longest prefix of the slot order that the hart has observed at its replica (R191) -/
  elecSeen : Nat
  /-- a freeze that is to take effect once the task is on its hart (R294) -/
  dueStop : Option DueStop
  /-- bytes of the instruction whose trap has no handler (R104, R330) -/
  trapLen : Nat
  deriving DecidableEq, Repr, Inhabited

/-- A scalar access on its way to a home bank: a store that its hart has left behind, or the access its hart waits for (R161,
R172). -/
structure Pend where
  /-- location (Machine/Home.lean), bytes, virtual address -/
  loc : Nat
  size : Nat
  va : Nat
  /-- data of a write -/
  data : Nat
  /-- performed at the slice (STREAM pages, remote locations, atomics), or by the scalar data cache -/
  slice : Bool
  /-- POINTER page (R164) -/
  pointer : Bool
  /-- the address space it was translated in (R280) -/
  root : Nat
  /-- address of its instruction (R284) -/
  ins : Nat
  /-- the task that made it, and its launch and hart, which own what it counts (R292, R335) -/
  task : Option Nat
  own : Nat × Nat
  /-- of a store that is the first write after a release, the scope of the release (R192) -/
  rel : Option Nat
  deriving DecidableEq, Repr

/-- What a hart's scalar unit waits on, with what it needs to complete its instruction. -/
inductive Wait where
  /-- executed again from its word: a full vector queue, a scalar register with a queued writer (R48), earlier vector
  instructions (R29), the fence or the transaction in front of an access -/
  | queueFull | scalarReg | sysreg | access
  /-- earlier vector instructions that name a queue register (R101) -/
  | queueOrder
  /-- an atomic in flight: destination, operation, operands, order, scope, the access -/
  | amo (d op : Nat) (b c : Word) (order scope : Nat) (acc : Pend)
  | qpop (d q : Nat)
  | qpush (q : Nat) (v : Word)
  | fence (scope order dir : Nat)
  | bar (scope : Nat) (tie : Word)
  | waitge (scope : Nat) (a v : Word)
  | ewait (mode : Nat) (a v : Word)
  | cwait (d ch : Nat) (v : Word)
  | iwait (d k : Nat)
  /-- an unlinking QLINK that waits for its queue to empty -/
  | unlink (q : Nat)
  /-- an atomic, LAUNCH or TLBINV that waits for its fence; executed again from its word -/
  | maint
  /-- a CLEAN or CDROP that waits for its fence: drop, first address, length; no resumable event is taken before it completes (R110) -/
  | clean (drop : Bool) (a n : Word)
  /-- a TLBINV that has sent its invalidation -/
  | tlbinv
  | exit
  /-- a scalar-side trap that drains the vector queue: cause, value, prefixed (R63) -/
  | trap (cause : Nat) (val : Word) (prefixed : Bool)
  deriving DecidableEq, Repr

/-- Stop state of a hart slot (R58, R290, R291). -/
inductive Run where
  /-- no task -/
  | idle
  | running
  /-- frozen in place with an event code (R294) -/
  | frozen (code : Nat)
  /-- stopped in place by a resumable event, until the shadow bank is free (R290) -/
  | stopped (code : Nat)
  deriving DecidableEq, Repr

/-- A hart slot: the context on it and its stop state. -/
structure Hart where
  ctx : Ctx
  run : Run
  wait : Option Wait
  /-- the task on the slot -/
  task : Option Nat
  pend : List Pend
  /-- a load in flight: physical destination, sign extension, the access; later scalar accesses wait for it (R161, R172) -/
  load : Option (Nat × Bool × Pend)
  /-- BSTAT.CAUSE and BSTAT.AROW (R242) -/
  bcause : Nat
  barow : Nat
  /-- a resumable event that arrived during a freeze (R65) -/
  heldEvent : Option Nat
  /-- number of the fault record the slot's stop waits for (R287, R290) -/
  faultRec : Option Nat
  /-- a TLBINV of this hart whose walkers have yet to acknowledge (R280): range and walkers -/
  inval : Option (Nat × Nat × List Nat)
  /-- a halt, and an eviction, that the debugger has asked for and that has yet to take effect (R330) -/
  halt : Bool
  evict : Bool
  deriving DecidableEq, Repr

/-- Why an engine does not run (R207). -/
inductive Hold where
  | run
  /-- held by the fault record with this number -/
  | fault (rec : Nat)
  | frozen
  /-- by a stop that takes effect once its task is back on its hart: event code, level, address, access bits (R294) -/
  | later (code level va acc : Nat)
  deriving DecidableEq, Repr

/-- A copy channel and its command (R208 to R212). -/
structure Channel where
  /-- hart and task that issued the command; none when the channel has had none -/
  owner : Option (Nat × Nat)
  /-- SEQ of the owner's launch -/
  launch : Nat
  /-- number and address of the queue entry -/
  id : Nat
  addr : Nat
  words : List Word
  wp : Nat
  /-- bytes performed but not yet verified (R211) -/
  ahead : Nat
  total : Nat
  /-- CRC register of the current chunk -/
  crc : Nat
  /-- STATE of R212 -/
  state : Nat
  hold : Hold
  /-- the write pointer has yet to be published (R210) -/
  pubDue : Bool
  /-- bytes an overlapping command has overwritten, by location, with their values before it (R210) -/
  orig : SMap Nat
  /-- bytes performed beyond the current chunk, in an 8-byte unit that the chunk's end divides (R180, R211) -/
  beyond : List Nat
  /-- locations that bytes of the current chunk have overwritten, newest first, with their values before (R211) -/
  undo : List (Nat × Nat)
  deriving DecidableEq, Repr

/-- A sparse stream (R213). -/
structure Stream where
  owner : Option (Nat × Nat)
  /-- SEQ of the owner's launch -/
  launch : Nat
  addr : Nat
  q : Nat
  base : Nat
  count : Nat
  pos : Nat
  hold : Hold
  deriving DecidableEq, Repr

/-- A command of an indirect-stream engine (R214, R215). -/
structure Istr where
  hart : Nat
  task : Nat
  /-- SEQ of the owner's launch -/
  launch : Nat
  k : Nat
  /-- number and address of the queue entry -/
  id : Nat
  addr : Nat
  words : List Word
  /-- has the descriptor of a versioned table been read -/
  begun : Bool
  base : Nat
  ver : Nat
  /-- rows delivered, and units of the next row already delivered -/
  row : Nat
  unit : Nat
  /-- index of the row in progress, and its 8-byte units read so far (R215, R281) -/
  idx : Option Nat
  buf : List Nat
  hold : Hold
  deriving DecidableEq, Repr

/-- A cached page-table entry: root, level, index path and entry (R279). -/
structure Tlb where
  root : Nat
  lvl : Nat
  va : Nat
  pte : Nat
  deriving DecidableEq, Repr

/-- The shadow context bank (R288). -/
inductive Bank where
  | empty
  | outgoing (task : Nat)
  | staging (task : Nat)
  deriving DecidableEq, Repr

/-- The state of a scalar data cache line (R161). -/
inductive DcState where
  | I | S | E | M
  deriving DecidableEq, Repr

/-- One core. -/
structure Core where
  /-- working lane groups, bit g for group g (R15) -/
  lanes : Nat
  /-- round-robin pointer of each lane group (R51) -/
  rr : List Nat
  bank : Bank
  tiles : SMap Tile
  /-- accumulator cells, key row × 256 + column (R236) -/
  cells : SMap Int
  /-- Billon entries, same key (R237) -/
  billon : SMap Int
  /-- harts whose row operation failed to commit, in order; launches whose USED has fallen since those tried again (R240) -/
  failed : List Nat
  fell : List Nat
  chans : SMap Channel
  streams : SMap Stream
  tlb : List Tlb
  /-- scalar data cache: state of each line (R161) -/
  dc : SMap DcState
  /-- lines held by the instruction cache of 64 KiB, oldest first (R8, R18, R230) -/
  icache : List Nat
  /-- time of the previous trace record (R333) -/
  traceAt : Option Nat
  /-- lane groups decided for retirement, in-field test: requested, end time (R17, R325) -/
  retire : List Nat
  retireCore : Bool
  test : Bool
  testing : Option Nat
  deriving DecidableEq, Repr

/-- A slot write (R221, R227). -/
structure SlotWrite where
  /-- 0 store, 1 add S32, 2 add F32 -/
  kind : Nat
  lo : Nat
  data : List Byte
  deriving DecidableEq, Repr

/-- Power state of a compute layer (R230, R231, R322). -/
inductive Layer where
  | active
  | sleep
  /-- power returns at this time -/
  | powering (at_ : Nat)
  /-- hears every slot since this time; blocks are being copied -/
  | listening (since : Nat)
  deriving DecidableEq, Repr

/-- One tower: Electrum channel and layers. -/
structure Tower where
  /-- granted slot writes that some copy has yet to apply; the first has place `base` -/
  log : List SlotWrite
  base : Nat
  /-- slot writes applied by copies 0 to 7 (replicas) and 8 (master) -/
  applied : List Nat
  layers : List Layer
  /-- time since when a layer meets R230 with its LPOL bit set -/
  idleSince : List (Option Nat)
  /-- issue throttled, issue held (R323) -/
  throttle : Bool
  stop : Bool
  deriving DecidableEq, Repr

/-- A directory entry (R158). -/
structure DirEnt where
  st : Nat
  own : Nat
  crs : Nat
  exa : Nat
  deriving DecidableEq, Repr

/-- Messages between scalar data caches and home banks (R156, R160 to R162). -/
inductive CMsg where
  | getS | getX | upg
  | putE | putM
  | ack | ackData
  | inv | down | fwdX
  | replyE | replyS | replyM | putAck
  deriving DecidableEq, Repr

/-- A message about a line, from or to a core. -/
structure Packet where
  core : Nat
  line : Nat
  msg : CMsg
  /-- a request through a POINTER page (R164) -/
  ptr : Bool
  /-- launch and hart of the access that a request serves (R335) -/
  own : Option (Nat × Nat)
  deriving DecidableEq, Repr

/-- The open transaction of a line at its bank (R159, R160). -/
structure Txn where
  core : Nat
  req : CMsg
  /-- the forward sent, and the cores whose answers are to come -/
  fwd : CMsg
  waiting : List Nat
  /-- owner when it opened, if the line had one -/
  own : Option Nat
  ptr : Bool
  deriving DecidableEq, Repr

/-- A launch parameter block, as read (R298). -/
structure LParams where
  entry : Nat
  handler : Nat
  arg : Word
  groups : Nat
  irq : Bool
  dbg : Bool
  prio : Nat
  level : Nat
  spoff : Nat
  spsz : Nat
  acnt : Nat
  quota : Nat
  voff : Nat
  vsz : Nat
  tslot : Nat
  chan : Nat
  strm : Nat
  esz : Nat
  eoff : Nat
  eslot : Nat
  compl : Nat
  vec : Nat
  deriving DecidableEq, Repr

/-- The part of a launch in one tower: slot numbers, last hart granted, clearing writes to send, place of the
last clearing write once it is granted (R219, R222). -/
structure ESlots where
  slots : List Nat
  last : Option Nat
  clear : Nat
  clearEnd : Option Nat
  deriving DecidableEq, Repr

/-- Where a launch came from. -/
inductive Source where
  | queue (wq : Nat)
  | node (graph n : Nat)
  | device
  deriving DecidableEq, Repr

/-- A launch (R298 to R310). -/
structure Launch where
  handle : Word
  par : LParams
  prio : Nat
  root : Nat
  tlbm : Bool
  src : Source
  /-- queue number or issuing logical core -/
  origin : Nat
  /-- next group to start, tasks started, tasks ended -/
  next : Nat
  started : Nat
  ended : Nat
  /-- time of submission, time since when its groups wait, and steps of ageing recorded (R303) -/
  subm : Nat
  since : Nat
  aged : Nat
  /-- first accumulator row on each core granted -/
  rows : SMap Nat
  /-- towers granted -/
  towers : SMap ESlots
  /-- abort cause and time (R310) -/
  abort : Option (Nat × Nat)
  deriving DecidableEq, Repr

/-- State of a graph node (R306). -/
inductive NodeState where
  | waiting
  /-- its predicate has been read, and its launch is yet to be made -/
  | ready
  | run (seq : Nat)
  | done
  deriving DecidableEq, Repr

/-- A graph node (R305). -/
structure GNode where
  block : Nat
  pred : Nat
  npred : Nat
  succ : List Nat
  got : Nat
  state : NodeState
  deriving DecidableEq, Repr

/-- A launch graph (R305, R306). -/
structure Graph where
  handle : Word
  wq : Nat
  /-- time of submission (R303) -/
  subm : Nat
  root : Nat
  tlbm : Bool
  maxp : Nat
  compl : Nat
  irq : Bool
  vec : Nat
  nodes : List GNode
  abort : Option (Nat × Nat)
  deriving DecidableEq, Repr

/-- What an entry taken from a ring is (R297 Table 3). -/
inductive WqWork where
  | launch (seq : Nat)
  | graph (seq : Nat)
  /-- a wait: word address, threshold, has it begun -/
  | wait (addr thr : Nat) (begun : Bool)
  deriving DecidableEq, Repr

/-- An entry taken from a ring that has not completed: its number, SER, and what it is (R297). -/
structure WqItem where
  idx : Nat
  ser : Bool
  work : WqWork
  deriving DecidableEq, Repr

/-- The scheduler's view of a work queue (R296, R297). -/
structure Wq where
  /-- TAIL of the last doorbell -/
  tail : Nat
  /-- doorbells whose entries are yet to be taken: TAIL and time, oldest first (R303) -/
  bells : List (Nat × Nat)
  /-- entries taken that have not completed, in ring order -/
  items : List WqItem
  /-- entries after HEAD that were taken before the queue stopped at a wait -/
  ahead : Nat
  deriving DecidableEq, Repr

/-- A saved task (R288, R289). -/
structure Saved where
  ctx : Ctx
  /-- event code and class (R69, R294) -/
  code : Nat
  cls : Nat
  /-- may be restored -/
  ready : Bool
  /-- fault record it waits for -/
  onRec : Option Nat
  yielded : Bool
  since : Nat
  aged : Nat
  /-- the spill has completed -/
  spilled : Bool
  /-- value of the free counter when it was spilled -/
  stamp : Nat
  deriving DecidableEq, Repr

/-- A task (R55, R56). -/
structure Task where
  launch : Nat
  group : Nat
  index : Nat
  size : Nat
  hart : Nat
  frame : Nat
  /-- the group's place: number of the level's group -/
  place : Nat
  saved : Option Saved
  deriving DecidableEq, Repr

/-- The words of a fault record that are fixed when its event is raised (R284). -/
structure FaultRec where
  cause : Nat
  master : Master
  acc : Nat
  level : Nat
  va : Nat
  lh : Nat
  core : Nat
  hart : Nat
  pc : Nat
  deriving DecidableEq, Repr

/-- A record of the fault buffer that is held or outstanding: its own number, and its SEQ once posted. -/
structure OpenRec where
  num : Nat
  seq : Option Nat
  body : FaultRec
  deriving DecidableEq, Repr

/-- The fault buffer (R283 to R287). -/
structure FaultBuf where
  base : Nat
  sz : Nat
  on : Bool
  ovie : Bool
  pie : Bool
  head : Nat
  tail : Nat
  ack : Nat
  ovf : Nat
  /-- records held, oldest first -/
  held : List OpenRec
  /-- translation-fault records posted and not acknowledged -/
  out : List OpenRec
  /-- number of the next record -/
  nextNum : Nat
  deriving DecidableEq, Repr

/-- Interrupt registers and pending vectors (R311, R316). -/
structure Irq where
  evtBase : Nat
  cmpBase : Nat
  /-- masked vectors pending: (event table, vector) -/
  pending : List (Bool × Nat)
  /-- coalescing windows: (event table, vector), end, completions arrived -/
  windows : List ((Bool × Nat) × Nat × Bool)
  /-- messages sent to the host: address and data, newest first -/
  sent : List (Nat × Nat)
  deriving DecidableEq, Repr

/-- Scheduler state (R295 to R311). -/
structure Sched where
  wqtBase : Nat
  frBase : Nat
  nfr : Nat
  ciwin : Nat
  seq : Nat
  launches : SMap Launch
  graphs : SMap Graph
  wqs : SMap Wq
  tasks : SMap Task
  nextTask : Nat
  deriving DecidableEq, Repr

/-- Boot status and the identity block (R318, R327). -/
structure Boot where
  done : Bool
  step : Nat
  fail : Nat
  fwver : Word
  cfgver : Word
  /-- the firmware image and the configuration record in flash (R320, R328) -/
  image : List Byte
  record : List Byte
  /-- bytes 0 to 295 of the last record accepted; empty when none has been (R321) -/
  accepted : List Byte
  nonce : List Word
  rptAddr : Nat
  rptErr : Bool
  rptDone : Bool
  rptGo : Bool
  /-- nonce captured by the request in progress -/
  rptNonce : List Word
  deriving DecidableEq, Repr

/-- Links and requesters (R314, R317, R318). -/
structure Links where
  up : Nat
  dom : Nat
  rqBase : Nat
  /-- DOM may no longer be written: a launch has been made -/
  launched : Bool
  /-- requests held by a translation fault: requester, access, record number -/
  held : List (Nat × BusAccess × Nat)
  /-- completions sent to requesters, newest first: number, error status, data -/
  reply : List (Nat × Bool × Nat)
  deriving DecidableEq, Repr

/-- Power registers (R322, R323). -/
structure Power where
  lpol : Nat
  slpdly : Nat
  pcap : Nat
  deriving DecidableEq, Repr

/-- Reliability (R324, R325). -/
structure Ras where
  raswin : Nat
  rasthr : Nat
  raslog : Nat
  tstreq : Nat
  counts : List (ErrUnit × Nat)
  winStart : Nat
  lasting : List ErrUnit
  deriving DecidableEq, Repr

/-- Debug, trace and counters (R329 to R335). -/
structure Debug where
  trBase : Nat
  trSz : Nat
  trLh : Nat
  trOn : Bool
  trHead : Nat
  trTail : Nat
  trLost : Nat
  /-- watchpoint words 0 and 1 -/
  watch : List (Word × Word)
  dbgBuf : Nat
  ctrCtl : SMap Word
  ctrs : SMap Word
  deriving DecidableEq, Repr

/-- A QLINK binding: consumer hart and queue, producer hart and queue (R218). -/
structure Link where
  ch : Nat
  cq : Nat
  ph : Nat
  pq : Nat
  /-- tasks of consumer and producer -/
  ct : Nat
  pt : Nat
  deriving DecidableEq, Repr

/-- Who moves next. -/
inductive Who where
  /-- the scalar unit of a hart -/
  | hart (h : Nat)
  /-- a step of the device -/
  | event (i : Instr)
  deriving DecidableEq, Repr

/-- One move: cycles that pass before it, who moves, and choices the manual leaves open: whether a scalar access
that misses is left in flight, whether walks use and fill the walker's cache, whether a vector instruction
is left in the queue at issue (DESIGN CHOICE, log entries 3, 4 and 13); and the evicted task whose restore the debugger asks for with
it, if any (R293; DESIGN CHOICE, log entry 36). -/
structure Move where
  dt : Nat
  who : Who
  delayMiss : Bool
  cacheWalk : Bool
  delayIssue : Bool
  restore : Option Nat
  deriving DecidableEq, Repr

/-- The machine. -/
structure State where
  /-- memory, by location (Machine/Coherence.lean) -/
  mem : List Host.Cell
  /-- TIME.COUNT (R103) -/
  time : Nat
  /-- HID.PKG (R12) -/
  pkg : Nat
  /-- core mask in force, bit 64t + 8c + k (R11, R321) -/
  coreMask : Nat
  harts : SMap Hart
  cores : SMap Core
  towers : SMap Tower
  /-- indirect-stream engines: commands in order of arrival, and cached translations (R214, R278) -/
  engines : SMap (List Istr)
  engTlb : SMap (List Tlb)
  /-- last-level banks: partition of each resident superblock (true: POINTER ways) and its valid lines (R155, R164) -/
  llc : SMap (Bool × Nat)
  /-- directory entries of lines with scalar copies (R158) -/
  dir : SMap DirEnt
  /-- lines whose cached value is dirty (R155) -/
  dirty : List Nat
  /-- backing bytes of cached lines whose backing differs from the cached value (R156, R110, R315) -/
  stale : SMap (List Byte)
  txns : SMap Txn
  /-- messages in flight, oldest first -/
  toBank : List Packet
  toCore : List Packet
  links : List Link
  tags : SMap Tag
  sched : Sched
  fb : FaultBuf
  irq : Irq
  boot : Boot
  port : Links
  power : Power
  ras : Ras
  dbg : Debug
  /-- every die is powered (R323) -/
  powered : Bool
  /-- next moves -/
  agenda : List Move
  /-- the move in progress -/
  move : Move
  /-- hart whose scalar unit moves when the agenda is empty -/
  cur : Nat
  /-- next free value: the model's own field (log entry 5) -/
  free : Nat
  deriving DecidableEq, Repr

/-- Reasons the machine stops with a fault. -/
inductive Fault where
  /-- raised by `step` when every die is without power (R323, shutdown at 115 °C): only a package reset follows (DEDUCED,
  log entry 10). Safe. -/
  | poweredOff
  deriving DecidableEq, Repr

/-- Reasons an instruction has no meaning here. -/
inductive Refusal where
  /-- raised by an arm of `exec` whose instruction has no meaning yet. Safe. -/
  | notModelled (mnemonic : String)
  deriving DecidableEq, Repr

/-- Scale entries read −128 at the start of a task (R36). -/
def scaleInit : VReg := BitVec.ofNat 16384 ((2 ^ 16384 - 1) / 255 * 128)

/-- A fibre at the start of a task (R56). -/
def Fibre.init : Fibre := { cap := 1024, pairs := [] }
/-- An empty queue register (R56). -/
def Queue.init : Queue := { head := 0, ents := [] }

/-- A context at the start of a task, before its entry and s1 to s4 are set (R56). -/
def Ctx.init : Ctx :=
  { pc := 0, regs := [], vregs := [], masks := [], scales := [], fibres := [], queues := [],
    vl := 0, rows := 1, swb := 0, vwb := 0, fflags := 0, xsz := 0, xbase := 0, xlovf := false, xle := false,
    rm := 0, fexc := [0xFFFF, 0xFFFF, 0xFFFF, 0xFFFF, 0xFFFF, 0xFFFF, 0xFFFF],
    fprogA := 0, fprogB := 0, rng := false, ord := false, ovf := false, mode := 0, tmo := 0x01000000,
    lmapSel := 0, wmarks := [], nest := none, vq := [], nextId := 0, ilocks := [], bar := none, barGen := [],
    cpys := [], istrs := [], elecEnd := 0, exiting := 0, relS := none, relV := [], lastS := none, lastV := none,
    gates := [], elecSeen := 0, dueStop := none, trapLen := 0 }

/-- A hart slot without a task. -/
def Hart.init : Hart :=
  { ctx := Ctx.init, run := .idle, wait := none, task := none, pend := [], load := none, bcause := 0, barow := 0,
    heldEvent := none, faultRec := none, inval := none, halt := false, evict := false }

/-- A hart slot as a task leaves it: its stores in flight are on their way still (R172), and CAUSE and AROW of BSTAT change only at a Billon
freeze (R242). -/
def Hart.vacant (x : Hart) : Hart := { Hart.init with pend := x.pend, bcause := x.bcause, barow := x.barow }

/-- An empty tile slot (R232). -/
def Tile.init : Tile := { state := 0, fmt := 0, nr := 0, nc := 0, cells := [] }
/-- A copy channel that has had no command. -/
def Channel.init : Channel :=
  { owner := none, launch := 0, id := 0, addr := 0, words := [], wp := 0, ahead := 0, total := 0, crc := 0, state := 0, hold := .run,
    pubDue := false, orig := [], beyond := [], undo := [] }
/-- A closed stream. -/
def Stream.init : Stream :=
  { owner := none, launch := 0, addr := 0, q := 0, base := 0, count := 0, pos := 0, hold := .run }

/-- A core after reset. -/
def Core.init : Core :=
  { lanes := 0xFF, rr := [0, 0, 0, 0, 0, 0, 0, 0], bank := .empty, tiles := [], cells := [], billon := [],
    failed := [], fell := [], chans := [], streams := [], tlb := [], dc := [], icache := [], traceAt := none, retire := [],
    retireCore := false, test := false, testing := none }

/-- A tower after reset (R219: every copy reads zero and every ESEQ reads 0). -/
def Tower.init : Tower :=
  { log := [], base := 0, applied := [0, 0, 0, 0, 0, 0, 0, 0, 0],
    layers := [.active, .active, .active, .active, .active, .active, .active, .active],
    idleSince := [none, none, none, none, none, none, none, none], throttle := false, stop := false }

/-- A move of hart 0 with every choice at its default. -/
def Move.init : Move :=
  { dt := 1, who := .hart 0, delayMiss := false, cacheWalk := false, delayIssue := false, restore := none }

/-- The package right after reset, before boot has run: R56's values for a task's start and a full package (DESIGN CHOICE,
log entries 1, 2 and 6). -/
def State.reset : State :=
  { mem := [], time := 0, pkg := 0, coreMask := 2 ^ 256 - 1, harts := [], cores := [], towers := [],
    engines := [], engTlb := [], llc := [], dir := [], dirty := [], stale := [], txns := [], toBank := [],
    toCore := [], links := [], tags := [],
    sched := { wqtBase := 0, frBase := 0, nfr := 0, ciwin := 0, seq := 0, launches := [], graphs := [],
               wqs := [], tasks := [], nextTask := 0 },
    fb := { base := 0, sz := 0, on := false, ovie := false, pie := false, head := 0, tail := 0, ack := 0,
            ovf := 0, held := [], out := [], nextNum := 0 },
    irq := { evtBase := 0, cmpBase := 0, pending := [], windows := [], sent := [] },
    boot := { done := false, step := 0, fail := 0, fwver := 0, cfgver := 0, image := [], record := [], accepted := [],
              nonce := [0, 0, 0, 0],
              rptAddr := 0, rptErr := false, rptDone := false, rptGo := false, rptNonce := [0, 0, 0, 0] },
    port := { up := 0, dom := 0, rqBase := 0, launched := false, held := [], reply := [] },
    power := { lpol := 0, slpdly := 0x100000, pcap := 2600 },
    ras := { raswin := 2 ^ 32, rasthr := 16, raslog := 0, tstreq := 0, counts := [], winStart := 0, lasting := [] },
    dbg := { trBase := 0, trSz := 0, trLh := 0, trOn := false, trHead := 0, trTail := 0, trLost := 0,
             watch := [(0, 0), (0, 0), (0, 0), (0, 0)], dbgBuf := 0, ctrCtl := [], ctrs := [] },
    powered := true, agenda := [], move := Move.init, cur := 0, free := 0 }

end Sys2Proof.Machine
end

