-- ==== Sys2Proof/Config.lean ====
section
/-! DEFINITION. What an implementation fixes and the manual does not: constants without a body, so that
nothing is known of them but their type. The free values are applied to State.free, which each
use advances (DESIGN CHOICE, log entry 5); the identity and the signatures are log entry 7 (DESIGN CHOICE). -/

namespace Sys2Proof.Config

/-- A byte whose value the manual leaves open: frame bytes whose layout R68 does not give. -/
opaque freeByte : Nat → Byte

/-- A choice the manual leaves open: the two values of an overlapping copy (R210), the bytes at or above a stopped
write pointer (R211). (DESIGN CHOICE, log entry 29) -/
opaque freeBool : Nat → Bool

/-- The state of a task restored from a frame that software has written (R71). (DESIGN CHOICE, log entry 30) -/
opaque freeContext : Nat → Machine.Ctx

/-- Number of a vault, bank or stack in RASLOG (R324 gives no numbering). (DESIGN CHOICE, log entry 32) -/
opaque unitNumber : ErrUnit → Nat

/-- Modulus of the RSA-3072 identity key (R327). -/
opaque rsaModulus : BitVec 3072

/-- SLH-DSA-SHA2-192s identity public key (R327). -/
opaque slhKey : BitVec 384

/-- SHA-384 of a string of bytes, which the report takes of the firmware image and of the configuration record in flash (R320,
R328). -/
opaque sha384 : List Byte → BitVec 384

/-- RSA-3072 PSS signature of the report's first 152 bytes; the salt differs from use to use (R328). -/
opaque rsaSign : Nat → List Byte → BitVec 3072

/-- SLH-DSA-SHA2-192s signature of the report's first 152 bytes (R328). -/
opaque slhSign : Nat → List Byte → BitVec 129792

end Sys2Proof.Config
end

