-- ==== Sys2Proof/Machine/Bits.lean ====
section
/-! DEFINITION. Bit fields, sign extension, byte order and the element helpers of Table 1 of the
manual's first chapter: Bits, SExt, ZExt, and element i of a register (R15, R19, R24). -/

namespace Sys2Proof.Machine

/-- Bits(x, hi, lo) of a natural number. -/
def bits (x hi lo : Nat) : Nat := x / 2 ^ lo % 2 ^ (hi + 1 - lo)

/-- Bit i of a natural number. -/
def bit (x i : Nat) : Bool := x.testBit i

/-- One bit of a flag. -/
def b2n (b : Bool) : Nat := if b then 1 else 0

/-- The low w bits of x, read as two's complement. -/
def sInt (x w : Nat) : Int :=
  if x % 2 ^ w < 2 ^ (w - 1) then (x % 2 ^ w : Nat) else (x % 2 ^ w : Nat) - (2 ^ w : Nat)

/-- An integer modulo 2^w, as a pattern. -/
def patOf (w : Nat) (x : Int) : Nat := (x % (2 ^ w : Nat)).toNat

/-- SExt(x, w) to 64 bits. -/
def sext64 (x w : Nat) : Word := BitVec.ofInt 64 (sInt x w)

/-- The 64-bit word of a natural number. -/
def w64 (x : Nat) : Word := BitVec.ofNat 64 x

/-- floor(log2 x), 0 for x = 0. -/
def lg (x : Nat) : Nat := Nat.log2 x

/-- Number of binary digits of x. -/
def blen (x : Nat) : Nat := if x = 0 then 0 else Nat.log2 x + 1

/-- ceil(a / b). -/
def cdiv (a b : Nat) : Nat := (a + b - 1) / b

/-- Number of set bits among the low n bits of x. -/
def popc (x n : Nat) : Nat := (List.range n).countP (fun i => x.testBit i)

/-- Leading zero bits of a w-bit pattern. -/
def clz (x w : Nat) : Nat := w - blen (x % 2 ^ w)

/-- Trailing zero bits of a w-bit pattern; w when it is zero. -/
def ctz (x w : Nat) : Nat := ((List.range w).find? (fun i => x.testBit i)).getD w

/-- Little-endian bytes of x (R19). -/
def leBytes (n x : Nat) : List Byte := (List.range n).map (fun i => BitVec.ofNat 8 (x / 2 ^ (8 * i)))

/-- The number whose little-endian bytes are given (R19). -/
def ofLe : List Byte → Nat
  | [] => 0
  | b :: t => b.toNat + 256 * ofLe t

/-- Element i, of width w bits, of a bit string (R19, R24). -/
def getEl {n : Nat} (r : BitVec n) (w i : Nat) : Nat := r.toNat / 2 ^ (w * i) % 2 ^ w

/-- The bit string with element i, of width w bits, replaced (R123: only the element's bits change). -/
def setEl {n : Nat} (r : BitVec n) (w i v : Nat) : BitVec n :=
  (r &&& ~~~(BitVec.ofNat n (2 ^ w - 1) <<< (w * i))) ||| (BitVec.ofNat n (v % 2 ^ w) <<< (w * i))

/-- Replace the i-th member of a list; no effect outside it. -/
def setAt {α : Type} (l : List α) (i : Nat) (x : α) : List α := l.set i x

/-- The i-th member of a list of numbers, 0 outside it. -/
def nth (l : List Nat) (i : Nat) : Nat := l.getD i 0

/-- The 56-bit address of a 64-bit one (R72). -/
def wrap56 (x : Nat) : Nat := x % 2 ^ 56

/-- The i-th word of a block of words. -/
def wnth (l : List Word) (i : Nat) : Nat := (l.getD i 0).toNat

end Sys2Proof.Machine
end

