-- ==== Sys2Proof/Machine/Sparse.lean ====
section
/-! DEFINITION. Sparse files and memory as sorted lists in one canonical form. -/

namespace Sys2Proof.Machine

/-- Ascending keys. -/
def keysUp {α : Type} : SMap α → Bool
  | [] => true
  | [_] => true
  | a :: b :: t => a.1 < b.1 && keysUp (b :: t)

/-- The value under a key, d where none is listed. -/
def sget {α : Type} (m : SMap α) (d : α) (k : Nat) : α :=
  match m with
  | [] => d
  | (a, v) :: t => if a = k then v else sget t d k

/-- The value under a key, if listed. -/
def sfind {α : Type} (m : SMap α) (k : Nat) : Option α :=
  match m with
  | [] => none
  | (a, v) :: t => if a = k then some v else sfind t k

/-- Remove a key. -/
def serase {α : Type} (m : SMap α) (k : Nat) : SMap α := m.filter (fun e => e.1 != k)

/-- List a value under a key. -/
def sput {α : Type} (m : SMap α) (k : Nat) (x : α) : SMap α :=
  match m with
  | [] => [(k, x)]
  | (a, v) :: t => if a = k then (k, x) :: t else if k < a then (k, x) :: (a, v) :: t else (a, v) :: sput t k x

/-- Set a value under a key; the default value is not listed. -/
def sset {α : Type} [DecidableEq α] (m : SMap α) (d : α) (k : Nat) (x : α) : SMap α :=
  if x = d then serase m k else sput m k x

/-- What an unlisted byte of memory reads as: RAM after power-on (DESIGN CHOICE, log entry 1). -/
def memDefault : Byte := 0

/-- The canonical form of memory: locations strictly rising, no entry equal to what an unlisted one reads as. -/
def Memory.wf (m : List Host.Cell) : Bool := keysUp m && m.all (fun c => c.2 != memDefault)

/-- Read one byte at a location. -/
def rdByte (m : List Host.Cell) (a : Nat) : Byte := sget m memDefault a

/-- Write one byte at a location. -/
def wrByte (m : List Host.Cell) (a : Nat) (b : Byte) : List Host.Cell := sset m memDefault a b

/-- Read n bytes from a location up. -/
def rdBytes (m : List Host.Cell) (a n : Nat) : List Byte := (List.range n).map (fun i => rdByte m (a + i))

/-- The cells of a run of bytes, without those equal to the default. -/
def runCells (a : Nat) : List Byte → List Host.Cell
  | [] => []
  | b :: t => if b = memDefault then runCells (a + 1) t else (a, b) :: runCells (a + 1) t

/-- Write a run of bytes from a location up, in one pass. -/
def wrBytes (m : List Host.Cell) (a : Nat) (bs : List Byte) : List Host.Cell :=
  m.filter (fun c => c.1 < a) ++ runCells a bs ++ m.filter (fun c => a + bs.length ≤ c.1)

/-- Write runs of bytes at offsets from a location. -/
def wrAreas (m : List Host.Cell) (base : Nat) (areas : List (Nat × List Byte)) : List Host.Cell :=
  areas.foldl (fun m a => wrBytes m (base + a.1) a.2) m

/-- Little-endian number of n bytes at a location (R19). -/
def rdNum (m : List Host.Cell) (a n : Nat) : Nat := ofLe (rdBytes m a n)

/-- Store n little-endian bytes (R19). -/
def wrNum (m : List Host.Cell) (a n v : Nat) : List Host.Cell := wrBytes m a (leBytes n v)

end Sys2Proof.Machine
end

