-- ==== Sys2Proof/Machine/Home.lean ====
section
/-! DEFINITION. Where things are: harts, cores, towers and groups (R7 to R13), memory locations (R147,
R150), and homing (R151, R153). Accessors of the parts of State. -/

namespace Sys2Proof.Machine

/-- The slot of hart h = 4 × physical core + hart. -/
def State.hart (s : State) (h : Nat) : Hart := sget s.harts Hart.init h
/-- Replace a hart slot. -/
def State.setHart (s : State) (h : Nat) (x : Hart) : State := { s with harts := sset s.harts Hart.init h x }
/-- Change a hart slot. -/
def State.modHart (s : State) (h : Nat) (f : Hart → Hart) : State := s.setHart h (f (s.hart h))
/-- The context on a hart. -/
def State.ctx (s : State) (h : Nat) : Ctx := (s.hart h).ctx
/-- Replace the context on a hart. -/
def State.setCtx (s : State) (h : Nat) (c : Ctx) : State := s.setHart h { s.hart h with ctx := c }
/-- Change the context on a hart. -/
def State.modCtx (s : State) (h : Nat) (f : Ctx → Ctx) : State := s.setCtx h (f (s.ctx h))
/-- A core, by physical number 64·tower + 8·column + layer. -/
def State.core (s : State) (c : Nat) : Core := sget s.cores Core.init c
/-- Replace a core. -/
def State.setCore (s : State) (c : Nat) (x : Core) : State := { s with cores := sset s.cores Core.init c x }
/-- Change a core. -/
def State.modCore (s : State) (c : Nat) (f : Core → Core) : State := s.setCore c (f (s.core c))
/-- A tower. -/
def State.tower (s : State) (t : Nat) : Tower := sget s.towers Tower.init t
/-- Replace a tower. -/
def State.setTower (s : State) (t : Nat) (x : Tower) : State := { s with towers := sset s.towers Tower.init t x }
/-- Change a tower. -/
def State.modTower (s : State) (t : Nat) (f : Tower → Tower) : State := s.setTower t (f (s.tower t))

/-- The core of a hart. -/
def coreOf (h : Nat) : Nat := h / 4
/-- The tower of a core. -/
def towerOf (c : Nat) : Nat := c / 64
/-- The column of a core within its tower. -/
def columnOf (c : Nat) : Nat := c / 8 % 8
/-- The layer of a core. -/
def layerOf (c : Nat) : Nat := c % 8

/-- Is a core working (R11). -/
def State.working (s : State) (c : Nat) : Bool := c < 256 && s.coreMask.testBit c
/-- Working cores, ascending tower, column, layer (R11). -/
def State.workers (s : State) : List Nat := (List.range 256).filter s.working
/-- NCORE (R13). -/
def State.ncore (s : State) : Nat := popc s.coreMask 256
/-- Logical number of a core: the working cores below it (R11). -/
def State.logical (s : State) (c : Nat) : Nat := popc s.coreMask c
/-- The core of a logical number. -/
def State.physical (s : State) (n : Nat) : Option Nat := s.workers[n]?
/-- Index of a core among the working cores of its column (R12). -/
def State.cidx (s : State) (c : Nat) : Nat := popc (s.coreMask / 2 ^ (c / 8 * 8)) (c % 8)

/-- Number of working lane groups W (R15). -/
def State.lanesOf (s : State) (c : Nat) : Nat := popc (s.core c).lanes 8
/-- MAXVL.BYTES of a core (R16). -/
def State.maxvl (s : State) (c : Nat) : Nat := 256 * s.lanesOf c

/-- Number of the group of a level (R9) that a core's harts belong to; h is the hart for level hart. -/
def placeOf (level h : Nat) : Nat :=
  match level with
  | 0 => h
  | 1 => h / 4
  | 2 => h / 32
  | 3 => h / 256
  | _ => 0

/-- The working harts of a group, ascending HID.CORE then HID.HART (R9, R56). -/
def State.members (s : State) (level place : Nat) : List Nat :=
  (s.workers.flatMap (fun c => [4 * c, 4 * c + 1, 4 * c + 2, 4 * c + 3])).filter
    (fun h => placeOf level h == place)

/-- Are two harts of this package in one group at a scope (R9); 5 and 6 contain the whole package. -/
def sameGroup (scope h k : Nat) : Bool := placeOf scope h == placeOf scope k

/-! Locations. A byte of memory has one location: a physical address below 2^56 (package in bits [55:40]); a
scratchpad byte at 2^56 + 2^19 · core + o; a vault byte at 2^57 + 2^26 · (8 · tower + vault) + o; a byte of
copy k of an Electrum region at 2^58 + 2^18 · (16 · tower + k) + o. -/

/-- Location of a scratchpad byte. -/
def locSpad (core o : Nat) : Nat := 2 ^ 56 + core * 2 ^ 19 + o
/-- Location of a vault byte; v = 8 · tower + vault. -/
def locVault (v o : Nat) : Nat := 2 ^ 57 + v * 2 ^ 26 + o
/-- Location of an Electrum byte of copy k. -/
def locElec (tower k o : Nat) : Nat := 2 ^ 58 + (tower * 16 + k) * 2 ^ 18 + o

/-- Size of the scratchpad. -/
def spadSize : Nat := 0x60000
/-- Size of a vault. -/
def vaultSize : Nat := 2 ^ 26
/-- Size of the Electrum region. -/
def elecSize : Nat := 0x40000
/-- Base of the Electrum window (R147). -/
def elecBase : Nat := 0xFF000400000000

/-- Start of the host range and of the register space (R150). -/
def hostBase : Nat := 0x8000000000
/-- Start of the package register space. -/
def regBase : Nat := 0xC000000000
/-- End of the package register space. -/
def regEnd : Nat := 0xC100000000

/-- The offset of a physical address in its package (R150). -/
def offOf (a : Nat) : Nat := a % 2 ^ 40
/-- The package of a physical address (R150). -/
def pkgOf (a : Nat) : Nat := a / 2 ^ 40

/-- Is a location held by last-level banks of this package: HBM4 or host memory, local (R153). (DESIGN CHOICE, log entry 15) -/
def State.cacheable (s : State) (a : Nat) : Bool := a < 2 ^ 56 && pkgOf a == s.pkg && offOf a < regBase

/-- The superblock number of a physical address (R153). -/
def sbOf (a : Nat) : Nat := offOf a / 256
/-- Home tower of a superblock (R153). -/
def homeTower (sb : Nat) : Nat := sb % 4
/-- Home bank of a superblock within its tower (R153). -/
def homeBank (sb : Nat) : Nat := sb / 4 % 131
/-- Set of a superblock within its bank (R153). -/
def homeSet (sb : Nat) : Nat := sb / 524 % 256
/-- Tag of a superblock (R153). -/
def homeTag (sb : Nat) : Nat := sb / 524 / 256
/-- Stack that stores a superblock, and whose engines serve an indirect stream (R151). (DEDUCED, log entry 23) -/
def stackOf (a : Nat) : Nat := 2 * homeTower (sbOf a) + sbOf a / 4 % 2

end Sys2Proof.Machine
end

