-- ==== Sys2Proof/Machine/Context.lean ====
section
/-! DEFINITION. The context of a hart: registers through windows (R54), flags (R27, R67); the task and the launch on a hart; what the scope
checker notes of each access (R192, R193). -/

namespace Sys2Proof.Machine

/-! ### Scalar, vector, mask, scale, fibre and queue registers -/

/-- Physical scalar register of a name (R54). -/
def physS (c : Ctx) (n : Nat) : Nat := if n < 32 then n else 32 + (32 * c.swb + n - 32) % 480
/-- Physical vector register of a name (R54). -/
def physV (c : Ctx) (n : Nat) : Nat := if n < 32 then n else 32 + (32 * c.vwb + n - 32) % 224

/-- Read a physical scalar register; register 0 reads zero (R54). -/
def Ctx.getP (c : Ctx) (p : Nat) : Word := if p = 0 then 0 else sget c.regs 0 p
/-- Write a physical scalar register; register 0 ignores writes (R54). -/
def Ctx.setP (c : Ctx) (p : Nat) (v : Word) : Ctx :=
  if p = 0 then c else { c with regs := sset c.regs 0 p v }

/-- S(n) of R83. -/
def Ctx.getS (c : Ctx) (n : Nat) : Word := c.getP (physS c n)
/-- SetS(n, v) of R83. -/
def Ctx.setS (c : Ctx) (n : Nat) (v : Word) : Ctx := c.setP (physS c n) v

/-- S(n) of a hart. -/
def State.getS64 (s : State) (h n : Nat) : Word := (s.ctx h).getS n
/-- SetS(n, v) of a hart. -/
def State.setS64 (s : State) (h n : Nat) (v : Word) : State := s.modCtx h (fun c => c.setS n v)

/-- A physical vector register. -/
def Ctx.getV (c : Ctx) (p : Nat) : VReg := sget c.vregs 0 p
/-- Replace a physical vector register. -/
def Ctx.setV (c : Ctx) (p : Nat) (v : VReg) : Ctx := { c with vregs := sset c.vregs 0 p v }
/-- Rd of R123: element i, of width w, of a physical vector register. -/
def Ctx.vel (c : Ctx) (p w i : Nat) : Nat := getEl (c.getV p) w i
/-- Wr of R123. -/
def Ctx.setVel (c : Ctx) (p w i v : Nat) : Ctx := c.setV p (setEl (c.getV p) w i v)

/-- A mask register; m0 reads all ones (R131). -/
def Ctx.getM (c : Ctx) (m : Nat) : MReg := if m = 0 then BitVec.allOnes 32768 else sget c.masks 0 m
/-- Write a mask register; m0 keeps reading all ones (R130). -/
def Ctx.setM (c : Ctx) (m : Nat) (v : MReg) : Ctx :=
  if m = 0 then c else { c with masks := sset c.masks 0 m v }
/-- Mask bit p (R45). -/
def Ctx.mbit (c : Ctx) (m p : Nat) : Bool := m == 0 || (c.getM m).getLsbD p
/-- Write mask bit p. -/
def Ctx.setMbit (c : Ctx) (m p : Nat) (b : Bool) : Ctx := c.setM m (setEl (c.getM m) 1 p (b2n b))

/-- Entry j of a scale register, signed (R36). -/
def Ctx.scale (c : Ctx) (r j : Nat) : Int := sInt (getEl (sget c.scales scaleInit r) 8 j) 8
/-- Write entry j of a scale register. -/
def Ctx.setScale (c : Ctx) (r j : Nat) (e : Int) : Ctx :=
  { c with scales := sset c.scales scaleInit r (setEl (sget c.scales scaleInit r) 8 j (patOf 8 e)) }

/-- A fibre register (R254). -/
def Ctx.fibre (c : Ctx) (f : Nat) : Fibre := sget c.fibres Fibre.init f
/-- Replace a fibre register. -/
def Ctx.setFibre (c : Ctx) (f : Nat) (x : Fibre) : Ctx := { c with fibres := sset c.fibres Fibre.init f x }
/-- A queue register (R100). -/
def Ctx.queue (c : Ctx) (q : Nat) : Queue := sget c.queues Queue.init q
/-- Replace a queue register. -/
def Ctx.setQueue (c : Ctx) (q : Nat) (x : Queue) : Ctx := { c with queues := sset c.queues Queue.init q x }
/-- Append an entry at a queue's tail. -/
def Ctx.push (c : Ctx) (q : Nat) (w : Word) : Ctx :=
  c.setQueue q { c.queue q with ents := (c.queue q).ents ++ [w] }
/-- Remove a queue's head entry; its slot number moves on (R69). -/
def Ctx.pop (c : Ctx) (q : Nat) : Ctx :=
  match (c.queue q).ents with
  | [] => c
  | _ :: t => c.setQueue q { head := ((c.queue q).head + 1) % 64, ents := t }

/-- Raise flags (R27). -/
def Ctx.raise (c : Ctx) (fl : Nat) : Ctx := { c with fflags := c.fflags ||| BitVec.ofNat 7 fl }

/-- FCTL as a word (R28). -/
def Ctx.fctl (c : Ctx) : Nat :=
  c.xsz * 2 ^ 60 + c.xbase * 2 ^ 12 + b2n c.xlovf * 2 ^ 5 + b2n c.xle * 2 ^ 4 + c.rm
/-- FEXCA as a word (R66). -/
def Ctx.fexca (c : Ctx) : Nat :=
  nth c.fexc 3 * 2 ^ 48 + nth c.fexc 2 * 2 ^ 32 + nth c.fexc 1 * 2 ^ 16 + nth c.fexc 0
/-- FEXCB as a word (R66). -/
def Ctx.fexcb (c : Ctx) : Nat := nth c.fexc 6 * 2 ^ 32 + nth c.fexc 5 * 2 ^ 16 + nth c.fexc 4
/-- FSTAT as a word (R258). -/
def Ctx.fstat (c : Ctx) : Nat := b2n c.rng * 4 + b2n c.ord * 2 + b2n c.ovf
/-- MCTL as a word (R241). -/
def Ctx.mctl (c : Ctx) : Nat := c.mode * 2 ^ 32 + c.tmo

/-- Minima of the flags an element raises, merged into a list NV DZ OF UF NX CN SA (R67). -/
def minFlags (mins : List Nat) (fl p : Nat) : List Nat :=
  (List.range 7).map (fun i => if fl.testBit i then min (nth mins i) (min p 0xFFFF) else nth mins i)

/-! ### Tasks and launches -/

/-- The task on a hart. -/
def State.taskOf (s : State) (h : Nat) : Option Task := (s.hart h).task.bind (fun t => sfind s.sched.tasks t)
/-- The launch of the task on a hart. -/
def State.launchOf (s : State) (h : Nat) : Option Launch :=
  (s.taskOf h).bind (fun t => sfind s.sched.launches t.launch)
/-- SEQ of the launch of the task on a hart; 0 when there is none (R308). -/
def State.seqOf (s : State) (h : Nat) : Nat := ((s.taskOf h).map (·.launch)).getD 0
/-- Does the launch of the task on a hart have DBG = 1 (R298). -/
def State.dbgOf (s : State) (h : Nat) : Bool := ((s.launchOf h).map (·.par.dbg)).getD false
/-- Page-table root of the task on a hart (R275); the package's first address when the hart has none. -/
def State.rootOf (s : State) (h : Nat) : Nat := ((s.launchOf h).map (·.root)).getD (s.pkg * 2 ^ 40)
/-- Change a task. -/
def State.modTask (s : State) (t : Nat) (f : Task → Task) : State :=
  match sfind s.sched.tasks t with
  | some x => { s with sched := { s.sched with tasks := sput s.sched.tasks t (f x) } }
  | none => s
/-- Change a launch. -/
def State.modLaunch (s : State) (l : Nat) (f : Launch → Launch) : State :=
  match sfind s.sched.launches l with
  | some x => { s with sched := { s.sched with launches := sput s.sched.launches l (f x) } }
  | none => s

/-! ### What the scope checker notes of each access (R192, R193) -/

/-- The lines of n bytes at a location, n at most 64. -/
def linesOf (a n : Nat) : List Nat := if a / 64 = (a + n - 1) / 64 then [a / 64] else [a / 64, (a + n - 1) / 64]
/-- Keys of the tags of the lines of n bytes at a location; none where no tag is kept. -/
def State.tagLines (s : State) (loc n : Nat) : List Nat :=
  if s.cacheable loc || (2 ^ 56 ≤ loc && loc < 2 ^ 58) then linesOf loc n else []
/-- The tags of those lines. -/
def State.tagsAt (s : State) (loc n : Nat) : List Tag := (s.tagLines loc n).filterMap (sfind s.tags)
/-- Tag the lines of n bytes at a location with a release of hart h at a scope. -/
def State.putTags (s : State) (h scope loc n : Nat) : State :=
  { s with tags := (s.tagLines loc n).foldl (fun m l => sput m l ⟨scope, h⟩) s.tags }

/-- The release that a write is the first one after, if it is: by the scalar agent, or by queue entry id, or the engine that runs its command.
Releases of later instructions stay; of several, the last one counts. (DEDUCED, log entry 65) -/
def Ctx.takeRel (c : Ctx) (id : Option Nat) : Option Nat × Ctx :=
  match id with
  | none => (c.relS, { c with relS := none })
  | some k => (((c.relV.filter (fun r => r.1 ≤ k)).getLast?).map (·.2), { c with relV := c.relV.filter (fun r => k < r.1) })

/-- A write by an agent of hart h, as above, at locations, with their lengths: the first one after a release tags its lines. -/
def State.noteWrite (s : State) (h : Nat) (id : Option Nat) (ps : List (Nat × Nat)) : State :=
  if !s.dbgOf h then s
  else match (s.ctx h).takeRel id with
  | (none, _) => s
  | (some sc, c) => ps.foldl (fun s p => s.putTags h sc p.1 p.2) (s.setCtx h c)

/-- A read by an agent of hart h at locations, with their lengths, returns, and, of its replica's window, has observed what that has
applied (R191); of several reads the last before a fence is the one performed last (R192; DESIGN CHOICE, log entry 65). -/
def State.noteRead (s : State) (h : Nat) (scalar : Bool) (ps : List (Nat × Nat)) (va : Nat) : State :=
  let c := coreOf h
  let s := if ps.any (fun p => 2 ^ 58 ≤ p.1) then
      s.modCtx h (fun x => { x with elecSeen := max x.elecSeen (nth (s.tower (towerOf c)).applied (layerOf c)) })
    else s
  if !s.dbgOf h then s
  else
    let r : LastRead := ⟨va, ps.flatMap (fun p => s.tagsAt p.1 p.2)⟩
    s.modCtx h (fun c => if scalar then { c with lastS := some r } else { c with lastV := some r })

/-! ### Loads in flight (R161, R172) -/

/-- The value a load writes to rd (R92). -/
def loadVal (sgn : Bool) (n v : Nat) : Word := if sgn then sext64 v (8 * n) else w64 v

/-- The load a hart has in flight returns: its value is written, and its scalar accesses go on. -/
def State.loadBack (s : State) (h : Nat) (v : Nat) : State :=
  match (s.hart h).load with
  | some (d, sgn, a) =>
    s.modHart h (fun x => { x with load := none, ctx := x.ctx.setP d (loadVal sgn a.size v) })
  | none => s

end Sys2Proof.Machine
end

