-- ==== Sys2Proof/Machine/Coherence.lean ====
section
/-! DEFINITION. Caches and directory (R153 to R170). State.mem holds the coherent value of every location, so
that a write is visible to every agent at one instant (R178); the caches and the directory hold
which copies exist and which are dirty, and State.stale holds what the backing memory has in their
place. A line number is a physical address divided by 64. -/

namespace Sys2Proof.Machine

/-- Directory entry of a line (R158). -/
def State.dirOf (s : State) (line : Nat) : DirEnt := sget s.dir ⟨0, 0, 0, 0⟩ line
/-- Set the directory entry of a line. -/
def State.setDir (s : State) (line : Nat) (d : DirEnt) : State :=
  { s with dir := sset s.dir ⟨0, 0, 0, 0⟩ line d }
/-- State of a line in a core's scalar data cache (R161). -/
def State.dcOf (s : State) (core line : Nat) : DcState := sget (s.core core).dc .I line
/-- Set the state of a line in a core's scalar data cache. -/
def State.setDc (s : State) (core line : Nat) (x : DcState) : State :=
  s.modCore core (fun c => { c with dc := sset c.dc .I line x })

/-- Home tower of a line. -/
def lineHome (line : Nat) : Nat := line / 4 % 4

/-- The directory bit of a core for a line: EXA within the home tower, CRS outside it (R158, R160). -/
def dirAdd (line core : Nat) (d : DirEnt) : DirEnt :=
  if towerOf core = lineHome line then { d with exa := d.exa ||| 2 ^ (8 * columnOf core + layerOf core) }
  else { d with crs := d.crs ||| 2 ^ towerOf core }

/-- The cores an invalidation goes to: those of EXA, and every working core of the towers of CRS (R160). -/
def State.sharers (s : State) (line : Nat) (d : DirEnt) : List Nat :=
  (List.range 256).filter (fun c =>
    if towerOf c = lineHome line then d.exa.testBit (8 * columnOf c + layerOf c)
    else d.crs.testBit (towerOf c) && s.working c)

/-- Mark a line dirty (R155). -/
def State.markDirty (s : State) (line : Nat) : State :=
  if s.dirty.contains line then s else { s with dirty := line :: s.dirty }

/-- Write a dirty line back: the backing takes the cached value (R156). -/
def State.writeBack (s : State) (line : Nat) : State :=
  { s with dirty := s.dirty.filter (· != line), stale := serase s.stale line }

/-- Drop a line: what was cached is lost, and the backing's value stands (R110, R156). (DEDUCED, log entry 12) -/
def State.dropLine (s : State) (line : Nat) : State :=
  match sfind s.stale line with
  | some bs => { s with mem := wrBytes s.mem (line * 64) (bs.take 64), dirty := s.dirty.filter (· != line), stale := serase s.stale line }
  | none => { s with dirty := s.dirty.filter (· != line) }

/-- Take every scalar copy of a line away: the eviction column of Table 6 (R160). -/
def State.recall (s : State) (line : Nat) : State :=
  let d := s.dirOf line
  let cs := if d.st = 2 then [d.own] else s.sharers line d
  (cs.foldl (fun s c => s.setDc c line .I) s).setDir line ⟨0, 0, 0, 0⟩

/-- Take a message of a core about a line away from those on their way to a bank. -/
def State.takeBank (s : State) (core line : Nat) (m : CMsg) : State :=
  { s with toBank := s.toBank.eraseP (fun p => p.core == core && p.line == line && p.msg == m) }
/-- Take a message about a line away from those on their way to a core. -/
def State.takeCore (s : State) (core line : Nat) (m : CMsg) : State :=
  { s with toCore := s.toCore.eraseP (fun p => p.core == core && p.line == line && p.msg == m) }
/-- Send a message to a core. -/
def State.sendCore (s : State) (core line : Nat) (m : CMsg) : State :=
  { s with toCore := s.toCore ++ [⟨core, line, m, false, none⟩] }
/-- Send a message to a bank: a Put or an answer. -/
def State.sendBank (s : State) (core line : Nat) (m : CMsg) : State :=
  { s with toBank := s.toBank ++ [⟨core, line, m, false, none⟩] }

/-- Is a line valid in its last-level bank. -/
def State.llcValid (s : State) (line : Nat) : Bool :=
  match sfind s.llc (sbOf (line * 64)) with
  | some (_, v) => v.testBit (line % 4)
  | none => false

/-- A line becomes valid in its last-level bank, in the ways of a partition when its superblock is not resident (R164). -/
def State.allot (s : State) (line : Nat) (ptr : Bool) : State :=
  let sb := sbOf (line * 64)
  let (p, v) := (sfind s.llc sb).getD (ptr, 0)
  { s with llc := sput s.llc sb (p, v ||| 2 ^ (line % 4)) }

/-- The end of a GetX or Upg: the requester owns the line (R160 Table 6). -/
def State.grantX (s : State) (core line : Nat) : State :=
  (s.setDir line { st := 2, own := core, crs := 0, exa := 0 }).sendCore core line .replyM

/-- The end of a line's transaction, once every answer has come (R160). -/
def State.closeTxn (s : State) (line : Nat) : State :=
  match sfind s.txns line with
  | some x =>
    if !x.waiting.isEmpty then s
    else
      let s := ({ s with txns := serase s.txns line } : State).allot line x.ptr
      (match x.req with
      | .getS =>
        let d : DirEnt := { st := 1, own := 0, crs := 0, exa := 0 }
        (s.setDir line (dirAdd line x.core ((x.own.map (fun o => dirAdd line o d)).getD d))).sendCore x.core line .replyS
      | _ => s.grantX x.core line)
  | none => s

/-- A core's answer to the open transaction of a line is in. -/
def State.answered (s : State) (core line : Nat) : State :=
  match sfind s.txns line with
  | some x => ({ s with txns := sput s.txns line { x with waiting := x.waiting.erase core } } : State).closeTxn line
  | none => s

/-- Is a transaction of a line open, a message about it on its way to a cache, or a Put or an answer on its way to its bank
(R159). -/
def State.lineBusy (s : State) (line : Nat) : Bool :=
  (sfind s.txns line).isSome || s.toCore.any (fun p => p.line == line) ||
  s.toBank.any (fun p => p.line == line && p.msg != .getS && p.msg != .getX && p.msg != .upg)

/-- The four lines of a superblock of this package. -/
def State.sbLines (s : State) (sb : Nat) : List Nat :=
  let b := (s.pkg * 2 ^ 40 + sb * 256) / 64
  [b, b + 1, b + 2, b + 3]

/-- The superblock that makes room, of those that compete for a set: the first with no line in transaction, else the first
(DESIGN CHOICE, log entry 57). -/
def State.victim (s : State) (l : List Nat) : Option Nat :=
  ((l.filter (fun v => !(s.sbLines v).any s.lineBusy)) ++ l).head?

/-- A line leaves a scalar data cache as its superblock is replaced: PutM for a line in M, PutE for one in E, silently for S. A
Put is on its way while its line is in transaction, and else taken as delivered (R156, R162). -/
def State.dcDropLine (s : State) (core line : Nat) : State :=
  let st := s.dcOf core line
  let d := s.dirOf line
  let s := s.setDc core line .I
  if st = .I || st = .S then s
  else if s.lineBusy line then s.sendBank core line (if st = .M then .putM else .putE)
  else if d.st = 2 && d.own = core then s.setDir line ⟨0, 0, 0, 0⟩
  else s

/-- Superblocks a scalar data cache holds in a set (R155). -/
def State.dcSet (s : State) (core set : Nat) : List Nat :=
  (((s.core core).dc.map (fun e => sbOf (e.1 * 64))).filter (fun sb => sb % 64 == set)).dedup

/-- Make room in a scalar data cache for a line: a full set drops one superblock (R155, R156). -/
def State.dcRoom (s : State) (core line : Nat) : State :=
  let sb := sbOf (line * 64)
  let l := s.dcSet core (sb % 64)
  if l.contains sb || l.length < 8 then s
  else ((s.victim l).map (fun v => (s.sbLines v).foldl (fun s ln => s.dcDropLine core ln) s)).getD s

/-- Keep what the backing memory holds of a line before the first write that leaves it behind. -/
def State.keepStale (s : State) (line : Nat) : State :=
  match sfind s.stale line with
  | some _ => s
  | none => { s with stale := sput s.stale line (rdBytes s.mem (line * 64) 64) }

/-- The coherent value of n bytes at a location. -/
def State.rd (s : State) (a n : Nat) : Nat := rdNum s.mem a n

/-- Write n bytes at a location, which every agent sees at once (R178); a cached line becomes dirty. -/
def State.wr (s : State) (a n v : Nat) : State :=
  let s := if s.cacheable a then
      (linesOf a n).foldl (fun s l => (s.keepStale l).markDirty l) s
    else s
  { s with mem := wrNum s.mem a n v }

/-! ### Accesses in flight at a cache (R161, R172) -/

/-- Does an access in flight go through its core's cache, to a line. -/
def Pend.onLine (a : Pend) (line : Nat) : Bool := !a.slice && a.loc / 64 == line

/-- Do something for each hart of a core. -/
def State.eachHart (s : State) (core : Nat) (f : State → Nat → State) : State :=
  [4 * core, 4 * core + 1, 4 * core + 2, 4 * core + 3].foldl f s

/-- A store in flight is performed at a line its core's cache owns, or at its target memory: it tags its lines if it is the first
write after a release (R192). -/
def State.storeIn (s : State) (h : Nat) (a : Pend) : State :=
  let s := (s.modHart h (fun x => { x with pend := x.pend.erase a })).wr a.loc a.size a.data
  match a.rel with
  | some sc => s.putTags h sc a.loc a.size
  | none => s

/-- A load in flight is performed at a line its core's cache holds, or at its target memory, and returns. -/
def State.loadIn (s : State) (h : Nat) (a : Pend) : State :=
  (s.noteRead h true [(a.loc, a.size)] a.va).loadBack h (s.rd a.loc a.size)

/-- Does a hart's load in flight go on: one that met an error waits for the end of the freeze (R292). -/
def Hart.loads (x : Hart) : Option Pend :=
  match x.run with
  | .frozen _ => none
  | _ => x.load.map (·.2.2)

/-- Send a request of a core's cache for a line, which serves an access, to its home bank, once (R160, R161). -/
def State.request (s : State) (core line : Nat) (m : CMsg) (a : Pend) : State :=
  if s.toBank.any (fun p => p.core == core && p.line == line && p.msg == m) || (sfind s.txns line).any (fun t => t.core == core) ||
      s.toCore.any (fun q => q.core == core && q.line == line)
  then s else { s with toBank := s.toBank ++ [⟨core, line, m, a.pointer, some a.own⟩] }

/-- Ask for the line of an access in flight that its core's cache must hold (R161). -/
def State.askFor (s : State) (h : Nat) (a : Pend) (write : Bool) : State :=
  if a.slice then s
  else
    let c := coreOf h
    s.request c (a.loc / 64) (if !write then .getS else if s.dcOf c (a.loc / 64) = .S then .upg else .getX) a

/-- The accesses of a core's harts that a line now lets complete (R161): loads, and stores where the core owns the line, which is then in
M; stores that find it in S ask to own it. -/
def State.lineReady (s : State) (core line : Nat) (own : Bool) : State :=
  s.eachHart core (fun s h =>
    let s := (s.hart h).pend.foldl (fun s a =>
      if !a.onLine line then s
      else if own then (s.setDc core line .M).storeIn h a
      else s.askFor h a true) s
    match (s.hart h).loads with
    | some a => if a.onLine line then s.loadIn h a else s
    | none => s)

/-- A reply at a scalar data cache: the line enters its state, and the accesses that wait for it complete (R161 Table 7). -/
def State.enterLine (s : State) (core line : Nat) (st : DcState) : State :=
  ((s.dcRoom core line).setDc core line st).lineReady core line (st != .S)

/-- The state that a reply brings a line to. -/
def CMsg.enters : CMsg → Option DcState
  | .replyE => some .E
  | .replyS => some .S
  | .replyM => some .M
  | _ => none

/-- A message of a bank that is no forward arrives at a core's cache. -/
def State.replyIn (s : State) (core line : Nat) (m : CMsg) : State :=
  let s := s.takeCore core line m
  match m.enters with
  | some st => s.enterLine core line st
  | none => s

/-- The replies about a line that are on their way arrive, in the order sent. -/
def State.repliesIn (s : State) (line : Nat) : State :=
  (s.toCore.filter (fun p => p.line == line && !(p.msg == .inv || p.msg == .down || p.msg == .fwdX))).foldl
    (fun s p => s.replyIn p.core p.line p.msg) s

/-- The open transaction of a line ends: replies on their way arrive, its forwards take effect at the caches, its answers and the Puts on
their way reach the bank, and its own reply arrives (R159 to R162). -/
def State.quietLine (s : State) (line : Nat) : State :=
  let s := s.repliesIn line
  let put := s.toBank.any (fun p => p.line == line && p.core == (s.dirOf line).own && (p.msg == .putE || p.msg == .putM))
  let s : State := { s with toBank := s.toBank.filter (fun p => p.line != line || p.msg == .getS || p.msg == .getX || p.msg == .upg) }
  match sfind s.txns line with
  | some x =>
    let s := x.waiting.foldl (fun s c => s.setDc c line (if x.fwd = .down && s.dcOf c line != .I then .S else .I)) s
    let s : State := { s with
      toCore := s.toCore.filter (fun p => p.line != line || !(p.msg == .inv || p.msg == .down || p.msg == .fwdX))
      txns := sput s.txns line { x with waiting := [] } }
    (s.closeTxn line).repliesIn line
  | none => if put && (s.dirOf line).st = 2 then s.setDir line ⟨0, 0, 0, 0⟩ else s

/-- A line is recalled and written back if dirty (R156). A transaction of the line ends first (R159). -/
def State.evictLine (s : State) (line : Nat) : State :=
  let s := (s.quietLine line).recall line
  if s.dirty.contains line then s.writeBack line else s.dropLine line

/-- A superblock is no longer in its last-level bank: the tags that the scope checker keeps on its lines are lost (R193). -/
def State.freeSb (s : State) (sb : Nat) : State :=
  { s with llc := serase s.llc sb, tags := (s.sbLines sb).foldl serase s.tags }

/-- A superblock leaves its last-level bank (R156). -/
def State.evictSb (s : State) (sb : Nat) : State := ((s.sbLines sb).foldl State.evictLine s).freeSb sb

/-- Superblocks resident in the same set and partition as sb (R155, R164). -/
def State.rivals (s : State) (sb : Nat) (ptr : Bool) : List Nat :=
  (s.llc.filter (fun e => e.2.1 == ptr && homeTower e.1 == homeTower sb && homeBank e.1 == homeBank sb &&
    homeSet e.1 == homeSet sb)).map (·.1)

/-- Bring a line into its last-level bank; a full partition evicts one superblock of its set. The second component
says whether the access missed (R155, R164, R335 event 9). (DEDUCED, log entry 12) -/
def State.fillLlc (s : State) (line : Nat) (ptr : Bool) : State × Bool :=
  if s.llcValid line then (s, false)
  else
    let sb := sbOf (line * 64)
    let rv := s.rivals sb ptr
    let s := if (sfind s.llc sb).isSome || rv.length < (if ptr then 4 else 12) then s
      else ((s.victim rv).map s.evictSb).getD s
    (s.allot line ptr, true)

/-- A Down at a core's cache (R161 Table 7). -/
def State.downDc (s : State) (core line : Nat) : State :=
  if s.dcOf core line = .I then s else s.setDc core line .S

/-- Table 6, GetS from core c, as one transaction (R160): the state the cache enters. -/
def State.getS (s : State) (c line : Nat) : State :=
  let d := s.dirOf line
  match d.st with
  | 0 => (s.setDir line { st := 2, own := c, crs := 0, exa := 0 }).setDc c line .E
  | 1 => (s.setDir line (dirAdd line c d)).setDc c line .S
  | _ =>
    let s := s.downDc d.own line
    let e : DirEnt := dirAdd line c (dirAdd line d.own { st := 1, own := 0, crs := 0, exa := 0 })
    (s.setDir line e).setDc c line .S

/-- Table 6, GetX or Upg from core c, as one transaction (R160). -/
def State.getX (s : State) (c line : Nat) : State :=
  let s := s.recall line
  (s.setDir line { st := 2, own := c, crs := 0, exa := 0 }).setDc c line .M

/-- Bring a line into a scalar data cache, in E or S for a read, in M for a write, as one transaction; the second component says
whether the bank missed (R160, R161). -/
def State.fillDc (s : State) (core line : Nat) (ptr write : Bool) : State × Bool :=
  let (s, miss) := (s.dcRoom core line).fillLlc line ptr
  (if write then s.getX core line else s.getS core line, miss)

/-- Table 6, read at the slice (R160). -/
def State.sliceRead (s : State) (line : Nat) : State :=
  let d := s.dirOf line
  if d.st = 2 then
    (s.downDc d.own line).setDir line (dirAdd line d.own { st := 1, own := 0, crs := 0, exa := 0 })
  else s

/-- Table 6, write or atomic at the slice (R160). -/
def State.sliceWrite (s : State) (line : Nat) : State := s.recall line

/-- A read of n bytes performed at the home bank of its line or lines (R160, R196). -/
def State.bankRead (s : State) (a n : Nat) (ptr : Bool) : State :=
  if s.cacheable a then
    (linesOf a n).foldl (fun s l => (s.fillLlc l ptr).1.sliceRead l) s
  else s

/-- A write or atomic of n bytes performed at the home bank of its line or lines (R160, R196). -/
def State.bankWrite (s : State) (a n : Nat) (ptr : Bool) : State :=
  if s.cacheable a then
    (linesOf a n).foldl (fun s l => (s.fillLlc l ptr).1.sliceWrite l) s
  else s

/-- Is any line of an access busy. -/
def State.accBusy (s : State) (a n : Nat) : Bool :=
  s.cacheable a && (s.lineBusy (a / 64) || s.lineBusy ((a + n - 1) / 64))

/-- A read by the scheduler, a walker or the device itself at a physical address (R171, R277). -/
def State.devRead (s : State) (a n : Nat) : Nat := s.rd a n

/-- The lines of n bytes at a location of this package's memory are in no transaction (R159). -/
def State.quietAt (s : State) (a n : Nat) : State :=
  if s.cacheable a && s.accBusy a n then (s.quietLine (a / 64)).quietLine ((a + n - 1) / 64) else s

/-- A write by the scheduler or the device itself at a physical address: performed at the home bank, after the transactions of
its lines (R159). -/
def State.devWrite (s : State) (a n v : Nat) : State := ((s.quietAt a n).bankWrite a n false).wr a n v

/-- A run of bytes written by the scheduler at a physical address: frames, reports and cleared ranges (R288, R302). -/
def State.devWriteBytes (s : State) (a : Nat) (bs : List Byte) : State :=
  let ls := (List.range ((a + bs.length + 63) / 64 - a / 64)).map (· + a / 64)
  let s := if s.cacheable a then
      ls.foldl (fun s l => if s.llcValid l then s.evictLine l else s) s
    else s
  { s with mem := wrBytes s.mem a bs }

end Sys2Proof.Machine
end

