-- ==== Sys2Proof/Machine/Legal.lean ====
section
/-! DEFINITION. Which words are instructions: type codes (R79, R120), register fields (R74),
prefix fields (R76, R121, R194, R243, R262) and the other static checks of R82. -/

namespace Sys2Proof.Machine

/-- The type of a 4-bit code (R79). -/
def tyOf (c : BitVec 4) : Ty :=
  match c.toNat with
  | 0 => .s8 | 1 => .s16 | 2 => .s32 | 3 => .s64 | 4 => .n8 | 5 => .n16 | 6 => .n32 | 7 => .n64
  | 8 => .f16 | 9 => .b16 | 10 => .f32 | 11 => .f64 | 12 => .t8 | 13 => .t6 | 14 => .s4 | _ => .n4

/-- The 4-bit code of a type (R79). -/
def tyCode : Ty → Nat
  | .s8 => 0 | .s16 => 1 | .s32 => 2 | .s64 => 3 | .n8 => 4 | .n16 => 5 | .n32 => 6 | .n64 => 7
  | .f16 => 8 | .b16 => 9 | .f32 => 10 | .f64 => 11 | .t8 => 12 | .t6 => 13 | .s4 => 14 | .n4 => 15

/-- Width in bits of a type. -/
def tyW : Ty → Nat
  | .s8 => 8 | .s16 => 16 | .s32 => 32 | .s64 => 64 | .n8 => 8 | .n16 => 16 | .n32 => 32 | .n64 => 64
  | .f16 => 16 | .b16 => 16 | .f32 => 32 | .f64 => 64 | .t8 => 8 | .t6 => 6 | .s4 => 4 | .n4 => 4

/-- Signed integer types. -/
def tySigned : Ty → Bool
  | .s8 | .s16 | .s32 | .s64 | .s4 => true
  | _ => false

/-- Integer types. -/
def tyInt : Ty → Bool
  | .s8 | .s16 | .s32 | .s64 | .n8 | .n16 | .n32 | .n64 | .s4 | .n4 => true
  | _ => false

/-- IEEE float types. -/
def tyFloat : Ty → Bool
  | .f16 | .b16 | .f32 | .f64 => true
  | _ => false

/-- Tapered types. -/
def tyTaper : Ty → Bool
  | .t8 | .t6 => true
  | _ => false

/-- The P word's values where there is none (R76). -/
def pfxDefault : Pfx :=
  { tx := 0, sat := 0, rs3 := 0, xmod := 0, rm := 7, dt := 0, pol := 0, m := 0 }

/-- The P word in force for an instruction. -/
def pfxOf (px : Option Pfx) : Pfx := px.getD pfxDefault

/-- The element type of an instruction with base code b (R120). -/
def elTy (b : Nat) (px : Option Pfx) : Ty := tyOf (BitVec.ofNat 4 b ^^^ (pfxOf px).tx)

/-- The prefix fields an instruction uses, its base type code, and the codes it accepts. -/
structure PfxUse where
  m : Bool := false
  pol : Bool := false
  dt : Bool := false
  sat : Bool := false
  rm : Bool := false
  xmod : Bool := false
  rs3 : Bool := false
  /-- base type code; none where the instruction has no base type -/
  base : Option Nat := none
  /-- accepted codes -/
  codes : List Nat := []

/-- Legality of the P word (or of its absence) before an instruction that uses the fields u (R76, R120). -/
def pfxLegal (u : PfxUse) (px : Option Pfx) : Bool :=
  let p := pfxOf px
  (match u.base with
    | none => p.tx == 0
    | some b => u.codes.contains (BitVec.ofNat 4 b ^^^ p.tx).toNat) &&
  (match px with
    | none => true
    | some p =>
      (u.m || p.m == 0) && (u.pol || p.pol == 0) && (u.dt || p.dt == 0) && (u.sat || p.sat == 0) &&
      (if u.rm then p.rm != 5 && p.rm != 6 else p.rm == 0) &&
      (if u.xmod then p.xmod.toNat < 8 else p.xmod == 0) && (u.rs3 || p.rs3 == 0))

/-- Integer codes 0 to 7. -/
def codesInt : List Nat := [0, 1, 2, 3, 4, 5, 6, 7]
/-- IEEE float codes 8 to 11. -/
def codesFloat : List Nat := [8, 9, 10, 11]
/-- Codes 0 to 12. -/
def codes0to12 : List Nat := [0, 1, 2, 3, 4, 5, 6, 7, 8, 9, 10, 11, 12]
/-- Every code. -/
def codesAll : List Nat := [0, 1, 2, 3, 4, 5, 6, 7, 8, 9, 10, 11, 12, 13, 14, 15]
/-- Codes of fibre values. -/
def codesFibre : List Nat := [2, 6, 10]
/-- Codes of MTLOAD and MROW. -/
def codesTile : List Nat := [0, 4, 8, 9, 12, 13, 14, 15]

/-- Prefix fields by family: R121 Table 2, R194, R243, R262 Table 6. -/
def useIntArith (sat xmod : Bool) : PfxUse :=
  { m := true, pol := true, dt := true, sat := sat, xmod := xmod, base := some 2, codes := codesInt }
/-- Floating-point arithmetic (R121). -/
def useFp (rm xmod rs3 : Bool) : PfxUse :=
  { m := true, pol := true, dt := true, rm := rm, xmod := xmod, rs3 := rs3, base := some 10, codes := codesFloat }
/-- Compares (R121). -/
def useCmp (base : Nat) (codes : List Nat) : PfxUse :=
  { m := true, pol := true, dt := true, xmod := true, base := some base, codes := codes }
/-- Instructions that use no field. -/
def useNone : PfxUse := {}
/-- Conversions, with their own base and codes (R121). -/
def useConv (sat rm : Bool) (base : Nat) (codes : List Nat) : PfxUse :=
  { m := true, pol := true, dt := true, sat := sat, rm := rm, base := some base, codes := codes }
/-- Reductions (R121). -/
def useRed (rm : Bool) (base : Nat) (codes : List Nat) : PfxUse :=
  { m := true, dt := true, rm := rm, base := some base, codes := codes }
/-- Permutations (R121). -/
def usePerm (xmod : Bool) (codes : List Nat) : PfxUse :=
  { m := true, pol := true, xmod := xmod, base := some 6, codes := codes }
/-- Vector memory (R194). -/
def useMem (pol : Bool) (codes : List Nat) : PfxUse :=
  { m := true, pol := pol, dt := true, base := some 10, codes := codes }
/-- Fibre instructions (R262). -/
def useFibre (rm sat pol : Bool) : PfxUse :=
  { rm := rm, sat := sat, pol := pol, base := some 10, codes := codesFibre }
/-- Matrix operand types (R243). -/
def useTile (codes : List Nat) : PfxUse := { base := some 12, codes := codes }

/-- Names of mask, queue and fibre registers (R74). -/
def isF (x : BitVec 7) : Bool := x.toNat < 16
/-- Names of scale registers (R74). -/
def isC (x : BitVec 7) : Bool := x.toNat < 8
/-- Names a fibre or a queue register (R257). -/
def isFQ (x : BitVec 7) : Bool := x.toNat < 32
/-- Names a mask that may be written (R130, R131). -/
def isMaskDst (x : BitVec 7) : Bool := isF x && x != 0
/-- Scope codes (R9). -/
def isScope (x : BitVec 3) : Bool := x != 7
/-- Combine ops of FSORT, FUNION and FMERGE (R263). -/
def isCombine (o : Nat) : Bool := [0, 2, 3, 4, 5].contains o
/-- Types of FCVT (R91). -/
def isCvtTy (c : BitVec 4) : Bool := [2, 3, 6, 7, 10, 11].contains c.toNat

/-- Assigned system register numbers (R102). -/
def sysRegs : List Nat :=
  [0x000, 0x001, 0x002, 0x003, 0x004, 0x005, 0x010, 0x011, 0x012, 0x013, 0x014, 0x015, 0x016,
   0x020, 0x021, 0x030, 0x040, 0x041, 0x042]

/-- Does VAMO accept this op with this type (R199). -/
def vamoLegal (op : BitVec 4) (px : Option Pfx) : Bool :=
  let t := elTy 10 px
  if op = 0 then true
  else if op.toNat ≤ 8 then tyInt t
  else op.toNat == 9 && tyFloat t

/-- The static legality of an instruction as written (R82). The checks that need VL, ROWS or
operand values are made at issue. -/
def legalWord : Instr → Bool
  | .fcvt _ _ s t => isCvtTy s && isCvtTy t && (s != t) && (tyFloat (tyOf s) || tyFloat (tyOf t))
  | .qpush _ q => isF q
  | .qpop _ q => isF q
  | .qcnt _ q => isF q
  | .qlink q _ => isF q
  | .srr _ n => sysRegs.contains n.toNat
  | .vadd _ _ _ px | .vsub _ _ _ px | .vmul _ _ _ px | .vmacc _ _ _ px => pfxLegal (useIntArith true true) px
  | .vaddScalar _ _ _ px | .vsubScalar _ _ _ px | .vmulScalar _ _ _ px | .vmaccScalar _ _ _ px =>
    pfxLegal (useIntArith true false) px
  | .vand _ _ _ px | .vor _ _ _ px | .vxor _ _ _ px | .vmin _ _ _ px | .vmax _ _ _ px | .vsadd _ _ _ px
  | .vssub _ _ _ px | .vmulh _ _ _ px | .vsll _ _ _ px | .vsrl _ _ _ px | .vsra _ _ _ px =>
    pfxLegal (useIntArith false true) px
  | .vandScalar _ _ _ px | .vorScalar _ _ _ px | .vxorScalar _ _ _ px | .vminScalar _ _ _ px
  | .vmaxScalar _ _ _ px | .vsaddScalar _ _ _ px | .vssubScalar _ _ _ px | .vmulhScalar _ _ _ px
  | .vsllScalar _ _ _ px | .vsrlScalar _ _ _ px | .vsraScalar _ _ _ px => pfxLegal (useIntArith false false) px
  | .vclz _ _ px | .vpopc _ _ px => pfxLegal (useIntArith false false) px
  | .vfadd _ _ _ px | .vfsub _ _ _ px | .vfmul _ _ _ px | .vfdiv _ _ _ px => pfxLegal (useFp true true false) px
  | .vfaddScalar _ _ _ px | .vfsubScalar _ _ _ px | .vfmulScalar _ _ _ px | .vfdivScalar _ _ _ px =>
    pfxLegal (useFp true false false) px
  | .vfma _ _ _ px | .vfnma _ _ _ px => pfxLegal (useFp true true true) px
  | .vfmaScalar _ _ _ px | .vfnmaScalar _ _ _ px => pfxLegal (useFp true false true) px
  | .vfmin _ _ _ px | .vfmax _ _ _ px => pfxLegal (useFp false true false) px
  | .vfminScalar _ _ _ px | .vfmaxScalar _ _ _ px => pfxLegal (useFp false false false) px
  | .vfsqrt _ _ px => pfxLegal (useFp true false false) px
  | .vfclass _ _ px => pfxLegal (useFp false false false) px
  | .vcmp d _ _ c px => isMaskDst d && (c.toNat < 6) && pfxLegal (useCmp 2 codesInt) px
  | .vfcmpEq d _ _ px | .vfcmpNe d _ _ px | .vfcmpLt d _ _ px | .vfcmpLe d _ _ px | .vfcmpUn d _ _ px =>
    isMaskDst d && pfxLegal (useCmp 10 codesFloat) px
  | .mand d a b px | .mor d a b px | .mxor d a b px | .mandn d a b px =>
    isMaskDst d && isF a && isF b && pfxLegal useNone px
  | .mpopc _ a px | .mfirst _ a px => isF a && pfxLegal useNone px
  | .mset d _ px => isMaskDst d && pfxLegal useNone px
  | .vcvt _ _ s px => pfxLegal (useConv true true 10 codesAll) px && (tyOf s != elTy 10 px)
  | .vwiden _ _ px => pfxLegal (useConv false false 1 [0, 1, 2, 4, 5, 6, 8, 9, 10]) px
  | .vnarrow _ _ _ px => pfxLegal (useConv true true 2 [1, 2, 3, 5, 6, 7]) px
  | .smaxe d _ _ px => isC d &&
    pfxLegal { m := true, dt := true, base := some 10, codes := [8, 9, 10, 11, 12, 13] } px
  | .vquant _ _ _ _ _ px => pfxLegal (useConv false true 12 [12, 13, 0, 14]) px
  | .vscale _ _ _ _ _ px => pfxLegal (useConv false true 10 codesFloat) px
  | .vscacc _ _ _ _ px => pfxLegal { m := true, pol := true, dt := true, rm := true } px
  | .vredsum _ _ _ px | .vredmin _ _ _ px | .vredmax _ _ _ px => pfxLegal (useRed false 2 codesInt) px
  | .vfredsum _ _ _ px | .vfredsumt _ _ _ px => pfxLegal (useRed true 10 codesFloat) px
  | .vfredmax _ _ _ px => pfxLegal (useRed false 10 codesFloat) px
  | .vperm _ _ _ px => pfxLegal (usePerm true codes0to12) px
  | .vslideup _ _ _ px | .vslidedn _ _ _ px => pfxLegal (usePerm false codes0to12) px
  | .vrev _ _ px | .vbcast _ _ px | .vcompress _ _ px | .vexpand _ _ px => pfxLegal (usePerm false codes0to12) px
  | .viota _ px => pfxLegal (usePerm false codesInt) px
  | .vmerge _ _ _ px => pfxLegal { m := true, base := some 6, codes := codes0to12 } px
  | .vreshape _ _ _ px | .vextract _ _ _ px | .vinsert _ _ _ px => pfxLegal { base := some 6, codes := codes0to12 } px
  | .vqpop _ q px => isF q && pfxLegal { m := true, pol := true, base := some 7, codes := codes0to12 } px
  | .vqpush q _ px => isF q && pfxLegal { base := some 7, codes := codes0to12 } px
  | .setvl _ _ _ _ px | .setvli _ _ _ _ px => pfxLegal useNone px
  | .vld _ _ _ px => pfxLegal (useMem true codesAll) px
  | .vst _ _ _ px => pfxLegal (useMem false codesAll) px
  | .vlds _ _ _ px | .vldx _ _ _ _ px | .vldw _ _ _ px => pfxLegal (useMem true codes0to12) px
  | .vsts _ _ _ px | .vstx _ _ _ _ px => pfxLegal (useMem false codes0to12) px
  | .vamo _ _ _ o px => pfxLegal (useMem true [2, 3, 6, 7, 10, 11]) px && vamoLegal o px
  | .amo _ _ p _ o s => (p.toNat ≤ 9) && (o.toNat ≤ 4) && isScope s && (o != 0 || s == 0)
  | .amocas d _ _ o s => (o.toNat ≤ 4) && isScope s && (o != 0 || s == 0) && (d != 0) && (d != 127)
  | .fence s _ _ => isScope s
  | .bar s _ => isScope s
  | .waitge s _ _ => isScope s
  | .wmpub s _ _ => isScope s
  | .wmbind _ s _ _ => isScope s
  | .sstr q _ _ _ => isF q
  | .ewait m a _ => (m != 3) && (m != 0 || a == 0)
  | .fld d a _ px => isF d && (a != 0) && (a != 127) && pfxLegal (useFibre false false false) px
  | .fst d a px => isF d && (a != 0) && (a != 127) && pfxLegal (useFibre false false false) px
  | .fwalk d _ _ px => isF d && pfxLegal (useFibre false false false) px
  | .fsort d a o px => isF d && isF a && (d != a) && isCombine o.toNat && pfxLegal (useFibre true true false) px
  | .fisect d a b o px => isF d && isFQ a && isFQ b && (d != a) && (d != b) && (a != b || isF a) && (o.toNat ≤ 4) &&
    pfxLegal (useFibre true true false) px
  | .fisectc _ a b px => isFQ a && isFQ b && (a != b || isF a) && pfxLegal useNone px
  | .funion d a b o px => isF d && isFQ a && isFQ b && (d != a) && (d != b) && (a != b || isF a) &&
    isCombine o.toNat && pfxLegal (useFibre true true false) px
  | .fmerge d a k o px => isF d && isF a && (a.toNat + k.toNat ≤ 15) &&
    (d.toNat < a.toNat || a.toNat + k.toNat < d.toNat) && isCombine o.toNat && pfxLegal (useFibre true true false) px
  | .fcompact d a px => isF d && isF a && (d != a) && pfxLegal (useFibre false false false) px
  | .fexpand _ a _ px => isF a && pfxLegal (useFibre false false true) px
  | .fgather d _ _ px => isF d && pfxLegal (useFibre false false false) px
  | .fslice d a _ px => isF d && isFQ a && (d != a) && pfxLegal (useFibre false false false) px
  | .fmap d a b o px => isF d && isF a && (d != a) && (o.toNat < 6 || b == 0) && pfxLegal (useFibre true true false) px
  | .fcfg f _ px => isF f && pfxLegal useNone px
  | .fclr f px => isF f && pfxLegal useNone px
  | .flenr _ f px => isF f && pfxLegal useNone px
  | .mtload c _ _ _ px => isC c && pfxLegal (useTile codesTile) px
  | .mtzero _ px => pfxLegal useNone px
  | .mrow _ _ c _ px => isC c && pfxLegal (useTile codesTile) px && (!tyInt (elTy 12 px) || c == 0)
  | .mrowg f _ c _ px => isF f && pfxLegal (useTile [2, 10]) px && isC c && (!tyInt (elTy 12 px) || c == 0)
  | .mdrain _ _ px | .mdrainKeep _ _ px => pfxLegal { sat := true } px
  | .mclr _ px => pfxLegal useNone px
  | .mstatRow _ _ px | .mstatSlot _ _ px => pfxLegal useNone px
  | _ => true

end Sys2Proof.Machine
end

