-- ==== Sys2Proof/Machine/Ops.lean ====
section
/-! DEFINITION. The named operations: the program counter and the
nest (R72, R96, R98), records, interrupts, trace and counters (R283 to R287, R311, R316, R333,
R335), freezes and swaps (R58 to R66, R288, R291), taking a scalar-side trap and returning from one
(R104, R106). -/

namespace Sys2Proof.Machine

/-- Why an access or an instruction cannot go on. -/
inductive Stop where
  /-- a translation fault: level, address, access bits of R284 -/
  | fault (level va acc : Nat)
  /-- a violation, an error or a watchpoint: event code (R294), address, access bits -/
  | freeze (code va acc : Nat)
  /-- it waits -/
  | block
  /-- a scalar-side trap: cause and value (R104) -/
  | trap (cause : Nat) (val : Word)
  deriving DecidableEq, Repr

/-- Computations that read and change the machine and may stop. -/
abbrev M := EStateM Stop State

/-! ### Layers -/

/-- Is a compute layer of a tower active (R230, R231, R322). -/
def Tower.activeAt (t : Tower) (k : Nat) : Bool := t.layers.getD k .active == .active
/-- Does a core issue nothing: its tower's issue is held (R323), or its layer does not stand in ACTIVE (R230, R231). -/
def State.coreHeld (s : State) (c : Nat) : Bool := (s.tower (towerOf c)).stop || !(s.tower (towerOf c)).activeAt (layerOf c)
/-- Can the scalar unit of a hart move, and its queue. -/
def State.canMove (s : State) (h : Nat) : Bool := (s.hart h).run == .running && !s.coreHeld (coreOf h)

/-- A write to a word of the package register space outside the identity block: none takes effect after a failed boot (R319). -/
def State.registerEvent (s : State) (f : State → State) : State := if s.boot.fail = 0 then f s else s

/-! ### Counters (R335) -/

/-- Does counter control word ctl count an event of type evt of a task of launch lh on hart h. -/
def State.counts (s : State) (ctl : Word) (lh h evt : Nat) : Bool :=
  let c := ctl.toNat
  bits c 13 0 == evt && evt != 0 && (bits c 63 32 == 0 || bits c 63 32 == lh) &&
  (!c.testBit 31 || (bits c 23 16 == s.logical (coreOf h) && bits c 15 14 == h % 4))

/-- Owner of the events of the task on a hart: its launch and the hart. -/
def State.ownerOf (s : State) (h : Nat) : Nat × Nat := (s.seqOf h, h)

/-- Add n events of type evt, of an owner, to every counter that counts them. -/
def State.countAs (s : State) (own : Nat × Nat) (evt n : Nat) : State :=
  s.dbg.ctrCtl.foldl (fun s e =>
    if s.counts e.2 own.1 own.2 evt then
      { s with dbg := { s.dbg with ctrs := sset s.dbg.ctrs 0 e.1 (sget s.dbg.ctrs 0 e.1 + w64 n) } }
    else s) s

/-- Add n events of type evt of the task on hart h. -/
def State.count (s : State) (h evt n : Nat) : State := s.countAs (s.ownerOf h) evt n

/-! ### Interrupts (R311, R316) -/

/-- Entry address of a vector in its table (R316). -/
def State.vecAddr (s : State) (ev : Bool) (vec : Nat) : Nat :=
  (if ev then s.irq.evtBase else s.irq.cmpBase) + 16 * vec

/-- Send the message of a vector, a 4-byte write of its data at its address, or hold it pending while it is masked (R316).
(DEDUCED, log entry 50) -/
def State.sendVec (s : State) (ev : Bool) (vec : Nat) : State :=
  let a := s.vecAddr ev vec
  let w1 := s.devRead (a + 8) 8
  if w1.testBit 32 then
    { s with irq := { s.irq with pending := if s.irq.pending.contains (ev, vec) then s.irq.pending
                                            else s.irq.pending ++ [(ev, vec)] } }
  else
    let m := s.devRead a 8 / 4 * 4
    let s := if s.cacheable m then s.devWrite m 4 w1 else s
    { s with irq := { s.irq with sent := (m, w1 % 2 ^ 32) :: s.irq.sent } }

/-- The end of a vector's coalescing window once its time has come: if completions arrived, one interrupt is raised, and a new window
opens (R311). -/
def State.endWindow (s : State) (ev : Bool) (vec : Nat) : State :=
  match s.irq.windows.find? (fun w => w.1 == (ev, vec)) with
  | none => s
  | some (_, fin, arrived) =>
    if s.time < fin then s
    else
      let rest := s.irq.windows.filter (fun w => w.1 != (ev, vec))
      let more := if arrived && s.sched.ciwin ≠ 0 then [((ev, vec), fin + s.sched.ciwin, false)] else []
      let s : State := { s with irq := { s.irq with windows := rest ++ more } }
      if arrived then s.sendVec ev vec else s

/-- Raise a vector under the coalescing rule of R311: completion vectors and event vector 0. A window whose time has come ends
first, and so does the one that its end opens. With CIWIN.WIN 0 each completion raises its own. -/
def State.raiseCoalesced (s : State) (ev : Bool) (vec : Nat) : State :=
  let s := (s.endWindow ev vec).endWindow ev vec
  if s.sched.ciwin = 0 then s.sendVec ev vec
  else match s.irq.windows.find? (fun w => w.1 == (ev, vec)) with
  | some _ =>
    { s with irq := { s.irq with windows := s.irq.windows.map (fun w => if w.1 == (ev, vec) then (w.1, w.2.1, true) else w) } }
  | none =>
    let s := s.sendVec ev vec
    { s with irq := { s.irq with windows := s.irq.windows ++ [((ev, vec), s.time + s.sched.ciwin, false)] } }

/-- Raise an event vector (R316). -/
def State.raiseEvent (s : State) (vec : Nat) : State :=
  if vec = 0 then s.raiseCoalesced true 0 else s.sendVec true vec

/-! ### Trace (R333, R334) -/

/-- Write one trace record, or discard it when the ring is full. -/
def State.tracePut (s : State) (words : List Nat) : State :=
  let n := 2 ^ (s.dbg.trSz + 8)
  if (s.dbg.trHead + 2 ^ 32 - s.dbg.trTail) % 2 ^ 32 ≥ n then
    { s with dbg := { s.dbg with trLost := (s.dbg.trLost + 1) % 2 ^ 32 } }
  else
    let s := s.devWriteBytes (s.dbg.trBase + 32 * (s.dbg.trHead % n)) (words.flatMap (leBytes 8))
    { s with dbg := { s.dbg with trHead := (s.dbg.trHead + 1) % 2 ^ 32 } }

/-- The 16-byte element-pointer field of eight pointers (R331, R333). -/
def ptrWords (ps : List Nat) : List Nat :=
  [nth ps 0 + nth ps 1 * 2 ^ 16 + nth ps 2 * 2 ^ 32 + nth ps 3 * 2 ^ 48,
   nth ps 4 + nth ps 5 * 2 ^ 16 + nth ps 6 * 2 ^ 32 + nth ps 7 * 2 ^ 48]

/-- Every pointer 0xFFFF. -/
def ptrNone : List Nat := [0xFFFF, 0xFFFF, 0xFFFF, 0xFFFF, 0xFFFF, 0xFFFF, 0xFFFF, 0xFFFF]

/-- A record of a core, preceded by a time record where R333 asks for one. -/
def State.traceCore (s : State) (h kind pipe unit ecode addr : Nat) (w23 : List Nat) : State :=
  let c := coreOf h
  let id := s.logical c * 2 ^ 16 + h % 4 * 2 ^ 8
  let first := match (s.core c).traceAt with
    | none => true
    | some t => s.time - t > 0xFFFF
  let delta := match (s.core c).traceAt with
    | none => 0
    | some t => if first then 0 else s.time - t
  let s := if first then s.tracePut [5 * 2 ^ 60 + id, s.time % 2 ^ 64, 0, 0] else s
  let s := s.tracePut ([kind * 2 ^ 60 + pipe * 2 ^ 56 + unit * 2 ^ 48 + delta * 2 ^ 32 + id + ecode, addr] ++ w23)
  s.modCore c (fun k => { k with traceAt := some s.time })

/-- Is the task on a hart traced (R329, R333). -/
def State.traced (s : State) (h : Nat) : Bool :=
  s.dbg.trOn && s.dbgOf h && (s.dbg.trLh == 0 || s.dbg.trLh == s.seqOf h)

/-- Write a begin (1), end (2) or stop (4) record of a hart if it is traced. (DEDUCED, log entry 43) -/
def State.trace (s : State) (h kind pipe unit ecode addr : Nat) (ptrs : List Nat) : State :=
  if s.traced h then s.traceCore h kind pipe unit ecode addr (ptrWords ptrs) else s

/-! ### Fault records (R283 to R287) -/

/-- MKIND and MIDX of a master (R284). -/
def masterKind : Master → Nat × Nat
  | .hart h => (0, h % 4)
  | .channel _ c => (1, c)
  | .stream _ st => (2, st)
  | .engine e => (3, e)
  | .requester r => (4, r)

/-- The four words of a record posted with sequence number seq (R284). -/
def recWords (r : FaultRec) (seq : Nat) : List Nat :=
  let (mk, mi) := masterKind r.master
  [r.cause * 2 ^ 48 + mk * 2 ^ 44 + r.acc * 2 ^ 40 + r.level * 2 ^ 37 + seq, r.va,
   r.lh * 2 ^ 32 + r.core * 2 ^ 16 + r.hart * 2 ^ 8 + mi, r.pc]

/-- Number of records the ring holds. -/
def State.fbSize (s : State) : Nat := 2 ^ (s.fb.sz + 6)
/-- Is there room to post a record (R286). -/
def State.fbRoom (s : State) : Bool :=
  s.fb.on && (s.fb.head + 2 ^ 32 - s.fb.tail) % 2 ^ 32 < s.fbSize

/-- Post a record: slot, HEAD, interrupt (R285). -/
def State.postRec (s : State) (r : OpenRec) : State :=
  let s := s.devWriteBytes (s.fb.base + 32 * (s.fb.head % s.fbSize)) ((recWords r.body s.fb.head).flatMap (leBytes 8))
  let out := if r.body.cause = 0x12 then s.fb.out ++ [{ r with seq := some s.fb.head }] else s.fb.out
  let s := { s with fb := { s.fb with head := (s.fb.head + 1) % 2 ^ 32, out := out } }
  if s.fb.pie then s.raiseEvent 0 else s

/-- Raise an event's record: posted, or held at its master (R285, R286). -/
def State.raiseRec (s : State) (r : FaultRec) : State :=
  let o : OpenRec := { num := s.fb.nextNum, seq := none, body := r }
  let s := { s with fb := { s.fb with nextNum := s.fb.nextNum + 1 } }
  if s.fbRoom && s.fb.held.isEmpty then s.postRec o
  else
    let first := s.fb.ovf == 0
    let s := { s with fb := { s.fb with held := s.fb.held ++ [o], ovf := (s.fb.ovf + 1) % 2 ^ 32 } }
    if first && s.fb.ovie then s.raiseEvent 1 else s

/-- Post held records in the order raised, as space allows (R286). -/
def State.repost (s : State) : Nat → State
  | 0 => s
  | k + 1 =>
    match s.fb.held with
    | [] => s
    | o :: t =>
      if s.fbRoom then (({ s with fb := { s.fb with held := t } } : State).postRec o).repost k else s

/-- The record of an event of a hart's task (R284). -/
def State.hartRec (s : State) (h : Nat) (m : Master) (cause acc level va pc : Nat) : FaultRec :=
  { cause := cause, master := m, acc := acc, level := level, va := va, lh := s.seqOf h,
    core := s.logical (coreOf h), hart := h % 4, pc := pc }

/-! ### Loads in flight (R161, R172) -/

/-- Count a miss of a last-level bank, if it has an owner (R335 event 9). -/
def State.countMiss (s : State) (own : Option (Nat × Nat)) (miss : Bool) : State :=
  match own, miss with
  | some o, true => s.countAs o 9 1
  | _, _ => s

/-- An access of n bytes performed at the home bank of its line or lines, each miss counted for its owner (R160, R335). -/
def State.bankDo (s : State) (own : Option (Nat × Nat)) (write : Bool) (a n : Nat) (ptr : Bool) : State :=
  let misses := if s.cacheable a then (linesOf a n).countP (fun l => !s.llcValid l) else 0
  let s := if write then s.bankWrite a n ptr else s.bankRead a n ptr
  match own with
  | some o => s.countAs o 9 misses
  | none => s

/-- The requests that the core of hart h has on their way for a line are served, in the order sent, each as one transaction (R159,
R160). -/
def State.serveLine (s : State) (h line : Nat) : State :=
  let c := coreOf h
  let s := s.quietLine line
  (s.toBank.filter (fun p => p.core == c && p.line == line)).foldl (fun s p =>
    let s : State := { s with toBank := s.toBank.erase p }
    let own := p.msg != .getS
    let (s, miss) := s.fillDc c line p.ptr own
    (s.countMiss p.own miss).lineReady c line (own || s.dcOf c line != .S)) s

/-- The load a hart has in flight is performed at once: before a stop, every instruction before the program counter has completed
(R59, R63). -/
def State.settleLoad (s : State) (h : Nat) : State :=
  match (s.hart h).load with
  | none => s
  | some (_, _, a) =>
    if a.slice then ((s.quietAt a.loc a.size).bankDo (some a.own) false a.loc a.size a.pointer).loadIn h a
    else
      let line := a.loc / 64
      let s := s.serveLine h line
      if (s.hart h).load.isNone then s
      else
        let (s, miss) := if s.dcOf (coreOf h) line = .I then s.fillDc (coreOf h) line a.pointer false else (s, false)
        (s.countMiss (some a.own) miss).loadIn h a

/-! ### Lane groups (R15, R64, R331) -/

/-- Major opcode of a queue entry. -/
def Entry.major (e : Entry) : Nat := e.word.toNat % 128
/-- func4 of a queue entry. -/
def Entry.func4 (e : Entry) : Nat := e.word.toNat / 2 ^ 28
/-- Field [13:7] of a queue entry. -/
def Entry.fieldD (e : Entry) : Nat := bits e.word.toNat 13 7
/-- Field [20:14] of a queue entry. -/
def Entry.fieldA (e : Entry) : Nat := bits e.word.toNat 20 14
/-- Field [27:21] of a queue entry. -/
def Entry.fieldB (e : Entry) : Nat := bits e.word.toNat 27 21

/-- The matrix unit's instructions, which are indivisible and can stop once they have begun (R60). -/
def Entry.matrix (e : Entry) : Bool := 0x78 ≤ e.major && e.major ≤ 0x7B
/-- Entries of one row, whatever VL and ROWS are: an Electrum write (R227), and a matrix instruction, whose positions are element groups
of 256 bits (R253). -/
def Entry.flat (e : Entry) : Bool := e.major == 0x6F || e.matrix

/-- Row of an element index (R45). -/
def Entry.row (e : Entry) (p : Nat) : Nat := if e.flat then 0 else p / e.vle
/-- Position of an element in its row (R45, R227). -/
def Entry.pos (e : Entry) (p : Nat) : Nat := if e.flat then p else p % e.vle
/-- Width of what one position holds. -/
def Entry.unitW (e : Entry) : Nat := if e.matrix then 256 else e.gw
/-- Working lane groups of the core, as captured with MAXVL.BYTES (R15, R16). -/
def Entry.width (e : Entry) : Nat := e.maxb / 256

/-- Position in L of the lane group that handles element i of a row (R15). -/
def laneOf (w lanes i : Nat) : Nat := if lanes = 0 then 0 else i * w / 8 / 32 % lanes
/-- Position in L of the lane group that handles element p of an entry (R15). -/
def Entry.lane (e : Entry) (p : Nat) : Nat := laneOf e.unitW e.width (e.pos p)

/-- Mask instructions (R131): one operation on the lane group at position 0. -/
def Entry.maskOp (e : Entry) : Bool := e.major == 0x47
/-- Indivisible instructions and VCOMPRESS that read a sweep: permutations, reductions and SMAXE (R135, R139, R140 to R143). -/
def Entry.sweeps (e : Entry) : Bool := e.kind != .elem && (e.major == 0x49 || (0x4A ≤ e.major && e.major ≤ 0x4C))

/-- Element groups of a matrix instruction: the 12 of the A row of MROW, those that MDRAIN writes, the one cycle of MSTAT on lane group
L[0], and none of the others (R249, R253). -/
def Entry.matrixGroups (e : Entry) : Nat :=
  if e.major = 0x79 && e.func4 < 4 then 12
  else if e.major = 0x7A && e.func4 < 2 then (min (256 - bits e.opA.toNat 23 16) (e.maxb / 4) + 7) / 8
  else if e.major = 0x7B then 1
  else 0

/-- The positions of an entry that lane groups take, ascending: the elements of a divisible instruction or of a sweep, the element of
VEXTRACT and VINSERT, one position for a mask instruction, and the element groups of a matrix instruction (R49, R131, R253). -/
def Entry.positions (e : Entry) : List Nat :=
  if e.kind = .elem then List.range e.total
  else if e.maskOp then [0]
  else if e.matrix then List.range e.matrixGroups
  else if e.major = 0x4C && 3 ≤ e.func4 then [if e.opB.toNat < e.vle then e.opB.toNat else 0]
  else if e.sweeps then List.range (e.rows * e.vle)
  else []

/-- Where a lane group stands in an entry: it has taken the positions of its own below this index (R59); of a divisible entry, a freeze
leaves some committed above ESTART (R64). -/
def Entry.laneReach (e : Entry) (j : Nat) : Nat :=
  max e.estart (max (nth e.reach j) (if e.kind = .elem then nth e.hard j else 0))
/-- Positions that their lane groups have yet to take. -/
def Entry.untaken (e : Entry) : List Nat := e.positions.filter (fun p => e.laneReach (e.lane p) ≤ p)

/-- The element group of a position: its row and its place in the row (R45). -/
def Entry.groupOf (e : Entry) (p : Nat) : Nat × Nat := (e.row p, e.pos p * e.unitW / 256)
/-- The positions from p up that lie in its element group. -/
def Entry.groupFrom (e : Entry) (p : Nat) : List Nat :=
  (e.positions.filter (p ≤ ·)).takeWhile (fun q => e.groupOf q == e.groupOf p)

/-- Is element p, at or above ESTART, committed already by its lane group at an earlier freeze (R64). -/
def Entry.laneDone (e : Entry) (p : Nat) : Bool := !e.hard.isEmpty && p < nth e.hard (e.lane p) && e.estart ≤ p

/-- Elements of a divisible entry whose effect is not committed, ascending (R59, R64). -/
def Entry.left (e : Entry) : List Nat :=
  ((List.range (e.total - e.estart)).map (· + e.estart)).filter (fun p => !e.laneDone p)

/-- The pointers of R331 over a list of uncommitted elements: the lowest one of each lane cluster, or 0xFFFF. -/
def Entry.pointers (e : Entry) (left : List Nat) : List Nat :=
  (List.range 8).map (fun j => min 0xFFFF ((left.find? (fun p => e.lane p == j)).getD 0xFFFF))

/-- The restart-index vector of an entry: progress-class and indivisible entries hold 0xFFFF in every pointer (R331). -/
def Entry.restart (e : Entry) : List Nat := if e.kind = .elem then e.pointers e.left else ptrNone

/-- The pointers of the oldest entry of a hart, for trace (R333). -/
def State.headPtrs (s : State) (h : Nat) : List Nat := ((s.ctx h).vq.head?.map Entry.restart).getD ptrNone

/-! ### Freezes and swaps -/

/-- A snapshot entry: held-back elements are discarded (R59), a row operation that waits is abandoned (R240, R252), an indivisible
instruction whose effect is not committed has not begun (R60), and the order test of queue sources starts afresh (R257). -/
def Entry.snapshot (e : Entry) : Entry :=
  { e with reach := [], held := [], stallSince := none, part := none, tile := none, lastA := none, lastB := none,
           begun := e.begun && (e.kind != .whole || e.pendRec.isSome) }

/-- An entry as a freeze leaves it: as a snapshot, with its restart-index vector (R64, R331). -/
def Entry.unwind (e : Entry) : Entry := { e.snapshot with hard := e.restart }

/-- Every row operation of a hart leaves its core's order of failed ones (R240). -/
def State.unwait (s : State) (h : Nat) : State :=
  s.modCore (coreOf h) (fun k => { k with failed := k.failed.filter (· != h) })

/-- A tile that an MTLOAD of the queue is loading becomes PARTIAL at its stop (R60, R245). -/
def State.partialTile (s : State) (h : Nat) : State :=
  (s.ctx h).vq.foldl (fun s e =>
    if e.major = 0x78 && e.func4 < 4 && e.begun && e.pendRec.isNone then
      s.modCore (coreOf h) (fun k =>
        let x := sget k.tiles Tile.init e.func4
        if x.state = 2 then { k with tiles := sset k.tiles Tile.init e.func4 { x with state := 3 } } else k)
    else s) s

/-- A hart freezes in place with an event code; its record is posted unless the code is a debug halt (R64, R291,
R294). pc is the address of the instruction that raised the event. -/
def State.freezeHart (s : State) (h code va acc pc : Nat) : State :=
  let s := ((s.settleLoad h).partialTile h).unwait h
  let s := s.modHart h (fun x =>
    { x with run := .frozen code, wait := none, halt := false, ctx := { x.ctx with vq := x.ctx.vq.map Entry.unwind } })
  let s := s.trace h 4 0 0 (code % 256) pc (s.headPtrs h)
  if code = 0x2B then s else s.raiseRec (s.hartRec h (.hart h) code acc 7 va pc)

/-- Is a hart draining its queue before a trap (R63). -/
def Wait.isTrap : Wait → Bool
  | .trap _ _ _ => true
  | _ => false

/-- The bank of a core as a swap of hart h finds it: a staging for another hart is abandoned (R288). -/
def State.dropStaging (s : State) (h : Nat) : State :=
  match (s.core (coreOf h)).bank with
  | .staging t =>
    if (sfind s.sched.tasks t).any (fun k => k.hart != h) then s.modCore (coreOf h) (fun k => { k with bank := .empty }) else s
  | _ => s

/-- The freeze that is to take effect once a hart's task is on its hart again: a halt that has yet to is one (R294, R330). -/
def Hart.due (x : Hart) : Option DueStop :=
  x.ctx.dueStop.or (if x.halt then some { code := 0x2B, va := 0, acc := 0, pc := x.ctx.pc.toNat, entry := none, elem := 0 } else none)

/-- The context of a hart goes to the shadow bank of its core (R62, R288). A context saved while a trap drains the queue has class 2,
with the code of the event that saved it (R63, R69; DESIGN CHOICE, log entry 59). -/
def State.bankOut (s : State) (h code : Nat) (ready yielded : Bool) (onRec : Option Nat) : State :=
  match (s.hart h).task with
  | none => s
  | some t =>
    let s := s.count h 12 1
    let x := s.hart h
    let cls := if x.wait.any Wait.isTrap then 2 else 1
    let sv : Saved := { ctx := { x.ctx with vq := x.ctx.vq.map Entry.snapshot, dueStop := x.due }, code := code, cls := cls,
                        ready := ready, onRec := onRec, yielded := yielded, since := s.time, aged := 0,
                        spilled := false, stamp := 0 }
    let s := s.modTask t (fun k => { k with saved := some sv })
    let s := s.setHart h x.vacant
    s.modCore (coreOf h) (fun k => { k with bank := .outgoing t })

/-- Swap the task of a hart out at an event of the instruction at an address: its context goes to the shadow bank, or the hart stops in
place while the bank is busy (R62, R288, R290). code is that of R294; onRec is the record whose acknowledgement makes it ready. -/
def State.swapOutAt (s : State) (h code pc : Nat) (ready yielded : Bool) (onRec : Option Nat) : State :=
  let s := (((s.settleLoad h).partialTile h).unwait h).dropStaging h
  let s := s.trace h 4 0 0 (code % 256) pc (s.headPtrs h)
  if (s.core (coreOf h)).bank ≠ .empty then
    s.modHart h (fun x => { x with run := .stopped code, wait := x.wait.filter Wait.isTrap, faultRec := onRec,
                                   ctx := { x.ctx with vq := x.ctx.vq.map Entry.snapshot } })
  else s.bankOut h code ready yielded onRec

/-- Swap the task of a hart out at its program counter. -/
def State.swapOut (s : State) (h code : Nat) (ready yielded : Bool) (onRec : Option Nat) : State :=
  s.swapOutAt h code (s.ctx h).pc.toNat ready yielded onRec

/-- May a resumable event of hart h be taken now: not while a CLEAN or CDROP is under way (R110). -/
def State.eventOpen (s : State) (h : Nat) : Bool :=
  match (s.hart h).wait with
  | some (.clean _ _ _) => false
  | _ => true

/-- A hart stops in place at a fault that cannot take it off its slot: the instruction at its program counter, a CLEAN or CDROP, goes on
once the record is acknowledged (R110, R290). (DEDUCED, log entry 26) -/
def State.holdInPlace (s : State) (h code num : Nat) : State :=
  ((s.partialTile h).unwait h).modHart h (fun x => { x with
    run := .stopped code, faultRec := some num, ctx := { x.ctx with vq := x.ctx.vq.map Entry.snapshot } })

/-- A translation fault of a hart: its record is posted or held, and the task is swapped out (R282, R286); a CLEAN or CDROP completes
before it is (R110). -/
def State.faultHart (s : State) (h level va acc pc : Nat) : State :=
  let num := s.fb.nextNum
  let s := s.count h 11 1
  let s := s.raiseRec (s.hartRec h (.hart h) 0x12 acc level va pc)
  let code := if s.fb.held.any (fun o => o.num == num) then 0x13 else 0x12
  if s.eventOpen h then s.swapOutAt h code pc false false (some num) else s.holdInPlace h code num

/-! ### The program counter, the nest, traps -/

/-- Length in bytes of an instruction with or without a P word (R72). -/
def pxLen (px : Option Pfx) : Nat := if px.isSome then 8 else 4

/-- The first dimension, from the innermost, whose counter is not at its last value (R96). -/
def nestDim (ctrs trips : List Nat) : Nat → Nat → Option Nat
  | _, 0 => none
  | d, k + 1 => if nth ctrs d + 1 < nth trips d then some d else nestDim ctrs trips (d + 1) k

/-- The end of a pass of the nest's body (R96): the next pass, or the word after the body. -/
def Ctx.nestStep (c : Ctx) (n : Nest) : Ctx :=
  match nestDim n.ctrs n.trips 0 n.trips.length with
  | none => { c with nest := none }
  | some d =>
    let ctrs := (List.range n.trips.length).map (fun j =>
      if j < d then 0 else if j = d then nth n.ctrs j + 1 else nth n.ctrs j)
    let c := { c with nest := some { n with ctrs := ctrs }, pc := BitVec.ofNat 56 (n.start + 4) }
    (List.range n.regs.length).foldl (fun c a =>
      c.setP (nth n.regs a) (c.getP (nth n.regs a) + ((n.steps.getD a []).getD d 0))) c

/-- Continue at the next instruction: PC + len, or the nest's next pass at the end of its body (R83, R96). -/
def Ctx.advance (c : Ctx) (len : Nat) : Ctx :=
  let c := { c with pc := c.pc + BitVec.ofNat 56 len }
  match c.nest with
  | some n =>
    if !n.suspended && c.pc == BitVec.ofNat 56 (n.start + 4 + 4 * n.body.length) then c.nestStep n else c
  | none => c

/-- Continue after the issue of an instruction. The end of a pass is left open by one that writes a scalar register when it completes:
an address register of the nest receives its step after that (R46, R48, R96). -/
def Ctx.advanceOver (c : Ctx) (writes : Bool) (len : Nat) : Ctx :=
  if writes then { c with pc := c.pc + BitVec.ofNat 56 len } else c.advance len

/-- Has the hart reached the end of a pass that an instruction of the body left open: the program counter stands at the word
after the body of the running nest (R46, R96). -/
def Ctx.passOpen (c : Ctx) : Bool :=
  c.nest.any (fun n => !n.suspended && c.pc == BitVec.ofNat 56 (n.start + 4 + 4 * n.body.length))

/-- The end of a pass that was left open. -/
def Ctx.closePass (c : Ctx) : Ctx :=
  match c.nest with
  | some n => c.nestStep n
  | none => c

/-- A scalar instruction of len bytes completes: its wait ends, and the hart continues at the next instruction. -/
def State.finish (s : State) (h len : Nat) : State :=
  (s.count h 2 1).modHart h (fun x => { x with wait := none, ctx := x.ctx.advance len })
/-- A scalar instruction completes with a jump: PC := target (R93, R94). -/
def State.jump (s : State) (h : Nat) (target : BitVec 56) : State :=
  (s.count h 2 1).modHart h (fun x => { x with wait := none, ctx := { x.ctx with pc := target } })
/-- A scalar instruction writes rd and completes. -/
def State.finishRd (s : State) (h d : Nat) (v : Word) : State := (s.setS64 h d v).finish h 4
/-- Waits of an instruction that has yet to begin: for a scalar register, for a full queue, for its fetch. -/
def Wait.early : Wait → Bool
  | .scalarReg => true
  | .queueFull => true
  | .access => true
  | _ => false

/-- The begin record of a scalar instruction that may wait: once, at its first execution (R333). -/
def State.beginScalar (s : State) (h : Nat) : State :=
  if (s.hart h).wait.any (fun w => !w.early) then s else s.trace h 1 0 0 0 (s.ctx h).pc.toNat ptrNone
/-- A scalar instruction that may wait completes, with its end record (R333). -/
def State.endScalar (s : State) (h : Nat) : State :=
  (s.trace h 2 0 0 0 (s.ctx h).pc.toNat ptrNone).finish h 4

/-- The handler entry of the task on a hart; 0 when it has none (R104). -/
def State.handlerOf (s : State) (h : Nat) : Nat := ((s.launchOf h).map (·.par.handler)).getD 0

/-- Entering the handler (R104), after the drain: the saved values, the window, the program counter. A trap in a nest's
body suspends the nest (R98). -/
def Ctx.enterHandler (c : Ctx) (cause : Nat) (val : Word) (prefixed : Bool) (handler : Nat) : Ctx :=
  let ia := c.pc
  let ret := if cause = 3 || cause = 4 then ia + 4 else ia
  let c := { c with swb := c.swb + 3, nest := c.nest.map (fun (n : Nest) => { n with suspended := true }) }
  let c := c.setS 32 (ret.setWidth 64)
  let c := c.setS 33 (w64 (cause + if prefixed then 65536 else 0))
  let c := c.setS 34 val
  let c := c.setS 35 (ia.setWidth 64)
  { c with pc := BitVec.ofNat 56 handler }

/-- TAKING AN EXCEPTION: TrapEntry of R104 with the drain of R63. While earlier vector instructions are in the queue, or a load
is in flight, the hart waits, with the program counter at the trapping instruction. -/
def State.takeTrap (s : State) (h cause : Nat) (val : Word) (prefixed : Bool) : State :=
  if !(s.ctx h).vq.isEmpty || (s.hart h).load.isSome then
    s.modHart h (fun x => { x with wait := some (.trap cause val prefixed) })
  else
    let handler := s.handlerOf h
    let pc := (s.ctx h).pc.toNat
    if handler = 0 || (s.ctx h).swb > 11 then
      (s.modCtx h (fun c => { c with trapLen := if prefixed then 8 else 4 })).freezeHart h 0x2C 0 0 pc
    else
      let s := s.trace h 4 0 0 cause pc ptrNone
      s.modHart h (fun x => { x with wait := none, ctx := x.ctx.enterHandler cause val prefixed handler })

/-- RETURNING FROM AN EXCEPTION: Tret of R106, with the nest rule of R98. -/
def State.returnTrap (s : State) (h : Nat) : State :=
  let c := s.ctx h
  let t := c.getS 32
  if c.swb < 3 then s.takeTrap h 5 (BitVec.ofInt 64 (-3)) false
  else if t.toNat % 4 ≠ 0 then s.takeTrap h 2 t false
  else
    let pc : BitVec 56 := t.setWidth 56
    let nest := c.nest.bind (fun (n : Nest) =>
      if n.start + 4 ≤ pc.toNat && pc.toNat < n.start + 4 + 4 * n.body.length then some { n with suspended := false }
      else none)
    (s.count h 2 1).modHart h (fun x => { x with
      wait := none
      ctx := { x.ctx with swb := c.swb - 3, pc := pc, nest := if c.nest.any (·.suspended) then nest else c.nest } })

/-- The scalar unit of a hart waits at its instruction. -/
def State.waitOn (s : State) (h : Nat) (w : Wait) : State := s.modHart h (fun x => { x with wait := some w })

end Sys2Proof.Machine
end

