-- ==== Sys2Proof/Machine/Registers.lean ====
section
/-! DEFINITION. Reads of the package register space (R312): identity (R327), scheduler (R295), fault buffer (R283), interrupts
(R316), links and requesters (R314), power (R322, R323), reliability (R324, R325), debug and trace (R329). No
read has a side effect. -/

namespace Sys2Proof.Machine

/-- BSTS (R327). -/
def Boot.bsts (b : Boot) : Nat := b2n b.done * 2 ^ 8 + b.step * 2 ^ 4 + b.fail
/-- RPTCTL (R327). -/
def Boot.rptctl (b : Boot) : Nat := b2n b.rptErr * 4 + b2n b.rptDone * 2 + b2n b.rptGo
/-- FBCTL (R283). -/
def FaultBuf.ctl (f : FaultBuf) : Nat := b2n f.on * 4 + b2n f.ovie * 2 + b2n f.pie
/-- FBOVF (R283). -/
def FaultBuf.ovfWord (f : FaultBuf) : Nat := b2n (!f.held.isEmpty) * 2 ^ 63 + f.ovf

/-- Bytes of the identity keys: IDRSA big-endian, then IDSLH (R327). -/
def identityByte (k : Nat) : Nat :=
  if k < 384 then Config.rsaModulus.toNat / 256 ^ (383 - k) % 256 else Config.slhKey.toNat / 256 ^ (k - 384) % 256

/-- A word of the identity block (R327). -/
def State.readIdentity (s : State) (o : Nat) : Nat :=
  let b := s.boot
  if o = 0 then b.bsts
  else if o = 0x08 then b.fwver.toNat
  else if o = 0x10 then b.cfgver.toNat
  else if 0x20 ≤ o && o < 0x40 then (b.nonce.getD ((o - 0x20) / 8) 0).toNat
  else if o = 0x40 then b.rptAddr
  else if o = 0x48 then b.rptctl
  else if 0x100 ≤ o && o < 0x2B0 then
    (List.range 8).foldl (fun a i => a + identityByte (o - 0x100 + i) * 256 ^ i) 0
  else 0

/-- A word of the scheduler block (R295). -/
def State.readSched (s : State) (o : Nat) : Nat :=
  match o with
  | 0x00 => s.sched.wqtBase
  | 0x10 => s.sched.frBase + s.sched.nfr
  | 0x18 => s.sched.ciwin
  | _ => 0

/-- A word of the fault-buffer block (R283). -/
def State.readFault (s : State) (o : Nat) : Nat :=
  match o with
  | 0x00 => s.fb.base + s.fb.sz
  | 0x08 => s.fb.ctl
  | 0x10 => s.fb.head
  | 0x18 => s.fb.tail
  | 0x20 => s.fb.ack
  | 0x28 => s.fb.ovfWord
  | _ => 0

/-- A word of the interrupt block (R316). -/
def State.readIrq (s : State) (o : Nat) : Nat :=
  match o with
  | 0x00 => s.irq.evtBase
  | 0x08 => s.irq.cmpBase
  | _ => 0

/-- A word of the links and requesters block (R314). -/
def State.readLinks (s : State) (o : Nat) : Nat :=
  match o with
  | 0x00 => s.port.up
  | 0x08 => s.port.dom
  | 0x10 => s.port.rqBase
  | _ => 0

/-- A word of the power block (R322, R323). -/
def State.readPower (s : State) (o : Nat) : Nat :=
  match o with
  | 0x00 => s.power.lpol
  | 0x08 => s.power.slpdly
  | 0x10 => s.power.pcap
  | _ => 0

/-- A word of the reliability block, the debug words among them (R324, R325, R329). (DESIGN CHOICE, log entry 32) -/
def State.readRas (s : State) (o : Nat) : Nat :=
  if o = 0x00 then s.ras.raswin
  else if o = 0x08 then s.ras.rasthr
  else if o = 0x10 then s.ras.raslog
  else if o = 0x18 then s.ras.tstreq
  else if o = 0x1000 then s.dbg.trBase + s.dbg.trSz
  else if o = 0x1008 then s.dbg.trLh * 2 ^ 32 + b2n s.dbg.trOn
  else if o = 0x1010 then s.dbg.trHead
  else if o = 0x1018 then s.dbg.trTail
  else if o = 0x1020 then s.dbg.trLost
  else if 0x1100 ≤ o && o < 0x1140 then
    let w := s.dbg.watch.getD ((o - 0x1100) / 16) (0, 0)
    (if o % 16 = 0 then w.1 else w.2).toNat
  else if o = 0x1208 then s.dbg.dbgBuf
  else if 0x2000 ≤ o && o < 0x2400 then
    let n := (o - 0x2000) / 16
    (if o % 16 = 0 then sget s.dbg.ctrCtl 0 n else sget s.dbg.ctrs 0 n).toNat
  else 0

/-- Read the register-space word at an offset; an unassigned one reads 0 (R312). -/
def State.regRead (s : State) (off : Nat) : Nat :=
  let o := off % 2 ^ 16
  if off % 8 ≠ 0 then 0
  else match off / 2 ^ 16 with
    | 0 => s.readIdentity o
    | 1 => s.readSched o
    | 2 => s.readFault o
    | 3 => s.readIrq o
    | 4 => s.readLinks o
    | 5 => s.readPower o
    | 6 => s.readRas o
    | _ => 0

end Sys2Proof.Machine
end

