-- ==== Sys2Proof/WellFormed.lean ====
section
/-! DEFINITION. The well-formed instructions: those whose word, or word pair, is an instruction by
the static checks of R82. -/

namespace Sys2Proof

/-- An instruction that some legal word, or pair of words, spells (R82). -/
def Instr.wellFormed (i : Instr) : Bool := Machine.legalWord i

end Sys2Proof
end

