-- ==== Sys2Proof/Decode.lean ====
section
/-! DEFINITION. Decoding of words, word pairs and bytes (R72 to R82), and the encoder. -/

namespace Sys2Proof.Machine

/-- The n bits of a word from bit lo up. -/
def fld (w : BitVec 32) (lo n : Nat) : BitVec n := BitVec.ofNat n (w.toNat / 2 ^ lo)

/-- Do the n bits of a word from bit lo up hold v. -/
def tst (w : BitVec 32) (lo n v : Nat) : Bool := w.toNat / 2 ^ lo % 2 ^ n == v

/-- A field placed at bit lo of a word. -/
def seg {n : Nat} (x : BitVec n) (lo : Nat) : Nat := x.toNat * 2 ^ lo

/-- The major opcode of a word (R72). -/
def majorOf (w : BitVec 32) : Nat := w.toNat % 128

/-- The fields of a P word (R75). -/
def pfxFields (w : BitVec 32) : Pfx :=
  { tx := fld w 28 4, sat := fld w 27 1, rs3 := fld w 20 7, xmod := fld w 16 4, rm := fld w 13 3,
    dt := fld w 12 1, pol := fld w 11 1, m := fld w 7 4 }

/-- The P word of given fields (R75). -/
def pfxWord (p : Pfx) : BitVec 32 :=
  BitVec.ofNat 32 (seg p.tx 28 + seg p.sat 27 + seg p.rs3 20 + seg p.xmod 16 + seg p.rm 13 +
    seg p.dt 12 + seg p.pol 11 + seg p.m 7 + 124)


/-- Words of major 0x01: ADD, SUB, AND, OR, XOR, ANDN, SLL, SRL, SRA, SLT, SLTU, MIN, MAX, MINU, MAXU, SEL. -/
def dec01 (w : BitVec 32) : Option Instr :=
  if tst w 28 4 0 then some (.add (fld w 7 7) (fld w 14 7) (fld w 21 7))
  else if tst w 28 4 1 then some (.sub (fld w 7 7) (fld w 14 7) (fld w 21 7))
  else if tst w 28 4 2 then some (.and (fld w 7 7) (fld w 14 7) (fld w 21 7))
  else if tst w 28 4 3 then some (.or (fld w 7 7) (fld w 14 7) (fld w 21 7))
  else if tst w 28 4 4 then some (.xor (fld w 7 7) (fld w 14 7) (fld w 21 7))
  else if tst w 28 4 5 then some (.andn (fld w 7 7) (fld w 14 7) (fld w 21 7))
  else if tst w 28 4 6 then some (.sll (fld w 7 7) (fld w 14 7) (fld w 21 7))
  else if tst w 28 4 7 then some (.srl (fld w 7 7) (fld w 14 7) (fld w 21 7))
  else if tst w 28 4 8 then some (.sra (fld w 7 7) (fld w 14 7) (fld w 21 7))
  else if tst w 28 4 9 then some (.slt (fld w 7 7) (fld w 14 7) (fld w 21 7))
  else if tst w 28 4 10 then some (.sltu (fld w 7 7) (fld w 14 7) (fld w 21 7))
  else if tst w 28 4 11 then some (.min (fld w 7 7) (fld w 14 7) (fld w 21 7))
  else if tst w 28 4 12 then some (.max (fld w 7 7) (fld w 14 7) (fld w 21 7))
  else if tst w 28 4 13 then some (.minu (fld w 7 7) (fld w 14 7) (fld w 21 7))
  else if tst w 28 4 14 then some (.maxu (fld w 7 7) (fld w 14 7) (fld w 21 7))
  else if tst w 28 4 15 then some (.sel (fld w 7 7) (fld w 14 7) (fld w 21 7))
  else none

/-- Words of major 0x02: CLZ, CTZ, POPC, MUL, MULH, MULHU, DIV, DIVU, REM, REMU. -/
def dec02 (w : BitVec 32) : Option Instr :=
  if tst w 28 4 7 && tst w 21 7 0 then some (.clz (fld w 7 7) (fld w 14 7))
  else if tst w 28 4 8 && tst w 21 7 0 then some (.ctz (fld w 7 7) (fld w 14 7))
  else if tst w 28 4 9 && tst w 21 7 0 then some (.popc (fld w 7 7) (fld w 14 7))
  else if tst w 28 4 0 then some (.mul (fld w 7 7) (fld w 14 7) (fld w 21 7))
  else if tst w 28 4 1 then some (.mulh (fld w 7 7) (fld w 14 7) (fld w 21 7))
  else if tst w 28 4 2 then some (.mulhu (fld w 7 7) (fld w 14 7) (fld w 21 7))
  else if tst w 28 4 3 then some (.div (fld w 7 7) (fld w 14 7) (fld w 21 7))
  else if tst w 28 4 4 then some (.divu (fld w 7 7) (fld w 14 7) (fld w 21 7))
  else if tst w 28 4 5 then some (.rem (fld w 7 7) (fld w 14 7) (fld w 21 7))
  else if tst w 28 4 6 then some (.remu (fld w 7 7) (fld w 14 7) (fld w 21 7))
  else none

/-- Words of major 0x03: ADDI. -/
def dec03 (w : BitVec 32) : Option Instr :=
  some (.addi (fld w 7 7) (fld w 14 7) (fld w 21 11))

/-- Words of major 0x04: ANDI. -/
def dec04 (w : BitVec 32) : Option Instr :=
  some (.andi (fld w 7 7) (fld w 14 7) (fld w 21 11))

/-- Words of major 0x05: ORI. -/
def dec05 (w : BitVec 32) : Option Instr :=
  some (.ori (fld w 7 7) (fld w 14 7) (fld w 21 11))

/-- Words of major 0x06: XORI. -/
def dec06 (w : BitVec 32) : Option Instr :=
  some (.xori (fld w 7 7) (fld w 14 7) (fld w 21 11))

/-- Words of major 0x07: SLTI. -/
def dec07 (w : BitVec 32) : Option Instr :=
  some (.slti (fld w 7 7) (fld w 14 7) (fld w 21 11))

/-- Words of major 0x08: SLTIU. -/
def dec08 (w : BitVec 32) : Option Instr :=
  some (.sltiu (fld w 7 7) (fld w 14 7) (fld w 21 11))

/-- Words of major 0x09: SLLI. -/
def dec09 (w : BitVec 32) : Option Instr :=
  if tst w 28 4 0 && tst w 27 1 0 then some (.slli (fld w 7 7) (fld w 14 7) (fld w 21 6))
  else none

/-- Words of major 0x0A: SRLI. -/
def dec0A (w : BitVec 32) : Option Instr :=
  if tst w 28 4 0 && tst w 27 1 0 then some (.srli (fld w 7 7) (fld w 14 7) (fld w 21 6))
  else none

/-- Words of major 0x0B: SRAI. -/
def dec0B (w : BitVec 32) : Option Instr :=
  if tst w 28 4 0 && tst w 27 1 0 then some (.srai (fld w 7 7) (fld w 14 7) (fld w 21 6))
  else none

/-- Words of major 0x0C: LIH. -/
def dec0C (w : BitVec 32) : Option Instr :=
  some (.lih (fld w 7 7) (fld w 14 18))

/-- Words of major 0x0D: ADDPC. -/
def dec0D (w : BitVec 32) : Option Instr :=
  some (.addpc (fld w 7 7) (fld w 14 18))

/-- Words of major 0x0E: LB. -/
def dec0E (w : BitVec 32) : Option Instr :=
  some (.lb (fld w 7 7) (fld w 14 7) (fld w 21 11))

/-- Words of major 0x0F: LBU. -/
def dec0F (w : BitVec 32) : Option Instr :=
  some (.lbu (fld w 7 7) (fld w 14 7) (fld w 21 11))

/-- Words of major 0x10: LH. -/
def dec10 (w : BitVec 32) : Option Instr :=
  some (.lh (fld w 7 7) (fld w 14 7) (fld w 21 11))

/-- Words of major 0x11: LHU. -/
def dec11 (w : BitVec 32) : Option Instr :=
  some (.lhu (fld w 7 7) (fld w 14 7) (fld w 21 11))

/-- Words of major 0x12: LW. -/
def dec12 (w : BitVec 32) : Option Instr :=
  some (.lw (fld w 7 7) (fld w 14 7) (fld w 21 11))

/-- Words of major 0x13: LWU. -/
def dec13 (w : BitVec 32) : Option Instr :=
  some (.lwu (fld w 7 7) (fld w 14 7) (fld w 21 11))

/-- Words of major 0x14: LD. -/
def dec14 (w : BitVec 32) : Option Instr :=
  some (.ld (fld w 7 7) (fld w 14 7) (fld w 21 11))

/-- Words of major 0x15: SB. -/
def dec15 (w : BitVec 32) : Option Instr :=
  some (.sb (fld w 7 7) (fld w 14 7) (fld w 21 11))

/-- Words of major 0x16: SH. -/
def dec16 (w : BitVec 32) : Option Instr :=
  some (.sh (fld w 7 7) (fld w 14 7) (fld w 21 11))

/-- Words of major 0x17: SW. -/
def dec17 (w : BitVec 32) : Option Instr :=
  some (.sw (fld w 7 7) (fld w 14 7) (fld w 21 11))

/-- Words of major 0x18: SD. -/
def dec18 (w : BitVec 32) : Option Instr :=
  some (.sd (fld w 7 7) (fld w 14 7) (fld w 21 11))

/-- Words of major 0x19: BEQ. -/
def dec19 (w : BitVec 32) : Option Instr :=
  some (.beq (fld w 7 7) (fld w 14 7) (fld w 21 11))

/-- Words of major 0x1A: BNE. -/
def dec1A (w : BitVec 32) : Option Instr :=
  some (.bne (fld w 7 7) (fld w 14 7) (fld w 21 11))

/-- Words of major 0x1B: BLT. -/
def dec1B (w : BitVec 32) : Option Instr :=
  some (.blt (fld w 7 7) (fld w 14 7) (fld w 21 11))

/-- Words of major 0x1C: BGE. -/
def dec1C (w : BitVec 32) : Option Instr :=
  some (.bge (fld w 7 7) (fld w 14 7) (fld w 21 11))

/-- Words of major 0x1D: BLTU. -/
def dec1D (w : BitVec 32) : Option Instr :=
  some (.bltu (fld w 7 7) (fld w 14 7) (fld w 21 11))

/-- Words of major 0x1E: BGEU. -/
def dec1E (w : BitVec 32) : Option Instr :=
  some (.bgeu (fld w 7 7) (fld w 14 7) (fld w 21 11))

/-- Words of major 0x20: FSQRT_F32, FCLASS_F32, FADD_F32, FSUB_F32, FMUL_F32, FDIV_F32, FMIN_F32, FMAX_F32, FMA_F32, FCMP_EQ_F32, FCMP_LT_F32, FCMP_LE_F32, FCMP_UN_F32. -/
def dec20 (w : BitVec 32) : Option Instr :=
  if tst w 28 4 4 && tst w 21 7 0 then some (.fsqrtF32 (fld w 7 7) (fld w 14 7))
  else if tst w 28 4 12 && tst w 21 7 0 then some (.fclassF32 (fld w 7 7) (fld w 14 7))
  else if tst w 28 4 0 then some (.faddF32 (fld w 7 7) (fld w 14 7) (fld w 21 7))
  else if tst w 28 4 1 then some (.fsubF32 (fld w 7 7) (fld w 14 7) (fld w 21 7))
  else if tst w 28 4 2 then some (.fmulF32 (fld w 7 7) (fld w 14 7) (fld w 21 7))
  else if tst w 28 4 3 then some (.fdivF32 (fld w 7 7) (fld w 14 7) (fld w 21 7))
  else if tst w 28 4 5 then some (.fminF32 (fld w 7 7) (fld w 14 7) (fld w 21 7))
  else if tst w 28 4 6 then some (.fmaxF32 (fld w 7 7) (fld w 14 7) (fld w 21 7))
  else if tst w 28 4 7 then some (.fmaF32 (fld w 7 7) (fld w 14 7) (fld w 21 7))
  else if tst w 28 4 8 then some (.fcmpEqF32 (fld w 7 7) (fld w 14 7) (fld w 21 7))
  else if tst w 28 4 9 then some (.fcmpLtF32 (fld w 7 7) (fld w 14 7) (fld w 21 7))
  else if tst w 28 4 10 then some (.fcmpLeF32 (fld w 7 7) (fld w 14 7) (fld w 21 7))
  else if tst w 28 4 11 then some (.fcmpUnF32 (fld w 7 7) (fld w 14 7) (fld w 21 7))
  else none

/-- Words of major 0x21: FSQRT_F64, FCLASS_F64, FADD_F64, FSUB_F64, FMUL_F64, FDIV_F64, FMIN_F64, FMAX_F64, FMA_F64, FCMP_EQ_F64, FCMP_LT_F64, FCMP_LE_F64, FCMP_UN_F64. -/
def dec21 (w : BitVec 32) : Option Instr :=
  if tst w 28 4 4 && tst w 21 7 0 then some (.fsqrtF64 (fld w 7 7) (fld w 14 7))
  else if tst w 28 4 12 && tst w 21 7 0 then some (.fclassF64 (fld w 7 7) (fld w 14 7))
  else if tst w 28 4 0 then some (.faddF64 (fld w 7 7) (fld w 14 7) (fld w 21 7))
  else if tst w 28 4 1 then some (.fsubF64 (fld w 7 7) (fld w 14 7) (fld w 21 7))
  else if tst w 28 4 2 then some (.fmulF64 (fld w 7 7) (fld w 14 7) (fld w 21 7))
  else if tst w 28 4 3 then some (.fdivF64 (fld w 7 7) (fld w 14 7) (fld w 21 7))
  else if tst w 28 4 5 then some (.fminF64 (fld w 7 7) (fld w 14 7) (fld w 21 7))
  else if tst w 28 4 6 then some (.fmaxF64 (fld w 7 7) (fld w 14 7) (fld w 21 7))
  else if tst w 28 4 7 then some (.fmaF64 (fld w 7 7) (fld w 14 7) (fld w 21 7))
  else if tst w 28 4 8 then some (.fcmpEqF64 (fld w 7 7) (fld w 14 7) (fld w 21 7))
  else if tst w 28 4 9 then some (.fcmpLtF64 (fld w 7 7) (fld w 14 7) (fld w 21 7))
  else if tst w 28 4 10 then some (.fcmpLeF64 (fld w 7 7) (fld w 14 7) (fld w 21 7))
  else if tst w 28 4 11 then some (.fcmpUnF64 (fld w 7 7) (fld w 14 7) (fld w 21 7))
  else none

/-- Words of major 0x22: FCVT. -/
def dec22 (w : BitVec 32) : Option Instr :=
  if tst w 25 3 0 then some (.fcvt (fld w 7 7) (fld w 14 7) (fld w 21 4) (fld w 28 4))
  else none

/-- Words of major 0x30: JAL. -/
def dec30 (w : BitVec 32) : Option Instr :=
  some (.jal (fld w 7 7) (fld w 14 18))

/-- Words of major 0x31: JALR. -/
def dec31 (w : BitVec 32) : Option Instr :=
  some (.jalr (fld w 7 7) (fld w 14 7) (fld w 21 11))

/-- Words of major 0x32: NEST. -/
def dec32 (w : BitVec 32) : Option Instr :=
  if tst w 28 4 0 && tst w 26 2 0 && tst w 7 7 0 then some (.nest (fld w 14 7) (fld w 21 5))
  else none

/-- Words of major 0x33: WIN. -/
def dec33 (w : BitVec 32) : Option Instr :=
  if tst w 29 3 0 && tst w 7 14 0 then some (.win (fld w 21 4) (fld w 25 4))
  else none

/-- Words of major 0x34: QPUSH, QPOP, QCNT, QLINK. -/
def dec34 (w : BitVec 32) : Option Instr :=
  if tst w 28 4 0 && tst w 7 7 0 then some (.qpush (fld w 14 7) (fld w 21 7))
  else if tst w 28 4 1 && tst w 14 7 0 then some (.qpop (fld w 7 7) (fld w 21 7))
  else if tst w 28 4 2 && tst w 14 7 0 then some (.qcnt (fld w 7 7) (fld w 21 7))
  else if tst w 28 4 3 && tst w 21 7 0 then some (.qlink (fld w 7 7) (fld w 14 7))
  else none

/-- Words of major 0x35: TRET, YIELD, EXIT, TRAP, BRK, CLEAN, CDROP, TLBINV. -/
def dec35 (w : BitVec 32) : Option Instr :=
  if tst w 28 4 2 && tst w 7 21 0 then some .tret
  else if tst w 28 4 3 && tst w 7 21 0 then some .yield
  else if tst w 28 4 4 && tst w 7 21 0 then some .exit
  else if tst w 28 4 0 && tst w 7 7 0 then some (.trap (fld w 14 14))
  else if tst w 28 4 1 && tst w 7 7 0 then some (.brk (fld w 14 14))
  else if tst w 28 4 5 && tst w 7 7 0 then some (.clean (fld w 14 7) (fld w 21 7))
  else if tst w 28 4 6 && tst w 7 7 0 then some (.cdrop (fld w 14 7) (fld w 21 7))
  else if tst w 28 4 7 && tst w 7 7 0 then some (.tlbinv (fld w 14 7) (fld w 21 7))
  else none

/-- Words of major 0x36: SRR. -/
def dec36 (w : BitVec 32) : Option Instr :=
  if tst w 14 7 0 then some (.srr (fld w 7 7) (fld w 21 11))
  else none

/-- Words of major 0x37: SRW_FFLAGS, SRW_FCTL, SRW_FEXCA, SRW_FEXCB, SRW_FPROGA, SRW_FPROGB, SRW_FSTAT, SRW_MCTL, SRW_LMAP. -/
def dec37 (w : BitVec 32) : Option Instr :=
  if tst w 28 4 0 && tst w 21 7 16 && tst w 7 7 0 then some (.srwFflags (fld w 14 7))
  else if tst w 28 4 0 && tst w 21 7 17 && tst w 7 7 0 then some (.srwFctl (fld w 14 7))
  else if tst w 28 4 0 && tst w 21 7 18 && tst w 7 7 0 then some (.srwFexca (fld w 14 7))
  else if tst w 28 4 0 && tst w 21 7 19 && tst w 7 7 0 then some (.srwFexcb (fld w 14 7))
  else if tst w 28 4 0 && tst w 21 7 20 && tst w 7 7 0 then some (.srwFproga (fld w 14 7))
  else if tst w 28 4 0 && tst w 21 7 21 && tst w 7 7 0 then some (.srwFprogb (fld w 14 7))
  else if tst w 28 4 0 && tst w 21 7 22 && tst w 7 7 0 then some (.srwFstat (fld w 14 7))
  else if tst w 28 4 0 && tst w 21 7 32 && tst w 7 7 0 then some (.srwMctl (fld w 14 7))
  else if tst w 28 4 0 && tst w 21 7 65 && tst w 7 7 0 then some (.srwLmap (fld w 14 7))
  else none

/-- Words of major 0x40: VADD, VSUB, VAND, VOR, VXOR, VMIN, VMAX, VSADD, VSSUB. -/
def dec40 (px : Option Pfx) (w : BitVec 32) : Option Instr :=
  if tst w 28 4 0 then some (.vadd (fld w 7 7) (fld w 14 7) (fld w 21 7) px)
  else if tst w 28 4 1 then some (.vsub (fld w 7 7) (fld w 14 7) (fld w 21 7) px)
  else if tst w 28 4 2 then some (.vand (fld w 7 7) (fld w 14 7) (fld w 21 7) px)
  else if tst w 28 4 3 then some (.vor (fld w 7 7) (fld w 14 7) (fld w 21 7) px)
  else if tst w 28 4 4 then some (.vxor (fld w 7 7) (fld w 14 7) (fld w 21 7) px)
  else if tst w 28 4 5 then some (.vmin (fld w 7 7) (fld w 14 7) (fld w 21 7) px)
  else if tst w 28 4 6 then some (.vmax (fld w 7 7) (fld w 14 7) (fld w 21 7) px)
  else if tst w 28 4 7 then some (.vsadd (fld w 7 7) (fld w 14 7) (fld w 21 7) px)
  else if tst w 28 4 8 then some (.vssub (fld w 7 7) (fld w 14 7) (fld w 21 7) px)
  else none

/-- Words of major 0x41: VADD_SCALAR, VSUB_SCALAR, VAND_SCALAR, VOR_SCALAR, VXOR_SCALAR, VMIN_SCALAR, VMAX_SCALAR, VSADD_SCALAR, VSSUB_SCALAR. -/
def dec41 (px : Option Pfx) (w : BitVec 32) : Option Instr :=
  if tst w 28 4 0 then some (.vaddScalar (fld w 7 7) (fld w 14 7) (fld w 21 7) px)
  else if tst w 28 4 1 then some (.vsubScalar (fld w 7 7) (fld w 14 7) (fld w 21 7) px)
  else if tst w 28 4 2 then some (.vandScalar (fld w 7 7) (fld w 14 7) (fld w 21 7) px)
  else if tst w 28 4 3 then some (.vorScalar (fld w 7 7) (fld w 14 7) (fld w 21 7) px)
  else if tst w 28 4 4 then some (.vxorScalar (fld w 7 7) (fld w 14 7) (fld w 21 7) px)
  else if tst w 28 4 5 then some (.vminScalar (fld w 7 7) (fld w 14 7) (fld w 21 7) px)
  else if tst w 28 4 6 then some (.vmaxScalar (fld w 7 7) (fld w 14 7) (fld w 21 7) px)
  else if tst w 28 4 7 then some (.vsaddScalar (fld w 7 7) (fld w 14 7) (fld w 21 7) px)
  else if tst w 28 4 8 then some (.vssubScalar (fld w 7 7) (fld w 14 7) (fld w 21 7) px)
  else none

/-- Words of major 0x42: VCLZ, VPOPC, VMUL, VMULH, VMACC, VSLL, VSRL, VSRA. -/
def dec42 (px : Option Pfx) (w : BitVec 32) : Option Instr :=
  if tst w 28 4 6 && tst w 21 7 0 then some (.vclz (fld w 7 7) (fld w 14 7) px)
  else if tst w 28 4 7 && tst w 21 7 0 then some (.vpopc (fld w 7 7) (fld w 14 7) px)
  else if tst w 28 4 0 then some (.vmul (fld w 7 7) (fld w 14 7) (fld w 21 7) px)
  else if tst w 28 4 1 then some (.vmulh (fld w 7 7) (fld w 14 7) (fld w 21 7) px)
  else if tst w 28 4 2 then some (.vmacc (fld w 7 7) (fld w 14 7) (fld w 21 7) px)
  else if tst w 28 4 3 then some (.vsll (fld w 7 7) (fld w 14 7) (fld w 21 7) px)
  else if tst w 28 4 4 then some (.vsrl (fld w 7 7) (fld w 14 7) (fld w 21 7) px)
  else if tst w 28 4 5 then some (.vsra (fld w 7 7) (fld w 14 7) (fld w 21 7) px)
  else none

/-- Words of major 0x43: VMUL_SCALAR, VMULH_SCALAR, VMACC_SCALAR, VSLL_SCALAR, VSRL_SCALAR, VSRA_SCALAR. -/
def dec43 (px : Option Pfx) (w : BitVec 32) : Option Instr :=
  if tst w 28 4 0 then some (.vmulScalar (fld w 7 7) (fld w 14 7) (fld w 21 7) px)
  else if tst w 28 4 1 then some (.vmulhScalar (fld w 7 7) (fld w 14 7) (fld w 21 7) px)
  else if tst w 28 4 2 then some (.vmaccScalar (fld w 7 7) (fld w 14 7) (fld w 21 7) px)
  else if tst w 28 4 3 then some (.vsllScalar (fld w 7 7) (fld w 14 7) (fld w 21 7) px)
  else if tst w 28 4 4 then some (.vsrlScalar (fld w 7 7) (fld w 14 7) (fld w 21 7) px)
  else if tst w 28 4 5 then some (.vsraScalar (fld w 7 7) (fld w 14 7) (fld w 21 7) px)
  else none

/-- Words of major 0x44: VFSQRT, VFCLASS, VFADD, VFSUB, VFMUL, VFMA, VFNMA, VFDIV, VFMIN, VFMAX. -/
def dec44 (px : Option Pfx) (w : BitVec 32) : Option Instr :=
  if tst w 28 4 6 && tst w 21 7 0 then some (.vfsqrt (fld w 7 7) (fld w 14 7) px)
  else if tst w 28 4 9 && tst w 21 7 0 then some (.vfclass (fld w 7 7) (fld w 14 7) px)
  else if tst w 28 4 0 then some (.vfadd (fld w 7 7) (fld w 14 7) (fld w 21 7) px)
  else if tst w 28 4 1 then some (.vfsub (fld w 7 7) (fld w 14 7) (fld w 21 7) px)
  else if tst w 28 4 2 then some (.vfmul (fld w 7 7) (fld w 14 7) (fld w 21 7) px)
  else if tst w 28 4 3 then some (.vfma (fld w 7 7) (fld w 14 7) (fld w 21 7) px)
  else if tst w 28 4 4 then some (.vfnma (fld w 7 7) (fld w 14 7) (fld w 21 7) px)
  else if tst w 28 4 5 then some (.vfdiv (fld w 7 7) (fld w 14 7) (fld w 21 7) px)
  else if tst w 28 4 7 then some (.vfmin (fld w 7 7) (fld w 14 7) (fld w 21 7) px)
  else if tst w 28 4 8 then some (.vfmax (fld w 7 7) (fld w 14 7) (fld w 21 7) px)
  else none

/-- Words of major 0x45: VFADD_SCALAR, VFSUB_SCALAR, VFMUL_SCALAR, VFMA_SCALAR, VFNMA_SCALAR, VFDIV_SCALAR, VFMIN_SCALAR, VFMAX_SCALAR. -/
def dec45 (px : Option Pfx) (w : BitVec 32) : Option Instr :=
  if tst w 28 4 0 then some (.vfaddScalar (fld w 7 7) (fld w 14 7) (fld w 21 7) px)
  else if tst w 28 4 1 then some (.vfsubScalar (fld w 7 7) (fld w 14 7) (fld w 21 7) px)
  else if tst w 28 4 2 then some (.vfmulScalar (fld w 7 7) (fld w 14 7) (fld w 21 7) px)
  else if tst w 28 4 3 then some (.vfmaScalar (fld w 7 7) (fld w 14 7) (fld w 21 7) px)
  else if tst w 28 4 4 then some (.vfnmaScalar (fld w 7 7) (fld w 14 7) (fld w 21 7) px)
  else if tst w 28 4 5 then some (.vfdivScalar (fld w 7 7) (fld w 14 7) (fld w 21 7) px)
  else if tst w 28 4 7 then some (.vfminScalar (fld w 7 7) (fld w 14 7) (fld w 21 7) px)
  else if tst w 28 4 8 then some (.vfmaxScalar (fld w 7 7) (fld w 14 7) (fld w 21 7) px)
  else none

/-- Words of major 0x46: VFCMP_EQ, VFCMP_NE, VFCMP_LT, VFCMP_LE, VFCMP_UN, VCMP. -/
def dec46 (px : Option Pfx) (w : BitVec 32) : Option Instr :=
  if tst w 28 4 8 then some (.vfcmpEq (fld w 7 7) (fld w 14 7) (fld w 21 7) px)
  else if tst w 28 4 9 then some (.vfcmpNe (fld w 7 7) (fld w 14 7) (fld w 21 7) px)
  else if tst w 28 4 10 then some (.vfcmpLt (fld w 7 7) (fld w 14 7) (fld w 21 7) px)
  else if tst w 28 4 11 then some (.vfcmpLe (fld w 7 7) (fld w 14 7) (fld w 21 7) px)
  else if tst w 28 4 12 then some (.vfcmpUn (fld w 7 7) (fld w 14 7) (fld w 21 7) px)
  else some (.vcmp (fld w 7 7) (fld w 14 7) (fld w 21 7) (fld w 28 4) px)

/-- Words of major 0x47: MPOPC, MFIRST, MSET, MAND, MOR, MXOR, MANDN. -/
def dec47 (px : Option Pfx) (w : BitVec 32) : Option Instr :=
  if tst w 28 4 4 && tst w 21 7 0 then some (.mpopc (fld w 7 7) (fld w 14 7) px)
  else if tst w 28 4 5 && tst w 21 7 0 then some (.mfirst (fld w 7 7) (fld w 14 7) px)
  else if tst w 28 4 6 && tst w 21 7 0 then some (.mset (fld w 7 7) (fld w 14 7) px)
  else if tst w 28 4 0 then some (.mand (fld w 7 7) (fld w 14 7) (fld w 21 7) px)
  else if tst w 28 4 1 then some (.mor (fld w 7 7) (fld w 14 7) (fld w 21 7) px)
  else if tst w 28 4 2 then some (.mxor (fld w 7 7) (fld w 14 7) (fld w 21 7) px)
  else if tst w 28 4 3 then some (.mandn (fld w 7 7) (fld w 14 7) (fld w 21 7) px)
  else none

/-- Words of major 0x48: VWIDEN, VCVT, VNARROW. -/
def dec48 (px : Option Pfx) (w : BitVec 32) : Option Instr :=
  if tst w 28 4 1 && tst w 21 7 0 then some (.vwiden (fld w 7 7) (fld w 14 7) px)
  else if tst w 28 4 0 && tst w 25 3 0 then some (.vcvt (fld w 7 7) (fld w 14 7) (fld w 21 4) px)
  else if tst w 28 4 2 then some (.vnarrow (fld w 7 7) (fld w 14 7) (fld w 21 7) px)
  else none

/-- Words of major 0x49: SMAXE, VSCACC, VQUANT, VSCALE. -/
def dec49 (px : Option Pfx) (w : BitVec 32) : Option Instr :=
  if tst w 28 4 1 && tst w 24 4 0 then some (.smaxe (fld w 7 7) (fld w 14 7) (fld w 21 3) px)
  else if tst w 28 4 2 && tst w 27 1 0 then some (.vscacc (fld w 7 7) (fld w 14 7) (fld w 21 3) (fld w 24 3) px)
  else if tst w 28 4 0 then some (.vquant (fld w 7 7) (fld w 14 7) (fld w 21 3) (fld w 24 3) (fld w 27 1) px)
  else if tst w 28 4 3 then some (.vscale (fld w 7 7) (fld w 14 7) (fld w 21 3) (fld w 24 3) (fld w 27 1) px)
  else none

/-- Words of major 0x4A: VREDSUM, VREDMIN, VREDMAX, VFREDSUM, VFREDSUMT, VFREDMAX. -/
def dec4A (px : Option Pfx) (w : BitVec 32) : Option Instr :=
  if tst w 28 4 0 then some (.vredsum (fld w 7 7) (fld w 14 7) (fld w 21 7) px)
  else if tst w 28 4 1 then some (.vredmin (fld w 7 7) (fld w 14 7) (fld w 21 7) px)
  else if tst w 28 4 2 then some (.vredmax (fld w 7 7) (fld w 14 7) (fld w 21 7) px)
  else if tst w 28 4 8 then some (.vfredsum (fld w 7 7) (fld w 14 7) (fld w 21 7) px)
  else if tst w 28 4 9 then some (.vfredsumt (fld w 7 7) (fld w 14 7) (fld w 21 7) px)
  else if tst w 28 4 10 then some (.vfredmax (fld w 7 7) (fld w 14 7) (fld w 21 7) px)
  else none

/-- Words of major 0x4B: VIOTA, VREV, VBCAST, VPERM, VSLIDEUP, VSLIDEDN, VMERGE. -/
def dec4B (px : Option Pfx) (w : BitVec 32) : Option Instr :=
  if tst w 28 4 5 && tst w 14 14 0 then some (.viota (fld w 7 7) px)
  else if tst w 28 4 3 && tst w 21 7 0 then some (.vrev (fld w 7 7) (fld w 14 7) px)
  else if tst w 28 4 4 && tst w 21 7 0 then some (.vbcast (fld w 7 7) (fld w 14 7) px)
  else if tst w 28 4 0 then some (.vperm (fld w 7 7) (fld w 14 7) (fld w 21 7) px)
  else if tst w 28 4 1 then some (.vslideup (fld w 7 7) (fld w 14 7) (fld w 21 7) px)
  else if tst w 28 4 2 then some (.vslidedn (fld w 7 7) (fld w 14 7) (fld w 21 7) px)
  else if tst w 28 4 6 then some (.vmerge (fld w 7 7) (fld w 14 7) (fld w 21 7) px)
  else none

/-- Words of major 0x4C: VCOMPRESS, VEXPAND, VRESHAPE, VEXTRACT, VINSERT. -/
def dec4C (px : Option Pfx) (w : BitVec 32) : Option Instr :=
  if tst w 28 4 1 && tst w 21 7 0 then some (.vcompress (fld w 7 7) (fld w 14 7) px)
  else if tst w 28 4 2 && tst w 21 7 0 then some (.vexpand (fld w 7 7) (fld w 14 7) px)
  else if tst w 28 4 0 then some (.vreshape (fld w 7 7) (fld w 14 7) (fld w 21 7) px)
  else if tst w 28 4 3 then some (.vextract (fld w 7 7) (fld w 14 7) (fld w 21 7) px)
  else if tst w 28 4 4 then some (.vinsert (fld w 7 7) (fld w 14 7) (fld w 21 7) px)
  else none

/-- Words of major 0x4D: VQPOP, VQPUSH. -/
def dec4D (px : Option Pfx) (w : BitVec 32) : Option Instr :=
  if tst w 28 4 0 && tst w 21 7 0 then some (.vqpop (fld w 7 7) (fld w 14 7) px)
  else if tst w 28 4 1 && tst w 21 7 0 then some (.vqpush (fld w 7 7) (fld w 14 7) px)
  else none

/-- Words of major 0x4E: SETVL. -/
def dec4E (px : Option Pfx) (w : BitVec 32) : Option Instr :=
  some (.setvl (fld w 7 7) (fld w 14 7) (fld w 21 7) (fld w 28 4) px)

/-- Words of major 0x4F: SETVLI. -/
def dec4F (px : Option Pfx) (w : BitVec 32) : Option Instr :=
  if tst w 21 5 0 then some (.setvli (fld w 7 7) (fld w 14 7) (fld w 26 2) (fld w 28 4) px)
  else none

/-- Words of major 0x60: VLD. -/
def dec60 (px : Option Pfx) (w : BitVec 32) : Option Instr :=
  some (.vld (fld w 7 7) (fld w 14 7) (fld w 21 11) px)

/-- Words of major 0x61: VLDS. -/
def dec61 (px : Option Pfx) (w : BitVec 32) : Option Instr :=
  if tst w 28 4 0 then some (.vlds (fld w 7 7) (fld w 14 7) (fld w 21 7) px)
  else none

/-- Words of major 0x62: VLDX. -/
def dec62 (px : Option Pfx) (w : BitVec 32) : Option Instr :=
  if tst w 30 2 0 then some (.vldx (fld w 7 7) (fld w 14 7) (fld w 21 7) (fld w 28 2) px)
  else none

/-- Words of major 0x63: VST. -/
def dec63 (px : Option Pfx) (w : BitVec 32) : Option Instr :=
  some (.vst (fld w 7 7) (fld w 14 7) (fld w 21 11) px)

/-- Words of major 0x64: VSTS. -/
def dec64 (px : Option Pfx) (w : BitVec 32) : Option Instr :=
  if tst w 28 4 0 then some (.vsts (fld w 7 7) (fld w 14 7) (fld w 21 7) px)
  else none

/-- Words of major 0x65: VSTX. -/
def dec65 (px : Option Pfx) (w : BitVec 32) : Option Instr :=
  if tst w 30 2 0 then some (.vstx (fld w 7 7) (fld w 14 7) (fld w 21 7) (fld w 28 2) px)
  else none

/-- Words of major 0x66: VLDW. -/
def dec66 (px : Option Pfx) (w : BitVec 32) : Option Instr :=
  if tst w 30 2 0 && tst w 21 7 0 then some (.vldw (fld w 7 7) (fld w 14 7) (fld w 28 2) px)
  else none

/-- Words of major 0x67: VAMO. -/
def dec67 (px : Option Pfx) (w : BitVec 32) : Option Instr :=
  some (.vamo (fld w 7 7) (fld w 14 7) (fld w 21 7) (fld w 28 4) px)

/-- Words of major 0x68: AMOCAS, AMO. -/
def dec68 (w : BitVec 32) : Option Instr :=
  if tst w 21 4 15 then some (.amocas (fld w 7 7) (fld w 14 7) (fld w 25 1) (fld w 26 3) (fld w 29 3))
  else some (.amo (fld w 7 7) (fld w 14 7) (fld w 21 4) (fld w 25 1) (fld w 26 3) (fld w 29 3))

/-- Words of major 0x69: FENCE. -/
def dec69 (w : BitVec 32) : Option Instr :=
  if tst w 28 4 0 && tst w 7 14 0 then some (.fence (fld w 21 3) (fld w 24 2) (fld w 26 2))
  else none

/-- Words of major 0x6A: BAR, WAITGE, WMPUB, WMBIND. -/
def dec6A (w : BitVec 32) : Option Instr :=
  if tst w 28 4 0 && tst w 21 7 0 && tst w 10 4 0 then some (.bar (fld w 7 3) (fld w 14 7))
  else if tst w 28 4 1 && tst w 10 4 0 then some (.waitge (fld w 7 3) (fld w 14 7) (fld w 21 7))
  else if tst w 28 4 2 && tst w 10 4 0 then some (.wmpub (fld w 7 3) (fld w 14 7) (fld w 21 7))
  else if tst w 28 4 3 && tst w 12 2 0 then some (.wmbind (fld w 7 2) (fld w 9 3) (fld w 14 7) (fld w 21 7))
  else none

/-- Words of major 0x6B: LAUNCH. -/
def dec6B (w : BitVec 32) : Option Instr :=
  if tst w 28 4 0 && tst w 21 7 0 then some (.launch (fld w 7 7) (fld w 14 7))
  else none

/-- Words of major 0x6C: CPY, CWP, CWAIT. -/
def dec6C (w : BitVec 32) : Option Instr :=
  if tst w 28 4 0 && tst w 21 7 0 && tst w 10 4 0 then some (.cpy (fld w 7 3) (fld w 14 7))
  else if tst w 28 4 2 && tst w 17 11 0 then some (.cwp (fld w 7 7) (fld w 14 3))
  else if tst w 28 4 1 && tst w 17 4 0 then some (.cwait (fld w 7 7) (fld w 14 3) (fld w 21 7))
  else none

/-- Words of major 0x6D: SCLOSE, SSTR. -/
def dec6D (w : BitVec 32) : Option Instr :=
  if tst w 30 2 1 && tst w 7 21 0 then some (.sclose (fld w 28 2))
  else if tst w 30 2 0 then some (.sstr (fld w 7 7) (fld w 14 7) (fld w 21 7) (fld w 28 2))
  else none

/-- Words of major 0x6E: ISTR, IWAIT. -/
def dec6E (w : BitVec 32) : Option Instr :=
  if tst w 28 4 0 && tst w 21 7 0 && tst w 9 5 0 then some (.istr (fld w 7 2) (fld w 14 7))
  else if tst w 28 4 1 && tst w 16 12 0 then some (.iwait (fld w 7 7) (fld w 14 2))
  else none

/-- Words of major 0x6F: ESEQ, EWAIT, EST, EADD_S32, EADD_F32. -/
def dec6F (w : BitVec 32) : Option Instr :=
  if tst w 28 4 3 && tst w 14 14 0 then some (.eseq (fld w 7 7))
  else if tst w 28 4 4 && tst w 9 5 0 then some (.ewait (fld w 7 2) (fld w 14 7) (fld w 21 7))
  else if tst w 28 4 0 then some (.est (fld w 7 7) (fld w 14 7) (fld w 21 7))
  else if tst w 28 4 1 then some (.eaddS32 (fld w 7 7) (fld w 14 7) (fld w 21 7))
  else if tst w 28 4 2 then some (.eaddF32 (fld w 7 7) (fld w 14 7) (fld w 21 7))
  else none

/-- Words of major 0x70: FST, FLD. -/
def dec70 (px : Option Pfx) (w : BitVec 32) : Option Instr :=
  if tst w 28 4 1 && tst w 21 7 0 then some (.fst (fld w 7 7) (fld w 14 7) px)
  else if tst w 28 4 0 then some (.fld (fld w 7 7) (fld w 14 7) (fld w 21 7) px)
  else none

/-- Words of major 0x71: FWALK. -/
def dec71 (px : Option Pfx) (w : BitVec 32) : Option Instr :=
  if tst w 28 4 0 then some (.fwalk (fld w 7 7) (fld w 14 7) (fld w 21 7) px)
  else none

/-- Words of major 0x72: FSORT. -/
def dec72 (px : Option Pfx) (w : BitVec 32) : Option Instr :=
  if tst w 21 7 0 then some (.fsort (fld w 7 7) (fld w 14 7) (fld w 28 4) px)
  else none

/-- Words of major 0x73: FISECTC, FISECT, FUNION. -/
def dec73 (px : Option Pfx) (w : BitVec 32) : Option Instr :=
  if tst w 28 4 6 then some (.fisectc (fld w 7 7) (fld w 14 7) (fld w 21 7) px)
  else if tst w 31 1 0 then some (.fisect (fld w 7 7) (fld w 14 7) (fld w 21 7) (fld w 28 3) px)
  else if tst w 31 1 1 then some (.funion (fld w 7 7) (fld w 14 7) (fld w 21 7) (fld w 28 3) px)
  else none

/-- Words of major 0x74: FMERGE. -/
def dec74 (px : Option Pfx) (w : BitVec 32) : Option Instr :=
  if tst w 24 4 0 then some (.fmerge (fld w 7 7) (fld w 14 7) (fld w 21 3) (fld w 28 4) px)
  else none

/-- Words of major 0x75: FCOMPACT, FEXPAND, FGATHER, FSLICE, FMAP. -/
def dec75 (px : Option Pfx) (w : BitVec 32) : Option Instr :=
  if tst w 28 4 0 && tst w 21 7 0 then some (.fcompact (fld w 7 7) (fld w 14 7) px)
  else if tst w 28 4 1 then some (.fexpand (fld w 7 7) (fld w 14 7) (fld w 21 7) px)
  else if tst w 28 4 2 then some (.fgather (fld w 7 7) (fld w 14 7) (fld w 21 7) px)
  else if tst w 28 4 3 then some (.fslice (fld w 7 7) (fld w 14 7) (fld w 21 7) px)
  else if tst w 31 1 1 then some (.fmap (fld w 7 7) (fld w 14 7) (fld w 21 7) (fld w 28 3) px)
  else none

/-- Words of major 0x76: FCLR, FCFG, FLENR. -/
def dec76 (px : Option Pfx) (w : BitVec 32) : Option Instr :=
  if tst w 28 4 1 && tst w 14 14 0 then some (.fclr (fld w 7 7) px)
  else if tst w 28 4 0 && tst w 21 7 0 then some (.fcfg (fld w 7 7) (fld w 14 7) px)
  else if tst w 28 4 2 && tst w 21 7 0 then some (.flenr (fld w 7 7) (fld w 14 7) px)
  else none

/-- Words of major 0x78: MTZERO, MTLOAD. -/
def dec78 (px : Option Pfx) (w : BitVec 32) : Option Instr :=
  if tst w 30 2 1 && tst w 7 21 0 then some (.mtzero (fld w 28 2) px)
  else if tst w 30 2 0 then some (.mtload (fld w 7 7) (fld w 14 7) (fld w 21 7) (fld w 28 2) px)
  else none

/-- Words of major 0x79: MROW, MROWG. -/
def dec79 (px : Option Pfx) (w : BitVec 32) : Option Instr :=
  if tst w 30 2 0 then some (.mrow (fld w 7 7) (fld w 14 7) (fld w 21 7) (fld w 28 2) px)
  else if tst w 30 2 1 then some (.mrowg (fld w 7 7) (fld w 14 7) (fld w 21 7) (fld w 28 2) px)
  else none

/-- Words of major 0x7A: MCLR, MDRAIN, MDRAIN_KEEP. -/
noncomputable def dec7A (px : Option Pfx) (w : BitVec 32) : Option Instr :=
  if tst w 28 4 2 && tst w 21 7 0 && tst w 7 7 0 then some (.mclr (fld w 14 7) px)
  else if tst w 28 4 0 && tst w 21 7 0 then some (.mdrain (fld w 7 7) (fld w 14 7) px)
  else if tst w 28 4 1 && tst w 21 7 0 then some (.mdrainKeep (fld w 7 7) (fld w 14 7) px)
  else none

/-- Words of major 0x7B: MSTAT_ROW, MSTAT_SLOT. -/
noncomputable def dec7B (px : Option Pfx) (w : BitVec 32) : Option Instr :=
  if tst w 28 4 0 && tst w 21 7 0 then some (.mstatRow (fld w 7 7) (fld w 14 7) px)
  else if tst w 28 4 1 && tst w 21 7 0 then some (.mstatSlot (fld w 7 7) (fld w 14 7) px)
  else none

/-- The instruction a base word of any major below 0x7A spells, with its P word if any, before the checks of R82 on its fields. -/
def decodeEarly (px : Option Pfx) (w : BitVec 32) : Option Instr :=
  match majorOf w, px with
  | 1, none => dec01 w
  | 2, none => dec02 w
  | 3, none => dec03 w
  | 4, none => dec04 w
  | 5, none => dec05 w
  | 6, none => dec06 w
  | 7, none => dec07 w
  | 8, none => dec08 w
  | 9, none => dec09 w
  | 10, none => dec0A w
  | 11, none => dec0B w
  | 12, none => dec0C w
  | 13, none => dec0D w
  | 14, none => dec0E w
  | 15, none => dec0F w
  | 16, none => dec10 w
  | 17, none => dec11 w
  | 18, none => dec12 w
  | 19, none => dec13 w
  | 20, none => dec14 w
  | 21, none => dec15 w
  | 22, none => dec16 w
  | 23, none => dec17 w
  | 24, none => dec18 w
  | 25, none => dec19 w
  | 26, none => dec1A w
  | 27, none => dec1B w
  | 28, none => dec1C w
  | 29, none => dec1D w
  | 30, none => dec1E w
  | 32, none => dec20 w
  | 33, none => dec21 w
  | 34, none => dec22 w
  | 48, none => dec30 w
  | 49, none => dec31 w
  | 50, none => dec32 w
  | 51, none => dec33 w
  | 52, none => dec34 w
  | 53, none => dec35 w
  | 54, none => dec36 w
  | 55, none => dec37 w
  | 64, px => dec40 px w
  | 65, px => dec41 px w
  | 66, px => dec42 px w
  | 67, px => dec43 px w
  | 68, px => dec44 px w
  | 69, px => dec45 px w
  | 70, px => dec46 px w
  | 71, px => dec47 px w
  | 72, px => dec48 px w
  | 73, px => dec49 px w
  | 74, px => dec4A px w
  | 75, px => dec4B px w
  | 76, px => dec4C px w
  | 77, px => dec4D px w
  | 78, px => dec4E px w
  | 79, px => dec4F px w
  | 96, px => dec60 px w
  | 97, px => dec61 px w
  | 98, px => dec62 px w
  | 99, px => dec63 px w
  | 100, px => dec64 px w
  | 101, px => dec65 px w
  | 102, px => dec66 px w
  | 103, px => dec67 px w
  | 104, none => dec68 w
  | 105, none => dec69 w
  | 106, none => dec6A w
  | 107, none => dec6B w
  | 108, none => dec6C w
  | 109, none => dec6D w
  | 110, none => dec6E w
  | 111, none => dec6F w
  | 112, px => dec70 px w
  | 113, px => dec71 px w
  | 114, px => dec72 px w
  | 115, px => dec73 px w
  | 116, px => dec74 px w
  | 117, px => dec75 px w
  | 118, px => dec76 px w
  | 120, px => dec78 px w
  | 121, px => dec79 px w
  | _, _ => none

/-- The majors of MDRAIN, MCLR and MSTAT. Lean's compiler cannot build a constructor past the 244th, so that their
decoding is kept apart. -/
def isLate (w : BitVec 32) : Bool := majorOf w == 0x7A || majorOf w == 0x7B

/-- The instruction a base word spells, with its P word if any, before the checks of R82 on its fields. -/
noncomputable def decodeBase (px : Option Pfx) (w : BitVec 32) : Option Instr :=
  if majorOf w == 0x7A then dec7A px w
  else if majorOf w == 0x7B then dec7B px w
  else decodeEarly px w

/-- The instruction of a P word (if any) and a base word; none where R82 makes the pair illegal. -/
noncomputable def decodePair (pre : Option (BitVec 32)) (base : BitVec 32) : Option Instr :=
  match decodeBase (pre.map pfxFields) base with
  | some i => if i.wellFormed then some i else none
  | none => none

/-- As decodePair, for words of majors below 0x7A. -/
def decodePairEarly (pre : Option (BitVec 32)) (base : BitVec 32) : Option Instr :=
  match decodeEarly (pre.map pfxFields) base with
  | some i => if i.wellFormed then some i else none
  | none => none

/-- Is a word of major 0x7A or 0x7B an instruction (R243). -/
def lateLegal (pre : Option (BitVec 32)) (w : BitVec 32) : Bool :=
  let px := pre.map pfxFields
  if majorOf w == 0x7A then
    if tst w 28 4 2 then tst w 21 7 0 && tst w 7 7 0 && pfxLegal useNone px
    else (tst w 28 4 0 || tst w 28 4 1) && tst w 21 7 0 && pfxLegal { sat := true } px
  else (tst w 28 4 0 || tst w 28 4 1) && tst w 21 7 0 && pfxLegal useNone px

/-- Is the pair of a P word (if any) and a base word an instruction (R82). -/
def pairLegal (pre : Option (BitVec 32)) (base : BitVec 32) : Bool :=
  if isLate base then lateLegal pre base else (decodePairEarly pre base).isSome

/-- What the bytes at an address hold. -/
inductive Decoded where
  /-- an instruction of len bytes -/
  | instr (i : Instr) (len : Nat)
  /-- a word, or a pair of words, that is no instruction (R82) -/
  | illegal (pre : Option (BitVec 32)) (base : BitVec 32)
  /-- the bytes end before the instruction does -/
  | short
  deriving DecidableEq, Repr

/-- The 32-bit little-endian word of four bytes (R72). -/
def word32 (a b c d : Byte) : BitVec 32 :=
  BitVec.ofNat 32 (a.toNat + 256 * b.toNat + 65536 * c.toNat + 16777216 * d.toNat)

/-- The bytes of a word, lowest address first (R72). -/
def wordBytes (w : BitVec 32) : List Byte := leBytes 4 w.toNat

/-- Is the word a P word (R75). -/
def isPfxWord (w : BitVec 32) : Bool := majorOf w == 124

/-- Decode the bytes at an address: total on every list of bytes. -/
noncomputable def decodeBytes : List Byte → Decoded
  | a :: b :: c :: d :: t =>
    let w := word32 a b c d
    if isPfxWord w then
      match t with
      | a' :: b' :: c' :: d' :: _ =>
        let v := word32 a' b' c' d'
        match decodePair (some w) v with
        | some i => .instr i 8
        | none => .illegal (some w) v
      | _ => .short
    else
      match decodePair none w with
      | some i => .instr i 4
      | none => .illegal none w
  | _ => .short

/-- The base word of an instruction; 0 for the steps of the device, which have none. -/
def encBase : Instr → BitVec 32
  | .add d a b => BitVec.ofNat 32 (seg b 21 + seg a 14 + seg d 7 + 0x1)
  | .sub d a b => BitVec.ofNat 32 (seg b 21 + seg a 14 + seg d 7 + 0x10000001)
  | .and d a b => BitVec.ofNat 32 (seg b 21 + seg a 14 + seg d 7 + 0x20000001)
  | .or d a b => BitVec.ofNat 32 (seg b 21 + seg a 14 + seg d 7 + 0x30000001)
  | .xor d a b => BitVec.ofNat 32 (seg b 21 + seg a 14 + seg d 7 + 0x40000001)
  | .andn d a b => BitVec.ofNat 32 (seg b 21 + seg a 14 + seg d 7 + 0x50000001)
  | .sll d a b => BitVec.ofNat 32 (seg b 21 + seg a 14 + seg d 7 + 0x60000001)
  | .srl d a b => BitVec.ofNat 32 (seg b 21 + seg a 14 + seg d 7 + 0x70000001)
  | .sra d a b => BitVec.ofNat 32 (seg b 21 + seg a 14 + seg d 7 + 0x80000001)
  | .slt d a b => BitVec.ofNat 32 (seg b 21 + seg a 14 + seg d 7 + 0x90000001)
  | .sltu d a b => BitVec.ofNat 32 (seg b 21 + seg a 14 + seg d 7 + 0xA0000001)
  | .min d a b => BitVec.ofNat 32 (seg b 21 + seg a 14 + seg d 7 + 0xB0000001)
  | .max d a b => BitVec.ofNat 32 (seg b 21 + seg a 14 + seg d 7 + 0xC0000001)
  | .minu d a b => BitVec.ofNat 32 (seg b 21 + seg a 14 + seg d 7 + 0xD0000001)
  | .maxu d a b => BitVec.ofNat 32 (seg b 21 + seg a 14 + seg d 7 + 0xE0000001)
  | .sel d a b => BitVec.ofNat 32 (seg b 21 + seg a 14 + seg d 7 + 0xF0000001)
  | .mul d a b => BitVec.ofNat 32 (seg b 21 + seg a 14 + seg d 7 + 0x2)
  | .mulh d a b => BitVec.ofNat 32 (seg b 21 + seg a 14 + seg d 7 + 0x10000002)
  | .mulhu d a b => BitVec.ofNat 32 (seg b 21 + seg a 14 + seg d 7 + 0x20000002)
  | .div d a b => BitVec.ofNat 32 (seg b 21 + seg a 14 + seg d 7 + 0x30000002)
  | .divu d a b => BitVec.ofNat 32 (seg b 21 + seg a 14 + seg d 7 + 0x40000002)
  | .rem d a b => BitVec.ofNat 32 (seg b 21 + seg a 14 + seg d 7 + 0x50000002)
  | .remu d a b => BitVec.ofNat 32 (seg b 21 + seg a 14 + seg d 7 + 0x60000002)
  | .clz d a => BitVec.ofNat 32 (seg a 14 + seg d 7 + 0x70000002)
  | .ctz d a => BitVec.ofNat 32 (seg a 14 + seg d 7 + 0x80000002)
  | .popc d a => BitVec.ofNat 32 (seg a 14 + seg d 7 + 0x90000002)
  | .addi d a i => BitVec.ofNat 32 (seg i 21 + seg a 14 + seg d 7 + 0x3)
  | .andi d a i => BitVec.ofNat 32 (seg i 21 + seg a 14 + seg d 7 + 0x4)
  | .ori d a i => BitVec.ofNat 32 (seg i 21 + seg a 14 + seg d 7 + 0x5)
  | .xori d a i => BitVec.ofNat 32 (seg i 21 + seg a 14 + seg d 7 + 0x6)
  | .slti d a i => BitVec.ofNat 32 (seg i 21 + seg a 14 + seg d 7 + 0x7)
  | .sltiu d a i => BitVec.ofNat 32 (seg i 21 + seg a 14 + seg d 7 + 0x8)
  | .slli d a i => BitVec.ofNat 32 (seg i 21 + seg a 14 + seg d 7 + 0x9)
  | .srli d a i => BitVec.ofNat 32 (seg i 21 + seg a 14 + seg d 7 + 0xA)
  | .srai d a i => BitVec.ofNat 32 (seg i 21 + seg a 14 + seg d 7 + 0xB)
  | .lih d i => BitVec.ofNat 32 (seg i 14 + seg d 7 + 0xC)
  | .addpc d i => BitVec.ofNat 32 (seg i 14 + seg d 7 + 0xD)
  | .lb d a i => BitVec.ofNat 32 (seg i 21 + seg a 14 + seg d 7 + 0xE)
  | .lbu d a i => BitVec.ofNat 32 (seg i 21 + seg a 14 + seg d 7 + 0xF)
  | .lh d a i => BitVec.ofNat 32 (seg i 21 + seg a 14 + seg d 7 + 0x10)
  | .lhu d a i => BitVec.ofNat 32 (seg i 21 + seg a 14 + seg d 7 + 0x11)
  | .lw d a i => BitVec.ofNat 32 (seg i 21 + seg a 14 + seg d 7 + 0x12)
  | .lwu d a i => BitVec.ofNat 32 (seg i 21 + seg a 14 + seg d 7 + 0x13)
  | .ld d a i => BitVec.ofNat 32 (seg i 21 + seg a 14 + seg d 7 + 0x14)
  | .sb s a i => BitVec.ofNat 32 (seg i 21 + seg a 14 + seg s 7 + 0x15)
  | .sh s a i => BitVec.ofNat 32 (seg i 21 + seg a 14 + seg s 7 + 0x16)
  | .sw s a i => BitVec.ofNat 32 (seg i 21 + seg a 14 + seg s 7 + 0x17)
  | .sd s a i => BitVec.ofNat 32 (seg i 21 + seg a 14 + seg s 7 + 0x18)
  | .beq b a o => BitVec.ofNat 32 (seg o 21 + seg a 14 + seg b 7 + 0x19)
  | .bne b a o => BitVec.ofNat 32 (seg o 21 + seg a 14 + seg b 7 + 0x1A)
  | .blt b a o => BitVec.ofNat 32 (seg o 21 + seg a 14 + seg b 7 + 0x1B)
  | .bge b a o => BitVec.ofNat 32 (seg o 21 + seg a 14 + seg b 7 + 0x1C)
  | .bltu b a o => BitVec.ofNat 32 (seg o 21 + seg a 14 + seg b 7 + 0x1D)
  | .bgeu b a o => BitVec.ofNat 32 (seg o 21 + seg a 14 + seg b 7 + 0x1E)
  | .faddF32 d a b => BitVec.ofNat 32 (seg b 21 + seg a 14 + seg d 7 + 0x20)
  | .fsubF32 d a b => BitVec.ofNat 32 (seg b 21 + seg a 14 + seg d 7 + 0x10000020)
  | .fmulF32 d a b => BitVec.ofNat 32 (seg b 21 + seg a 14 + seg d 7 + 0x20000020)
  | .fdivF32 d a b => BitVec.ofNat 32 (seg b 21 + seg a 14 + seg d 7 + 0x30000020)
  | .fsqrtF32 d a => BitVec.ofNat 32 (seg a 14 + seg d 7 + 0x40000020)
  | .fminF32 d a b => BitVec.ofNat 32 (seg b 21 + seg a 14 + seg d 7 + 0x50000020)
  | .fmaxF32 d a b => BitVec.ofNat 32 (seg b 21 + seg a 14 + seg d 7 + 0x60000020)
  | .fmaF32 d a b => BitVec.ofNat 32 (seg b 21 + seg a 14 + seg d 7 + 0x70000020)
  | .fcmpEqF32 d a b => BitVec.ofNat 32 (seg b 21 + seg a 14 + seg d 7 + 0x80000020)
  | .fcmpLtF32 d a b => BitVec.ofNat 32 (seg b 21 + seg a 14 + seg d 7 + 0x90000020)
  | .fcmpLeF32 d a b => BitVec.ofNat 32 (seg b 21 + seg a 14 + seg d 7 + 0xA0000020)
  | .fcmpUnF32 d a b => BitVec.ofNat 32 (seg b 21 + seg a 14 + seg d 7 + 0xB0000020)
  | .fclassF32 d a => BitVec.ofNat 32 (seg a 14 + seg d 7 + 0xC0000020)
  | .faddF64 d a b => BitVec.ofNat 32 (seg b 21 + seg a 14 + seg d 7 + 0x21)
  | .fsubF64 d a b => BitVec.ofNat 32 (seg b 21 + seg a 14 + seg d 7 + 0x10000021)
  | .fmulF64 d a b => BitVec.ofNat 32 (seg b 21 + seg a 14 + seg d 7 + 0x20000021)
  | .fdivF64 d a b => BitVec.ofNat 32 (seg b 21 + seg a 14 + seg d 7 + 0x30000021)
  | .fsqrtF64 d a => BitVec.ofNat 32 (seg a 14 + seg d 7 + 0x40000021)
  | .fminF64 d a b => BitVec.ofNat 32 (seg b 21 + seg a 14 + seg d 7 + 0x50000021)
  | .fmaxF64 d a b => BitVec.ofNat 32 (seg b 21 + seg a 14 + seg d 7 + 0x60000021)
  | .fmaF64 d a b => BitVec.ofNat 32 (seg b 21 + seg a 14 + seg d 7 + 0x70000021)
  | .fcmpEqF64 d a b => BitVec.ofNat 32 (seg b 21 + seg a 14 + seg d 7 + 0x80000021)
  | .fcmpLtF64 d a b => BitVec.ofNat 32 (seg b 21 + seg a 14 + seg d 7 + 0x90000021)
  | .fcmpLeF64 d a b => BitVec.ofNat 32 (seg b 21 + seg a 14 + seg d 7 + 0xA0000021)
  | .fcmpUnF64 d a b => BitVec.ofNat 32 (seg b 21 + seg a 14 + seg d 7 + 0xB0000021)
  | .fclassF64 d a => BitVec.ofNat 32 (seg a 14 + seg d 7 + 0xC0000021)
  | .fcvt d a s t => BitVec.ofNat 32 (seg t 28 + seg s 21 + seg a 14 + seg d 7 + 0x22)
  | .jal d o => BitVec.ofNat 32 (seg o 14 + seg d 7 + 0x30)
  | .jalr d a i => BitVec.ofNat 32 (seg i 21 + seg a 14 + seg d 7 + 0x31)
  | .nest a n => BitVec.ofNat 32 (seg n 21 + seg a 14 + 0x32)
  | .win s v => BitVec.ofNat 32 (seg v 25 + seg s 21 + 0x33)
  | .qpush a q => BitVec.ofNat 32 (seg q 21 + seg a 14 + 0x34)
  | .qpop d q => BitVec.ofNat 32 (seg q 21 + seg d 7 + 0x10000034)
  | .qcnt d q => BitVec.ofNat 32 (seg q 21 + seg d 7 + 0x20000034)
  | .qlink q a => BitVec.ofNat 32 (seg a 14 + seg q 7 + 0x30000034)
  | .trap c => BitVec.ofNat 32 (seg c 14 + 0x35)
  | .brk c => BitVec.ofNat 32 (seg c 14 + 0x10000035)
  | .tret => BitVec.ofNat 32 (0x20000035)
  | .yield => BitVec.ofNat 32 (0x30000035)
  | .exit => BitVec.ofNat 32 (0x40000035)
  | .clean a b => BitVec.ofNat 32 (seg b 21 + seg a 14 + 0x50000035)
  | .cdrop a b => BitVec.ofNat 32 (seg b 21 + seg a 14 + 0x60000035)
  | .tlbinv a b => BitVec.ofNat 32 (seg b 21 + seg a 14 + 0x70000035)
  | .srr d n => BitVec.ofNat 32 (seg n 21 + seg d 7 + 0x36)
  | .srwFflags a => BitVec.ofNat 32 (seg a 14 + 0x2000037)
  | .srwFctl a => BitVec.ofNat 32 (seg a 14 + 0x2200037)
  | .srwFexca a => BitVec.ofNat 32 (seg a 14 + 0x2400037)
  | .srwFexcb a => BitVec.ofNat 32 (seg a 14 + 0x2600037)
  | .srwFproga a => BitVec.ofNat 32 (seg a 14 + 0x2800037)
  | .srwFprogb a => BitVec.ofNat 32 (seg a 14 + 0x2A00037)
  | .srwFstat a => BitVec.ofNat 32 (seg a 14 + 0x2C00037)
  | .srwMctl a => BitVec.ofNat 32 (seg a 14 + 0x4000037)
  | .srwLmap a => BitVec.ofNat 32 (seg a 14 + 0x8200037)
  | .vadd d a b _ => BitVec.ofNat 32 (seg b 21 + seg a 14 + seg d 7 + 0x40)
  | .vsub d a b _ => BitVec.ofNat 32 (seg b 21 + seg a 14 + seg d 7 + 0x10000040)
  | .vand d a b _ => BitVec.ofNat 32 (seg b 21 + seg a 14 + seg d 7 + 0x20000040)
  | .vor d a b _ => BitVec.ofNat 32 (seg b 21 + seg a 14 + seg d 7 + 0x30000040)
  | .vxor d a b _ => BitVec.ofNat 32 (seg b 21 + seg a 14 + seg d 7 + 0x40000040)
  | .vmin d a b _ => BitVec.ofNat 32 (seg b 21 + seg a 14 + seg d 7 + 0x50000040)
  | .vmax d a b _ => BitVec.ofNat 32 (seg b 21 + seg a 14 + seg d 7 + 0x60000040)
  | .vsadd d a b _ => BitVec.ofNat 32 (seg b 21 + seg a 14 + seg d 7 + 0x70000040)
  | .vssub d a b _ => BitVec.ofNat 32 (seg b 21 + seg a 14 + seg d 7 + 0x80000040)
  | .vaddScalar d a b _ => BitVec.ofNat 32 (seg b 21 + seg a 14 + seg d 7 + 0x41)
  | .vsubScalar d a b _ => BitVec.ofNat 32 (seg b 21 + seg a 14 + seg d 7 + 0x10000041)
  | .vandScalar d a b _ => BitVec.ofNat 32 (seg b 21 + seg a 14 + seg d 7 + 0x20000041)
  | .vorScalar d a b _ => BitVec.ofNat 32 (seg b 21 + seg a 14 + seg d 7 + 0x30000041)
  | .vxorScalar d a b _ => BitVec.ofNat 32 (seg b 21 + seg a 14 + seg d 7 + 0x40000041)
  | .vminScalar d a b _ => BitVec.ofNat 32 (seg b 21 + seg a 14 + seg d 7 + 0x50000041)
  | .vmaxScalar d a b _ => BitVec.ofNat 32 (seg b 21 + seg a 14 + seg d 7 + 0x60000041)
  | .vsaddScalar d a b _ => BitVec.ofNat 32 (seg b 21 + seg a 14 + seg d 7 + 0x70000041)
  | .vssubScalar d a b _ => BitVec.ofNat 32 (seg b 21 + seg a 14 + seg d 7 + 0x80000041)
  | .vmul d a b _ => BitVec.ofNat 32 (seg b 21 + seg a 14 + seg d 7 + 0x42)
  | .vmulh d a b _ => BitVec.ofNat 32 (seg b 21 + seg a 14 + seg d 7 + 0x10000042)
  | .vmacc d a b _ => BitVec.ofNat 32 (seg b 21 + seg a 14 + seg d 7 + 0x20000042)
  | .vsll d a b _ => BitVec.ofNat 32 (seg b 21 + seg a 14 + seg d 7 + 0x30000042)
  | .vsrl d a b _ => BitVec.ofNat 32 (seg b 21 + seg a 14 + seg d 7 + 0x40000042)
  | .vsra d a b _ => BitVec.ofNat 32 (seg b 21 + seg a 14 + seg d 7 + 0x50000042)
  | .vclz d a _ => BitVec.ofNat 32 (seg a 14 + seg d 7 + 0x60000042)
  | .vpopc d a _ => BitVec.ofNat 32 (seg a 14 + seg d 7 + 0x70000042)
  | .vmulScalar d a b _ => BitVec.ofNat 32 (seg b 21 + seg a 14 + seg d 7 + 0x43)
  | .vmulhScalar d a b _ => BitVec.ofNat 32 (seg b 21 + seg a 14 + seg d 7 + 0x10000043)
  | .vmaccScalar d a b _ => BitVec.ofNat 32 (seg b 21 + seg a 14 + seg d 7 + 0x20000043)
  | .vsllScalar d a b _ => BitVec.ofNat 32 (seg b 21 + seg a 14 + seg d 7 + 0x30000043)
  | .vsrlScalar d a b _ => BitVec.ofNat 32 (seg b 21 + seg a 14 + seg d 7 + 0x40000043)
  | .vsraScalar d a b _ => BitVec.ofNat 32 (seg b 21 + seg a 14 + seg d 7 + 0x50000043)
  | .vfadd d a b _ => BitVec.ofNat 32 (seg b 21 + seg a 14 + seg d 7 + 0x44)
  | .vfsub d a b _ => BitVec.ofNat 32 (seg b 21 + seg a 14 + seg d 7 + 0x10000044)
  | .vfmul d a b _ => BitVec.ofNat 32 (seg b 21 + seg a 14 + seg d 7 + 0x20000044)
  | .vfma d a b _ => BitVec.ofNat 32 (seg b 21 + seg a 14 + seg d 7 + 0x30000044)
  | .vfnma d a b _ => BitVec.ofNat 32 (seg b 21 + seg a 14 + seg d 7 + 0x40000044)
  | .vfdiv d a b _ => BitVec.ofNat 32 (seg b 21 + seg a 14 + seg d 7 + 0x50000044)
  | .vfsqrt d a _ => BitVec.ofNat 32 (seg a 14 + seg d 7 + 0x60000044)
  | .vfmin d a b _ => BitVec.ofNat 32 (seg b 21 + seg a 14 + seg d 7 + 0x70000044)
  | .vfmax d a b _ => BitVec.ofNat 32 (seg b 21 + seg a 14 + seg d 7 + 0x80000044)
  | .vfclass d a _ => BitVec.ofNat 32 (seg a 14 + seg d 7 + 0x90000044)
  | .vfaddScalar d a b _ => BitVec.ofNat 32 (seg b 21 + seg a 14 + seg d 7 + 0x45)
  | .vfsubScalar d a b _ => BitVec.ofNat 32 (seg b 21 + seg a 14 + seg d 7 + 0x10000045)
  | .vfmulScalar d a b _ => BitVec.ofNat 32 (seg b 21 + seg a 14 + seg d 7 + 0x20000045)
  | .vfmaScalar d a b _ => BitVec.ofNat 32 (seg b 21 + seg a 14 + seg d 7 + 0x30000045)
  | .vfnmaScalar d a b _ => BitVec.ofNat 32 (seg b 21 + seg a 14 + seg d 7 + 0x40000045)
  | .vfdivScalar d a b _ => BitVec.ofNat 32 (seg b 21 + seg a 14 + seg d 7 + 0x50000045)
  | .vfminScalar d a b _ => BitVec.ofNat 32 (seg b 21 + seg a 14 + seg d 7 + 0x70000045)
  | .vfmaxScalar d a b _ => BitVec.ofNat 32 (seg b 21 + seg a 14 + seg d 7 + 0x80000045)
  | .vcmp d a b c _ => BitVec.ofNat 32 (seg c 28 + seg b 21 + seg a 14 + seg d 7 + 0x46)
  | .vfcmpEq d a b _ => BitVec.ofNat 32 (seg b 21 + seg a 14 + seg d 7 + 0x80000046)
  | .vfcmpNe d a b _ => BitVec.ofNat 32 (seg b 21 + seg a 14 + seg d 7 + 0x90000046)
  | .vfcmpLt d a b _ => BitVec.ofNat 32 (seg b 21 + seg a 14 + seg d 7 + 0xA0000046)
  | .vfcmpLe d a b _ => BitVec.ofNat 32 (seg b 21 + seg a 14 + seg d 7 + 0xB0000046)
  | .vfcmpUn d a b _ => BitVec.ofNat 32 (seg b 21 + seg a 14 + seg d 7 + 0xC0000046)
  | .mand d a b _ => BitVec.ofNat 32 (seg b 21 + seg a 14 + seg d 7 + 0x47)
  | .mor d a b _ => BitVec.ofNat 32 (seg b 21 + seg a 14 + seg d 7 + 0x10000047)
  | .mxor d a b _ => BitVec.ofNat 32 (seg b 21 + seg a 14 + seg d 7 + 0x20000047)
  | .mandn d a b _ => BitVec.ofNat 32 (seg b 21 + seg a 14 + seg d 7 + 0x30000047)
  | .mpopc d a _ => BitVec.ofNat 32 (seg a 14 + seg d 7 + 0x40000047)
  | .mfirst d a _ => BitVec.ofNat 32 (seg a 14 + seg d 7 + 0x50000047)
  | .mset d a _ => BitVec.ofNat 32 (seg a 14 + seg d 7 + 0x60000047)
  | .vcvt d a s _ => BitVec.ofNat 32 (seg s 21 + seg a 14 + seg d 7 + 0x48)
  | .vwiden d a _ => BitVec.ofNat 32 (seg a 14 + seg d 7 + 0x10000048)
  | .vnarrow d a b _ => BitVec.ofNat 32 (seg b 21 + seg a 14 + seg d 7 + 0x20000048)
  | .vquant d a b c x _ => BitVec.ofNat 32 (seg x 27 + seg c 24 + seg b 21 + seg a 14 + seg d 7 + 0x49)
  | .smaxe d a b _ => BitVec.ofNat 32 (seg b 21 + seg a 14 + seg d 7 + 0x10000049)
  | .vscacc d a e c _ => BitVec.ofNat 32 (seg c 24 + seg e 21 + seg a 14 + seg d 7 + 0x20000049)
  | .vscale d a b c x _ => BitVec.ofNat 32 (seg x 27 + seg c 24 + seg b 21 + seg a 14 + seg d 7 + 0x30000049)
  | .vredsum d a b _ => BitVec.ofNat 32 (seg b 21 + seg a 14 + seg d 7 + 0x4A)
  | .vredmin d a b _ => BitVec.ofNat 32 (seg b 21 + seg a 14 + seg d 7 + 0x1000004A)
  | .vredmax d a b _ => BitVec.ofNat 32 (seg b 21 + seg a 14 + seg d 7 + 0x2000004A)
  | .vfredsum d a b _ => BitVec.ofNat 32 (seg b 21 + seg a 14 + seg d 7 + 0x8000004A)
  | .vfredsumt d a b _ => BitVec.ofNat 32 (seg b 21 + seg a 14 + seg d 7 + 0x9000004A)
  | .vfredmax d a b _ => BitVec.ofNat 32 (seg b 21 + seg a 14 + seg d 7 + 0xA000004A)
  | .vperm d a b _ => BitVec.ofNat 32 (seg b 21 + seg a 14 + seg d 7 + 0x4B)
  | .vslideup d a b _ => BitVec.ofNat 32 (seg b 21 + seg a 14 + seg d 7 + 0x1000004B)
  | .vslidedn d a b _ => BitVec.ofNat 32 (seg b 21 + seg a 14 + seg d 7 + 0x2000004B)
  | .vrev d a _ => BitVec.ofNat 32 (seg a 14 + seg d 7 + 0x3000004B)
  | .vbcast d a _ => BitVec.ofNat 32 (seg a 14 + seg d 7 + 0x4000004B)
  | .viota d _ => BitVec.ofNat 32 (seg d 7 + 0x5000004B)
  | .vmerge d a b _ => BitVec.ofNat 32 (seg b 21 + seg a 14 + seg d 7 + 0x6000004B)
  | .vreshape d a b _ => BitVec.ofNat 32 (seg b 21 + seg a 14 + seg d 7 + 0x4C)
  | .vcompress d a _ => BitVec.ofNat 32 (seg a 14 + seg d 7 + 0x1000004C)
  | .vexpand d a _ => BitVec.ofNat 32 (seg a 14 + seg d 7 + 0x2000004C)
  | .vextract d a b _ => BitVec.ofNat 32 (seg b 21 + seg a 14 + seg d 7 + 0x3000004C)
  | .vinsert d a b _ => BitVec.ofNat 32 (seg b 21 + seg a 14 + seg d 7 + 0x4000004C)
  | .vqpop d q _ => BitVec.ofNat 32 (seg q 14 + seg d 7 + 0x4D)
  | .vqpush q a _ => BitVec.ofNat 32 (seg a 14 + seg q 7 + 0x1000004D)
  | .setvl d a b t _ => BitVec.ofNat 32 (seg t 28 + seg b 21 + seg a 14 + seg d 7 + 0x4E)
  | .setvli d a r t _ => BitVec.ofNat 32 (seg t 28 + seg r 26 + seg a 14 + seg d 7 + 0x4F)
  | .vld d a i _ => BitVec.ofNat 32 (seg i 21 + seg a 14 + seg d 7 + 0x60)
  | .vlds d a b _ => BitVec.ofNat 32 (seg b 21 + seg a 14 + seg d 7 + 0x61)
  | .vldx d a b m _ => BitVec.ofNat 32 (seg m 28 + seg b 21 + seg a 14 + seg d 7 + 0x62)
  | .vst s a i _ => BitVec.ofNat 32 (seg i 21 + seg a 14 + seg s 7 + 0x63)
  | .vsts s a b _ => BitVec.ofNat 32 (seg b 21 + seg a 14 + seg s 7 + 0x64)
  | .vstx s a b m _ => BitVec.ofNat 32 (seg m 28 + seg b 21 + seg a 14 + seg s 7 + 0x65)
  | .vldw d a k _ => BitVec.ofNat 32 (seg k 28 + seg a 14 + seg d 7 + 0x66)
  | .vamo d a b o _ => BitVec.ofNat 32 (seg o 28 + seg b 21 + seg a 14 + seg d 7 + 0x67)
  | .amo d a p z o s => BitVec.ofNat 32 (seg s 29 + seg o 26 + seg z 25 + seg p 21 + seg a 14 + seg d 7 + 0x68)
  | .amocas d a z o s => BitVec.ofNat 32 (seg s 29 + seg o 26 + seg z 25 + seg a 14 + seg d 7 + 0x1E00068)
  | .fence s o t => BitVec.ofNat 32 (seg t 26 + seg o 24 + seg s 21 + 0x69)
  | .bar s a => BitVec.ofNat 32 (seg a 14 + seg s 7 + 0x6A)
  | .waitge s a b => BitVec.ofNat 32 (seg b 21 + seg a 14 + seg s 7 + 0x1000006A)
  | .wmpub s a b => BitVec.ofNat 32 (seg b 21 + seg a 14 + seg s 7 + 0x2000006A)
  | .wmbind k s a b => BitVec.ofNat 32 (seg b 21 + seg a 14 + seg s 9 + seg k 7 + 0x3000006A)
  | .launch d a => BitVec.ofNat 32 (seg a 14 + seg d 7 + 0x6B)
  | .cpy c a => BitVec.ofNat 32 (seg a 14 + seg c 7 + 0x6C)
  | .cwait d c b => BitVec.ofNat 32 (seg b 21 + seg c 14 + seg d 7 + 0x1000006C)
  | .cwp d c => BitVec.ofNat 32 (seg c 14 + seg d 7 + 0x2000006C)
  | .sstr q a b s => BitVec.ofNat 32 (seg s 28 + seg b 21 + seg a 14 + seg q 7 + 0x6D)
  | .sclose s => BitVec.ofNat 32 (seg s 28 + 0x4000006D)
  | .istr k a => BitVec.ofNat 32 (seg a 14 + seg k 7 + 0x6E)
  | .iwait d k => BitVec.ofNat 32 (seg k 14 + seg d 7 + 0x1000006E)
  | .est v a b => BitVec.ofNat 32 (seg b 21 + seg a 14 + seg v 7 + 0x6F)
  | .eaddS32 v a b => BitVec.ofNat 32 (seg b 21 + seg a 14 + seg v 7 + 0x1000006F)
  | .eaddF32 v a b => BitVec.ofNat 32 (seg b 21 + seg a 14 + seg v 7 + 0x2000006F)
  | .eseq d => BitVec.ofNat 32 (seg d 7 + 0x3000006F)
  | .ewait m a b => BitVec.ofNat 32 (seg b 21 + seg a 14 + seg m 7 + 0x4000006F)
  | .fld d a b _ => BitVec.ofNat 32 (seg b 21 + seg a 14 + seg d 7 + 0x70)
  | .fst d a _ => BitVec.ofNat 32 (seg a 14 + seg d 7 + 0x10000070)
  | .fwalk d a b _ => BitVec.ofNat 32 (seg b 21 + seg a 14 + seg d 7 + 0x71)
  | .fsort d a o _ => BitVec.ofNat 32 (seg o 28 + seg a 14 + seg d 7 + 0x72)
  | .fisect d a b o _ => BitVec.ofNat 32 (seg o 28 + seg b 21 + seg a 14 + seg d 7 + 0x73)
  | .fisectc d a b _ => BitVec.ofNat 32 (seg b 21 + seg a 14 + seg d 7 + 0x60000073)
  | .funion d a b o _ => BitVec.ofNat 32 (seg o 28 + seg b 21 + seg a 14 + seg d 7 + 0x80000073)
  | .fmerge d a k o _ => BitVec.ofNat 32 (seg o 28 + seg k 21 + seg a 14 + seg d 7 + 0x74)
  | .fcompact d a _ => BitVec.ofNat 32 (seg a 14 + seg d 7 + 0x75)
  | .fexpand d a b _ => BitVec.ofNat 32 (seg b 21 + seg a 14 + seg d 7 + 0x10000075)
  | .fgather d a b _ => BitVec.ofNat 32 (seg b 21 + seg a 14 + seg d 7 + 0x20000075)
  | .fslice d a b _ => BitVec.ofNat 32 (seg b 21 + seg a 14 + seg d 7 + 0x30000075)
  | .fmap d a b o _ => BitVec.ofNat 32 (seg o 28 + seg b 21 + seg a 14 + seg d 7 + 0x80000075)
  | .fcfg f a _ => BitVec.ofNat 32 (seg a 14 + seg f 7 + 0x76)
  | .fclr f _ => BitVec.ofNat 32 (seg f 7 + 0x10000076)
  | .flenr d f _ => BitVec.ofNat 32 (seg f 14 + seg d 7 + 0x20000076)
  | .mtload c a b t _ => BitVec.ofNat 32 (seg t 28 + seg b 21 + seg a 14 + seg c 7 + 0x78)
  | .mtzero t _ => BitVec.ofNat 32 (seg t 28 + 0x40000078)
  | .mrow v a c t _ => BitVec.ofNat 32 (seg t 28 + seg c 21 + seg a 14 + seg v 7 + 0x79)
  | .mrowg f a c t _ => BitVec.ofNat 32 (seg t 28 + seg c 21 + seg a 14 + seg f 7 + 0x40000079)
  | .mdrain d a _ => BitVec.ofNat 32 (seg a 14 + seg d 7 + 0x7A)
  | .mdrainKeep d a _ => BitVec.ofNat 32 (seg a 14 + seg d 7 + 0x1000007A)
  | .mclr a _ => BitVec.ofNat 32 (seg a 14 + 0x2000007A)
  | .mstatRow d a _ => BitVec.ofNat 32 (seg a 14 + seg d 7 + 0x7B)
  | .mstatSlot d a _ => BitVec.ofNat 32 (seg a 14 + seg d 7 + 0x1000007B)
  | _ => 0

/-- Has the instruction words of its own, or is it a step of the device without one. -/
def hasWord : Instr → Bool
  | .trapEntry _ => false
  | .vectorBeat _ _ => false
  | .engineDispatch _ => false
  | .interlockRelease _ _ => false
  | .vldwElementReady _ => false
  | .qpopEntryArrival _ => false
  | .qpushRoom _ => false
  | .fenceComplete _ => false
  | .barrierDeparture _ => false
  | .waitgeSatisfied _ => false
  | .ewaitSatisfied _ => false
  | .cwaitSatisfied _ => false
  | .iwaitSatisfied _ => false
  | .scloseComplete _ => false
  | .tlbinvComplete _ => false
  | .walkerInvalidate _ => false
  | .exitComplete _ => false
  | .uncorrectableError _ _ _ => false
  | .engineHoldSwap _ => false
  | .preemption _ => false
  | .spillComplete _ => false
  | .stagingComplete _ => false
  | .billonCommitRetry _ => false
  | .billonStallTimeout _ => false
  | .slotGrant _ _ => false
  | .electrumApply _ _ => false
  | .copyChunkComplete _ _ => false
  | .sparseStreamAppend _ _ => false
  | .istrRowDeliver _ => false
  | .istrComplete _ => false
  | .dirGets _ _ => false
  | .dirGetx _ _ => false
  | .dirUpg _ _ => false
  | .sliceRead _ => false
  | .sliceWrite _ => false
  | .sliceAtomic _ => false
  | .dirAck _ _ => false
  | .dirPut _ _ => false
  | .llcSuperblockEviction _ => false
  | .dcInv _ _ => false
  | .dcDown _ _ => false
  | .dcFwdx _ _ => false
  | .dcReply _ _ => false
  | .dcSuperblockEviction _ _ => false
  | .remoteAccess _ => false
  | .linkReplayExhausted _ => false
  | .hostRequest _ _ => false
  | .ringEntryTake _ => false
  | .waitEntryComplete _ => false
  | .groupStart _ _ => false
  | .priorityAgeing _ _ => false
  | .graphNodeReady _ _ => false
  | .launchComplete _ => false
  | .coalesceWindowExpiry _ _ => false
  | .abortComplete _ => false
  | .laneGroupRetirement _ _ => false
  | .coreRetirement _ => false
  | .wqdb _ => false
  | .wqtbase _ => false
  | .frpool _ => false
  | .scabort _ => false
  | .fbbase _ => false
  | .fbctl _ => false
  | .fbtail _ => false
  | .fback _ => false
  | .fbovf _ => false
  | .interruptUnmask _ _ => false
  | .packageReset _ => false
  | .rptctl _ => false
  | .attestationReportWritten => false
  | .layerSleep _ _ => false
  | .layerWakeRequest _ _ => false
  | .layerPowerReturn _ _ => false
  | .wakeComplete _ _ => false
  | .thermalThrottle _ => false
  | .thermalStop _ => false
  | .thermalResume _ => false
  | .thermalShutdown => false
  | .correctableError _ => false
  | .rasWindowExpiry => false
  | .tstreq _ => false
  | .inFieldTestStart _ => false
  | .inFieldTestEnd _ _ => false
  | .dbgHalt _ => false
  | .dbgRelease _ => false
  | .dbgKill _ => false
  | .dbgEvict _ => false
  | .dbgRead _ => false
  | .trbase _ => false
  | .registerWrite _ _ => false
  | .illegalEncoding _ _ => false
  | .rowOperationCommit _ => false
  | .tileLoadComplete _ => false
  | _ => true

/-- The P word fields of an instruction. -/
def pfxOfInstr : Instr → Option Pfx
  | .vadd _ _ _ px => px
  | .vsub _ _ _ px => px
  | .vand _ _ _ px => px
  | .vor _ _ _ px => px
  | .vxor _ _ _ px => px
  | .vmin _ _ _ px => px
  | .vmax _ _ _ px => px
  | .vsadd _ _ _ px => px
  | .vssub _ _ _ px => px
  | .vaddScalar _ _ _ px => px
  | .vsubScalar _ _ _ px => px
  | .vandScalar _ _ _ px => px
  | .vorScalar _ _ _ px => px
  | .vxorScalar _ _ _ px => px
  | .vminScalar _ _ _ px => px
  | .vmaxScalar _ _ _ px => px
  | .vsaddScalar _ _ _ px => px
  | .vssubScalar _ _ _ px => px
  | .vmul _ _ _ px => px
  | .vmulh _ _ _ px => px
  | .vmacc _ _ _ px => px
  | .vsll _ _ _ px => px
  | .vsrl _ _ _ px => px
  | .vsra _ _ _ px => px
  | .vclz _ _ px => px
  | .vpopc _ _ px => px
  | .vmulScalar _ _ _ px => px
  | .vmulhScalar _ _ _ px => px
  | .vmaccScalar _ _ _ px => px
  | .vsllScalar _ _ _ px => px
  | .vsrlScalar _ _ _ px => px
  | .vsraScalar _ _ _ px => px
  | .vfadd _ _ _ px => px
  | .vfsub _ _ _ px => px
  | .vfmul _ _ _ px => px
  | .vfma _ _ _ px => px
  | .vfnma _ _ _ px => px
  | .vfdiv _ _ _ px => px
  | .vfsqrt _ _ px => px
  | .vfmin _ _ _ px => px
  | .vfmax _ _ _ px => px
  | .vfclass _ _ px => px
  | .vfaddScalar _ _ _ px => px
  | .vfsubScalar _ _ _ px => px
  | .vfmulScalar _ _ _ px => px
  | .vfmaScalar _ _ _ px => px
  | .vfnmaScalar _ _ _ px => px
  | .vfdivScalar _ _ _ px => px
  | .vfminScalar _ _ _ px => px
  | .vfmaxScalar _ _ _ px => px
  | .vcmp _ _ _ _ px => px
  | .vfcmpEq _ _ _ px => px
  | .vfcmpNe _ _ _ px => px
  | .vfcmpLt _ _ _ px => px
  | .vfcmpLe _ _ _ px => px
  | .vfcmpUn _ _ _ px => px
  | .mand _ _ _ px => px
  | .mor _ _ _ px => px
  | .mxor _ _ _ px => px
  | .mandn _ _ _ px => px
  | .mpopc _ _ px => px
  | .mfirst _ _ px => px
  | .mset _ _ px => px
  | .vcvt _ _ _ px => px
  | .vwiden _ _ px => px
  | .vnarrow _ _ _ px => px
  | .vquant _ _ _ _ _ px => px
  | .smaxe _ _ _ px => px
  | .vscacc _ _ _ _ px => px
  | .vscale _ _ _ _ _ px => px
  | .vredsum _ _ _ px => px
  | .vredmin _ _ _ px => px
  | .vredmax _ _ _ px => px
  | .vfredsum _ _ _ px => px
  | .vfredsumt _ _ _ px => px
  | .vfredmax _ _ _ px => px
  | .vperm _ _ _ px => px
  | .vslideup _ _ _ px => px
  | .vslidedn _ _ _ px => px
  | .vrev _ _ px => px
  | .vbcast _ _ px => px
  | .viota _ px => px
  | .vmerge _ _ _ px => px
  | .vreshape _ _ _ px => px
  | .vcompress _ _ px => px
  | .vexpand _ _ px => px
  | .vextract _ _ _ px => px
  | .vinsert _ _ _ px => px
  | .vqpop _ _ px => px
  | .vqpush _ _ px => px
  | .setvl _ _ _ _ px => px
  | .setvli _ _ _ _ px => px
  | .vld _ _ _ px => px
  | .vlds _ _ _ px => px
  | .vldx _ _ _ _ px => px
  | .vst _ _ _ px => px
  | .vsts _ _ _ px => px
  | .vstx _ _ _ _ px => px
  | .vldw _ _ _ px => px
  | .vamo _ _ _ _ px => px
  | .fld _ _ _ px => px
  | .fst _ _ px => px
  | .fwalk _ _ _ px => px
  | .fsort _ _ _ px => px
  | .fisect _ _ _ _ px => px
  | .fisectc _ _ _ px => px
  | .funion _ _ _ _ px => px
  | .fmerge _ _ _ _ px => px
  | .fcompact _ _ px => px
  | .fexpand _ _ _ px => px
  | .fgather _ _ _ px => px
  | .fslice _ _ _ px => px
  | .fmap _ _ _ _ px => px
  | .fcfg _ _ px => px
  | .fclr _ px => px
  | .flenr _ _ px => px
  | .mtload _ _ _ _ px => px
  | .mtzero _ px => px
  | .mrow _ _ _ _ px => px
  | .mrowg _ _ _ _ px => px
  | .mdrain _ _ px => px
  | .mdrainKeep _ _ px => px
  | .mclr _ px => px
  | .mstatRow _ _ px => px
  | .mstatSlot _ _ px => px
  | _ => none

/-- The words of an instruction: its P word, if it carries one, and its base word. -/
def encode (i : Instr) : List (BitVec 32) :=
  if hasWord i then
    match pfxOfInstr i with
    | some p => [pfxWord p, encBase i]
    | none => [encBase i]
  else []

/-- The bytes of an instruction in memory. -/
def encodeBytes (i : Instr) : List Byte := (encode i).flatMap wordBytes

end Sys2Proof.Machine

namespace Sys2Proof

/-- The instruction the decoder reads from a word of spec/opcode_table.json: its nbits bits, bits above
them zero up to the longest instruction, which is a P word and a base word. -/
noncomputable def decodeTableWord (nbits w : Nat) : Option Instr :=
  match Machine.decodeBytes (Machine.leBytes 8 (w % 2 ^ nbits)) with
  | .instr i _ => some i
  | _ => none

end Sys2Proof
end

