-- ==== Sys2Proof/Machine/Flags.lean ====
section
/-! DEFINITION. Floating-point values, rounding, and every flag computation (R20 to R41, R89 to R91).
A flag set is a number whose bits stand as in FFLAGS (R27): NV 0, DZ 1, OF 2, UF 3, NX 4, CN 5, SA 6. -/

namespace Sys2Proof.Machine

/-- FFLAGS bits (R27). -/
def fNV : Nat := 1
/-- division by zero -/
def fDZ : Nat := 2
/-- overflow -/
def fOF : Nat := 4
/-- underflow -/
def fUF : Nat := 8
/-- inexact -/
def fNX : Nat := 16
/-- NaN replaced by zero -/
def fCN : Nat := 32
/-- saturation -/
def fSA : Nat := 64

/-- An IEEE format: exponent and fraction widths (R20). -/
structure FFmt where
  eb : Nat
  fb : Nat

/-- Field widths of Table 1 of R20; F32 for every other type. -/
def fmtOf : Ty → FFmt
  | .f64 => ⟨11, 52⟩
  | .f16 => ⟨5, 10⟩
  | .b16 => ⟨8, 7⟩
  | _ => ⟨8, 23⟩

/-- Exponent bias (R20). -/
def FFmt.bias (f : FFmt) : Nat := 2 ^ (f.eb - 1) - 1
/-- Default NaN (R20, R21). -/
def FFmt.qnan (f : FFmt) : Nat := (2 ^ f.eb - 1) * 2 ^ f.fb + 2 ^ (f.fb - 1)
/-- Infinity of a sign. -/
def FFmt.inf (f : FFmt) (s : Bool) : Nat := b2n s * 2 ^ (f.eb + f.fb) + (2 ^ f.eb - 1) * 2 ^ f.fb
/-- Largest finite value of a sign. -/
def FFmt.maxFin (f : FFmt) (s : Bool) : Nat := b2n s * 2 ^ (f.eb + f.fb) + (2 ^ f.eb - 1) * 2 ^ f.fb - 1
/-- Zero of a sign. -/
def FFmt.zero (f : FFmt) (s : Bool) : Nat := b2n s * 2 ^ (f.eb + f.fb)

/-- A value: a NaN (signalling or quiet), an infinity, or (-1)^s · m · 2^e with m = 0 a signed zero. -/
inductive FVal where
  | nan (sig : Bool)
  | inf (s : Bool)
  | fin (s : Bool) (m : Nat) (e : Int)
  deriving DecidableEq, Repr

/-- Is the value a NaN. -/
def FVal.isNan : FVal → Bool
  | .nan _ => true
  | _ => false
/-- Is the value a signalling NaN. -/
def FVal.isSig : FVal → Bool
  | .nan s => s
  | _ => false

/-- The value of an IEEE pattern (R20). -/
def decodeF (f : FFmt) (p : Nat) : FVal :=
  let s := p.testBit (f.eb + f.fb)
  let ex := p / 2 ^ f.fb % 2 ^ f.eb
  let fr := p % 2 ^ f.fb
  if ex = 2 ^ f.eb - 1 then
    if fr = 0 then .inf s else .nan (!fr.testBit (f.fb - 1))
  else if ex = 0 then .fin s fr (1 - (f.bias : Int) - f.fb)
  else .fin s (2 ^ f.fb + fr) ((ex : Int) - f.bias - f.fb)

/-- The rounding codes of R25: does the magnitude n, with a remainder compared to one half (lt, eq, gt; inexact), go up. -/
def roundUp (rm : Nat) (s odd inexact half above : Bool) : Bool :=
  match rm with
  | 0 => above || (half && odd)
  | 1 => false
  | 2 => inexact && s
  | 3 => inexact && !s
  | _ => above || half

/-- Round m · 2^e (plus a sticky excess below one unit of m) to a multiple of 2^q: the multiple, and whether it is inexact. -/
def roundAt (rm : Nat) (s : Bool) (m : Nat) (e q : Int) (sticky : Bool) : Nat × Bool :=
  if q ≤ e then (m * 2 ^ (e - q).toNat, sticky)
  else
    let sh := (q - e).toNat
    let n := m / 2 ^ sh
    let r := m % 2 ^ sh
    let h := 2 ^ (sh - 1)
    let inexact := r != 0 || sticky
    let above := h < r || (r == h && sticky)
    let half := r == h && !sticky
    (if roundUp rm s (n % 2 == 1) inexact half above then n + 1 else n, inexact)

/-- Round(fmt, (-1)^s · m · 2^e, rm) of R33: the pattern and the flags. sticky marks an exact value strictly
between m and m + 1 units; a caller that sets it supplies at least two bits more than the format keeps. -/
def roundF (f : FFmt) (rm : Nat) (s : Bool) (m : Nat) (e : Int) (sticky : Bool) : Nat × Nat :=
  if m = 0 && !sticky then (f.zero s, 0)
  else
    let top : Int := e + blen m - 1
    let emin : Int := 1 - (f.bias : Int)
    let qu : Int := top - f.fb
    let q : Int := max qu (emin - f.fb)
    let (n, inexact) := roundAt rm s m e q sticky
    let (nu, _) := roundAt rm s m e qu sticky
    let tiny : Bool := (blen nu : Int) - 1 + qu < emin
    let msb : Int := (blen n : Int) - 1 + q
    if f.bias < msb then
      let toInf : Bool := match rm with
        | 1 => false
        | 2 => s
        | 3 => !s
        | _ => true
      (if toInf then f.inf s else f.maxFin s, fOF + fNX)
    else
      let flags := (if inexact then fNX else 0) + (if tiny && inexact then fUF else 0)
      let mag :=
        if msb < emin then n
        else ((msb + f.bias).toNat) * 2 ^ f.fb +
          (if blen n ≤ f.fb + 1 then n * 2 ^ (f.fb + 1 - blen n) else n / 2 ^ (blen n - (f.fb + 1))) - 2 ^ f.fb
      (f.zero s + mag, flags)

/-- NaN result: the default NaN, with NV when invalid (R21). -/
def nanRes (f : FFmt) (nv : Bool) : Nat × Nat := (f.qnan, if nv then fNV else 0)

/-- Exact sum of two finite values, rounded once; the sign of a zero sum by R33. -/
def addFin (f : FFmt) (rm : Nat) (s1 : Bool) (m1 : Nat) (e1 : Int) (s2 : Bool) (m2 : Nat) (e2 : Int) : Nat × Nat :=
  if m1 = 0 && m2 = 0 then (f.zero (if s1 = s2 then s1 else rm == 2), 0)
  else
    let e := min e1 e2
    let a : Int := (m1 * 2 ^ (e1 - e).toNat : Nat)
    let b : Int := (m2 * 2 ^ (e2 - e).toNat : Nat)
    let t : Int := (if s1 then -a else a) + (if s2 then -b else b)
    if t = 0 then (f.zero (rm == 2), 0)
    else roundF f rm (t < 0) t.natAbs e false

/-- x + y on values, rounded to the format (R33, R90). -/
def addV (f : FFmt) (rm : Nat) (x y : FVal) : Nat × Nat :=
  match x, y with
  | .nan a, y => nanRes f (a || y.isSig)
  | _, .nan b => nanRes f b
  | .inf a, .inf b => if a = b then (f.inf a, 0) else nanRes f true
  | .inf a, .fin _ _ _ => (f.inf a, 0)
  | .fin _ _ _, .inf b => (f.inf b, 0)
  | .fin s1 m1 e1, .fin s2 m2 e2 => addFin f rm s1 m1 e1 s2 m2 e2

/-- The value with its sign flipped; a NaN stays. -/
def FVal.neg : FVal → FVal
  | .nan s => .nan s
  | .inf s => .inf (!s)
  | .fin s m e => .fin (!s) m e

/-- x × y on values (R33, R90). -/
def mulV (f : FFmt) (rm : Nat) (x y : FVal) : Nat × Nat :=
  match x, y with
  | .nan a, y => nanRes f (a || y.isSig)
  | _, .nan b => nanRes f b
  | .inf a, .inf b => (f.inf (a ^^ b), 0)
  | .inf a, .fin s m _ => if m = 0 then nanRes f true else (f.inf (a ^^ s), 0)
  | .fin s m _, .inf b => if m = 0 then nanRes f true else (f.inf (s ^^ b), 0)
  | .fin s1 m1 e1, .fin s2 m2 e2 => roundF f rm (s1 ^^ s2) (m1 * m2) (e1 + e2) false

/-- x × y + z with one rounding; an invalid product raises NV even when z is a quiet NaN (R90). -/
def fmaV (f : FFmt) (rm : Nat) (x y z : FVal) : Nat × Nat :=
  match x, y with
  | .nan a, y => nanRes f (a || y.isSig || z.isSig)
  | _, .nan b => nanRes f (b || z.isSig)
  | .inf a, .inf b => addV f rm (.inf (a ^^ b)) z
  | .inf a, .fin s m _ => if m = 0 then nanRes f true else addV f rm (.inf (a ^^ s)) z
  | .fin s m _, .inf b => if m = 0 then nanRes f true else addV f rm (.inf (s ^^ b)) z
  | .fin s1 m1 e1, .fin s2 m2 e2 => addV f rm (.fin (s1 ^^ s2) (m1 * m2) (e1 + e2)) z

/-- x / y on values (R90). -/
def divV (f : FFmt) (rm : Nat) (x y : FVal) : Nat × Nat :=
  match x, y with
  | .nan a, y => nanRes f (a || y.isSig)
  | _, .nan b => nanRes f b
  | .inf _, .inf _ => nanRes f true
  | .inf a, .fin s _ _ => (f.inf (a ^^ s), 0)
  | .fin s _ _, .inf b => (f.zero (s ^^ b), 0)
  | .fin s1 m1 e1, .fin s2 m2 e2 =>
    if m2 = 0 then (if m1 = 0 then nanRes f true else (f.inf (s1 ^^ s2), fDZ))
    else if m1 = 0 then (f.zero (s1 ^^ s2), 0)
    else
      let k := f.fb + 4 + blen m2 - blen m1
      let n := m1 * 2 ^ k
      roundF f rm (s1 ^^ s2) (n / m2) (e1 - e2 - k) (n % m2 != 0)

/-- Integer square root by binary digits, from digit k down. -/
def isqrt (n : Nat) : Nat → Nat
  | 0 => 0
  | k + 1 =>
    let hi := isqrt (n / 4) k
    let r := 2 * hi + 1
    if r * r ≤ n then r else 2 * hi

/-- √x on a value (R90). -/
def sqrtV (f : FFmt) (rm : Nat) (x : FVal) : Nat × Nat :=
  match x with
  | .nan a => nanRes f a
  | .inf s => if s then nanRes f true else (f.inf false, 0)
  | .fin s m e =>
    if m = 0 then (f.zero s, 0)
    else if s then nanRes f true
    else
      let k0 := 2 * (f.fb + 4)
      let k := if (e - k0) % 2 = 0 then k0 else k0 + 1
      let n := m * 2 ^ k
      let r := isqrt n (blen n / 2 + 1)
      roundF f rm false r ((e - k) / 2) (r * r != n)

/-- Sign of a finite or infinite value's comparison key: x < y on numbers, zeros equal. -/
def ltV : FVal → FVal → Bool
  | .nan _, _ => false
  | _, .nan _ => false
  | .inf a, .inf b => a && !b
  | .inf a, .fin _ _ _ => a
  | .fin _ _ _, .inf b => !b
  | .fin s1 m1 e1, .fin s2 m2 e2 =>
    let e := min e1 e2
    let a : Int := (m1 * 2 ^ (e1 - e).toNat : Nat)
    let b : Int := (m2 * 2 ^ (e2 - e).toNat : Nat)
    (if s1 then -a else a) < (if s2 then -b else b)

/-- x = y on numbers, zeros equal. -/
def eqV (x y : FVal) : Bool := !x.isNan && !y.isNan && !ltV x y && !ltV y x

/-- Sign bit of a number. -/
def signV : FVal → Bool
  | .nan _ => false
  | .inf s => s
  | .fin s _ _ => s

/-- minimumNumber and maximumNumber of IEEE 754-2019 on patterns (R21): the chosen pattern and the flags. -/
def minmaxF (f : FFmt) (isMax : Bool) (px py : Nat) : Nat × Nat :=
  let x := decodeF f px
  let y := decodeF f py
  let fl := if x.isSig || y.isSig then fNV else 0
  if x.isNan && y.isNan then (f.qnan, fl)
  else if x.isNan then (py, fl)
  else if y.isNan then (px, fl)
  else
    let xLess := ltV x y || (eqV x y && signV x && !signV y)
    (if xLess = isMax then py else px, fl)

/-- Comparison conditions (R90, R130). -/
inductive FCond where
  | eq | ne | lt | le | un
  deriving DecidableEq, Repr

/-- Outcome and flags of a float comparison: eq, ne and un are quiet, lt and le signalling (R90, R130). -/
def cmpF (f : FFmt) (c : FCond) (px py : Nat) : Bool × Nat :=
  let x := decodeF f px
  let y := decodeF f py
  let nan := x.isNan || y.isNan
  let sig := x.isSig || y.isSig
  match c with
  | .eq => (eqV x y, if sig then fNV else 0)
  | .ne => (!eqV x y, if sig then fNV else 0)
  | .lt => (ltV x y, if nan then fNV else 0)
  | .le => (!nan && (ltV x y || eqV x y), if nan then fNV else 0)
  | .un => (nan, if sig then fNV else 0)

/-- The class mask of a pattern (R90). -/
def classF (f : FFmt) (p : Nat) : Nat :=
  let sub := p / 2 ^ f.fb % 2 ^ f.eb == 0
  match decodeF f p with
  | .nan sig => if sig then 2 ^ 8 else 2 ^ 9
  | .inf s => if s then 2 ^ 0 else 2 ^ 7
  | .fin s m _ =>
    if m = 0 then (if s then 2 ^ 3 else 2 ^ 4)
    else if sub then (if s then 2 ^ 2 else 2 ^ 5)
    else if s then 2 ^ 1 else 2 ^ 6

/-- Binary operations of the float tables (R90, R129). -/
inductive FOp where
  | add | sub | mul | div | min | max
  deriving DecidableEq, Repr

/-- One float operation on patterns. -/
def opF (f : FFmt) (rm : Nat) (o : FOp) (px py : Nat) : Nat × Nat :=
  let x := decodeF f px
  let y := decodeF f py
  match o with
  | .add => addV f rm x y
  | .sub => addV f rm x y.neg
  | .mul => mulV f rm x y
  | .div => divV f rm x y
  | .min => minmaxF f false px py
  | .max => minmaxF f true px py

/-- x × y + z, or −(x × y) + z, on patterns (R129). -/
def fmaF (f : FFmt) (rm : Nat) (negate : Bool) (px py pz : Nat) : Nat × Nat :=
  let x := decodeF f px
  fmaV f rm (if negate then x.neg else x) (decodeF f py) (decodeF f pz)

/-- Length of the run of bits equal to lead from bit n−1 of mag downward (R22). -/
def runLen (mag : Nat) (lead : Bool) : Nat → Nat
  | 0 => 0
  | n + 1 => if mag.testBit n = lead then runLen mag lead n + 1 else 0

/-- |DecodeT(c, n)| times 2^12, for a magnitude code c of T8 (n = 7) or T6 (n = 5) (R22). -/
def taperMag (n mag : Nat) : Nat :=
  if mag = 0 then 0
  else
    let lead := mag.testBit (n - 1)
    let m := runLen mag lead n
    let k : Int := if lead then (m : Int) - 1 else -(m : Int)
    let r := n - m - 1
    let e := if r ≥ 1 then mag / 2 ^ (r - 1) % 2 else 0
    let fr := if r ≥ 2 then mag % 2 ^ (r - 1) else 0
    let fbits := if r ≥ 2 then r - 1 else 0
    let x : Int := 12 + 2 * k + e - fbits
    (2 ^ fbits + fr) * 2 ^ x.toNat

/-- n of a tapered type: bits of the magnitude field (R22). -/
def taperN : Ty → Nat
  | .t6 => 5
  | _ => 7

/-- DecodeT of R22. -/
def decodeT (n p : Nat) : FVal := .fin (p.testBit n) (taperMag n (p % 2 ^ n)) (-12)

/-- Is |V(c) − a| smaller for c than for the code best, the even one on a tie (R34); a = m·2^e. -/
def taperBetter (n : Nat) (m : Nat) (e : Int) (best c : Nat) : Bool :=
  let x : Int := e + 12
  let up := x.toNat
  let dn := (-x).toNat
  let d (k : Nat) : Nat := ((taperMag n k * 2 ^ dn : Nat) - (m * 2 ^ up : Nat) : Int).natAbs
  d c < d best || (d c == d best && c % 2 == 0)

/-- Compare m·2^e with 2^k: greater. -/
def gtPow (m : Nat) (e k : Int) : Bool :=
  let x := e - k
  1 * 2 ^ (-x).toNat < m * 2 ^ x.toNat
/-- Compare m·2^e with 2^k: less. -/
def ltPow (m : Nat) (e k : Int) : Bool :=
  let x := e - k
  m * 2 ^ x.toNat < 1 * 2 ^ (-x).toNat

/-- Round(T, x, rm) of R34: the code and the flags. A NaN gives 0 with CN, whose record the caller appends. -/
def roundT (n : Nat) (x : FVal) : Nat × Nat :=
  match x with
  | .nan _ => (0, fCN)
  | .inf s => (b2n s * 2 ^ n + (2 ^ n - 1), fSA + fNX)
  | .fin s m e =>
    if gtPow m e (2 * (n - 1 : Nat)) then (b2n s * 2 ^ n + (2 ^ n - 1), fSA + fNX)
    else
      let c := (List.range (2 ^ n)).foldl (fun b k => if taperBetter n m e b k then k else b) 0
      let uf := if m != 0 && ltPow m e (2 * (1 - (n : Int))) then fUF else 0
      let nx := if eqV (.fin false (taperMag n c) (-12)) (.fin false m e) then 0 else fNX
      (b2n s * 2 ^ n + c, uf + nx)

/-- Align9 of R38: the mantissa and the flags. -/
def align9 (x : FVal) (e : Int) : Int × Nat :=
  match x with
  | .nan _ => (0, fCN)
  | .inf s => (if s then -255 else 255, fSA)
  | .fin s m ex =>
    let sh := ex + 7 - e
    let t := m * 2 ^ sh.toNat / 2 ^ (-sh).toNat
    if 255 < t then (if s then -255 else 255, fSA)
    else (if s then -(t : Int) else t, 0)

/-- The value of an element pattern of any type; integers are exact. -/
def valOf (t : Ty) (p : Nat) : FVal :=
  if tyFloat t then decodeF (fmtOf t) p
  else if tyTaper t then decodeT (taperN t) p
  else
    let x : Int := if tySigned t then sInt p (tyW t) else (p % 2 ^ tyW t : Nat)
    .fin (x < 0) x.natAbs 0

/-- Int(x) of R125. -/
def intOf (t : Ty) (p : Nat) : Int := if tySigned t then sInt p (tyW t) else (p % 2 ^ tyW t : Nat)

/-- Bounds of an integer type. -/
def intMin (t : Ty) : Int := if tySigned t then -(2 ^ (tyW t - 1) : Nat) else 0
/-- Largest value of an integer type. -/
def intMax (t : Ty) : Int := if tySigned t then (2 ^ (tyW t - 1) : Nat) - 1 else (2 ^ tyW t : Nat) - 1

/-- x clamped to the range of an integer type. -/
def clampTo (t : Ty) (x : Int) : Int := max (intMin t) (min (intMax t) x)

/-- Fit(x) of R125. -/
def fit (t : Ty) (sat : Bool) (x : Int) : Nat := patOf (tyW t) (if sat then clampTo t x else x)

/-- A finite value rounded to an integer in rm: the integer, and whether it is inexact (R35). -/
def roundInt (rm : Nat) (s : Bool) (m : Nat) (e : Int) : Int × Bool :=
  let (n, ix) := roundAt rm s m e 0 false
  (if s then -(n : Int) else n, ix)

/-- One conversion of Table 7 of R35: the target pattern and the flags. -/
def convert (src dst : Ty) (rm : Nat) (sat : Bool) (p : Nat) : Nat × Nat :=
  let v := valOf src p
  if tyTaper dst then roundT (taperN dst) v
  else if tyFloat dst then
    match v with
    | .nan sig => nanRes (fmtOf dst) sig
    | .inf s => ((fmtOf dst).inf s, 0)
    | .fin s m e => roundF (fmtOf dst) rm s m e false
  else if tyInt src then
    let x := intOf src p
    if intMin dst ≤ x && x ≤ intMax dst then (patOf (tyW dst) x, 0)
    else if sat then (patOf (tyW dst) (clampTo dst x), fSA)
    else (patOf (tyW dst) x, 0)
  else
    match v with
    | .nan _ => (0, fNV)
    | .inf s => (patOf (tyW dst) (if s then intMin dst else intMax dst), fNV)
    | .fin s m e =>
      let (n, ix) := roundInt rm s m e
      if n < intMin dst then (patOf (tyW dst) (intMin dst), fNV)
      else if intMax dst < n then (patOf (tyW dst) (intMax dst), fNV)
      else (patOf (tyW dst) n, if ix then fNX else 0)

/-- x · 2^k on a value. -/
def FVal.scale (x : FVal) (k : Int) : FVal :=
  match x with
  | .fin s m e => .fin s m (e + k)
  | v => v

/-- Round a value to a float format (R33, R35). -/
def roundV (f : FFmt) (rm : Nat) (x : FVal) : Nat × Nat :=
  match x with
  | .nan sig => nanRes f sig
  | .inf s => (f.inf s, 0)
  | .fin s m e => roundF f rm s m e false

/-- floor(log2 |x|) of a nonzero finite value (R37). -/
def log2V (m : Nat) (e : Int) : Int := e + blen m - 1

end Sys2Proof.Machine
end

