-- ==== Sys2Proof/Machine/Access.lean ====
section
/-! DEFINITION. Memory accesses: windows and their grants (R147 to R149, R302), translation (R275 to R279), the physical
map and page attributes (R150, R163 to R166), watchpoints (R332), the scope checker (R192, R193), and reads, writes
and atomics of each kind of agent (R84, R167, R171, R197). -/

namespace Sys2Proof.Machine

/-- The walker of a core, or 256 plus the number of an indirect-stream engine (R278), or 512 for the requesters. -/
def State.tlbOf (s : State) (w : Nat) : List Tlb :=
  if w < 256 then (s.core w).tlb else sget s.engTlb [] (w - 256)
/-- Replace the cached translations of a walker. -/
def State.setTlb (s : State) (w : Nat) (l : List Tlb) : State :=
  if w < 256 then s.modCore w (fun c => { c with tlb := l })
  else { s with engTlb := sset s.engTlb [] (w - 256) l }

/-- Access bits of a record (R284). -/
def accBit : AccKind → Nat
  | .read => 1
  | .write => 2
  | .fetch => 4
  | .atomic => 8

/-- Bytes a leaf of a level maps (R275). -/
def pageSize (lvl : Nat) : Nat := 2 ^ (12 + 9 * lvl)

/-- Is an entry with V = 1 invalid at a level (R277). -/
def pteBad (p lvl : Nat) : Bool :=
  let leaf := p.testBit 3
  let dev := p.testBit 60
  p.testBit 63 || bits p 59 56 != 0 || bits p 11 7 != 0 || bits p 2 1 != 0 ||
  (dev && (p.testBit 62 || p.testBit 61)) ||
  (leaf && lvl > 2) ||
  (!leaf && (lvl == 0 || bits p 62 60 != 0 || bits p 6 4 != 0)) ||
  (leaf && bits p 55 12 * 4096 % pageSize lvl != 0)

/-- Does a leaf lack a permission the kind of access needs (R277). -/
def pteDenied (p : Nat) : AccKind → Bool
  | .read => !p.testBit 4
  | .write => !p.testBit 5
  | .atomic => !(p.testBit 4 && p.testBit 5)
  | .fetch => !p.testBit 6

/-- A translated address: physical address and attributes (R163). -/
structure Xlat where
  pa : Nat
  stream : Bool
  pointer : Bool
  device : Bool

/-- One entry of a walk: read at its home bank, or from the walker's cache (R277, R279). A miss counts for the owner; a walk without
one, of the scheduler or a requester, ends the transactions of the line first. -/
def readPte (own : Option Nat) (w root lvl t va : Nat) : M Nat := do
  let s ← get
  let key := va / pageSize lvl
  let cached := if s.move.cacheWalk then
      (s.tlbOf w).find? (fun e => e.root == root && e.lvl == lvl && e.va == key)
    else none
  match cached with
  | some e => pure e.pte
  | none =>
    let a := t + 8 * (key % (if lvl = 4 then 256 else 512))
    if own.isSome && s.accBusy a 8 then throw .block
    else
      let s := ((s.quietAt a 8).bankRead a 8 false).countMiss (own.map s.ownerOf) (!s.llcValid (a / 64))
      let p := s.rd a 8
      set (if s.move.cacheWalk && p.testBit 0 then
        s.setTlb w (({ root := root, lvl := lvl, va := key, pte := p } : Tlb) :: s.tlbOf w) else s)
      pure p

/-- Translate of R277 from level lvl down. -/
def walk (own : Option Nat) (w root va : Nat) (k : AccKind) (acc : Nat) : Nat → Nat → M Xlat
  | lvl, t => do
    if !(← get).cacheable t then throw (.freeze 0x22 va acc)
    let p ← readPte own w root lvl t va
    if !p.testBit 0 then throw (.fault lvl va acc)
    if pteBad p lvl then throw (.freeze 0x22 va acc)
    if p.testBit 3 then
      if k = .fetch && p.testBit 60 then throw (.freeze 0x23 va acc)
      if pteDenied p k then throw (.freeze 0x21 va acc)
      pure { pa := bits p 55 12 * 4096 + va % pageSize lvl, stream := p.testBit 62,
             pointer := p.testBit 61, device := p.testBit 60 }
    else
      match lvl with
      | 0 => throw (.freeze 0x22 va acc)
      | l + 1 => walk own w root va k acc l (bits p 55 12 * 4096)

/-- A piece of an access within one page: its location and how it is performed. -/
structure Piece where
  loc : Nat
  n : Nat
  /-- performed at the slice (STREAM pages, remote locations) -/
  slice : Bool
  pointer : Bool
  /-- register space or another DEVICE location -/
  device : Bool
  /-- a local window -/
  window : Bool
  deriving DecidableEq, Repr

/-- Who makes an access, for the rules that differ (R166). -/
inductive Agent where
  | scalar | vector | engine
  deriving DecidableEq, Repr

/-- Is a core granted to a launch (R302). -/
def Launch.hasCore (l : Launch) (c : Nat) : Bool := (sfind l.rows c).isSome
/-- Is a scratchpad range granted to a launch (R302). -/
def Launch.hasSpad (l : Launch) (o n : Nat) : Bool :=
  l.par.spoff * 4096 ≤ o && o + n ≤ (l.par.spoff + l.par.spsz) * 4096
/-- Is a range of a vault granted to a launch (R302 Table 5). The vault of a column with no working core, which R11 leaves addressable, is
granted to none (DESIGN CHOICE, log entry 72). -/
def Launch.hasVault (l : Launch) (v o n : Nat) : Bool :=
  l.rows.any (fun e => e.1 / 8 == v) && l.par.voff * 2 ^ 20 ≤ o && o + n ≤ (l.par.voff + l.par.vsz) * 2 ^ 20
/-- Is a range of the Electrum region of a tower granted to a launch (R219, R302). -/
def Launch.hasElec (l : Launch) (tower o n : Nat) : Bool :=
  (sfind l.towers tower).isSome && l.par.eoff * 128 ≤ o && o + n ≤ (l.par.eoff + l.par.esz) * 128

/-- A window access of hart h's core (R147, R148): the location, or the event code of the violation; of several, the size comes first, then
the kind, then the grant (DESIGN CHOICE, log entry 62). -/
def State.window (s : State) (h va n : Nat) (k : AccKind) : Except Nat Nat :=
  let c := coreOf h
  let o := va % 2 ^ 32
  let sel := bits va 47 32
  let inV (v o : Nat) : Except Nat Nat :=
    if (s.launchOf h).any (fun l => l.hasVault v o n) then .ok (locVault v o) else .error 0x24
  match sel with
  | 0 => if spadSize < o + n then .error 0x20
         else if (s.launchOf h).any (fun l => l.hasSpad o n) then .ok (locSpad c o) else .error 0x24
  | 1 => if vaultSize < o + n then .error 0x20 else inV (c / 8) o
  | 2 => if 2 ^ 29 < o + n then .error 0x20 else inV (towerOf c * 8 + o / vaultSize) (o % vaultSize)
  | 3 => if 2 ^ 31 < o + n then .error 0x20 else inV (o / vaultSize) (o % vaultSize)
  | 4 => if elecSize < o + n then .error 0x20
         else if k = .write || k = .atomic then .error 0x23
         else if (s.launchOf h).any (fun l => l.hasElec (towerOf c) o n) then
           .ok (locElec (towerOf c) (layerOf c) o)
         else .error 0x24
  | _ => .error 0x20

/-- The physical map and the attribute rules (R150, R166, R169, R312): none, or the event code of the violation; of several, an offset outside
the map comes first (DESIGN CHOICE, log entry 62). -/
def State.mapProblem (s : State) (x : Xlat) (n : Nat) (k : AccKind) (ag : Agent) : Option Nat :=
  let o := offOf x.pa
  if pkgOf x.pa ≠ s.pkg then (if o < hostBase then (if x.device && (ag ≠ .scalar || k = .atomic) then some 0x23 else none) else some 0x20)
  else if regEnd ≤ o then some 0x20
  else if regBase ≤ o && !x.device then some 0x20
  else if x.device then
    if ag ≠ .scalar || k = .atomic || k = .fetch then some 0x23
    else if regBase ≤ o && n ≠ 8 then some 0x23
    else none
  else none

/-- Resolve one piece of an access that stays within a page. (DEDUCED, log entry 53) -/
def resolvePiece (h w va n : Nat) (k : AccKind) (ag : Agent) : M Piece := do
  let acc := accBit k
  if 2 ^ 56 ≤ va then throw (.freeze 0x20 va acc)
  let s ← get
  if va / 2 ^ 48 = 0xFF then
    match s.window h va n k with
    | .ok loc => pure { loc := loc, n := n, slice := false, pointer := false, device := false, window := true }
    | .error c => throw (.freeze c va acc)
  else
    let root := s.rootOf h
    let x ← walk (some h) w root va k acc 4 root
    match (← get).mapProblem x n k ag with
    | some c => throw (.freeze c va acc)
    | none => pure { loc := x.pa, n := n, slice := x.stream || pkgOf x.pa ≠ s.pkg, pointer := x.pointer,
                     device := x.device, window := false }

/-- Does an access of hart h hit a watchpoint (R332). -/
def State.watched (s : State) (h va n : Nat) (k : AccKind) : Bool :=
  s.dbgOf h && s.dbg.watch.any (fun w =>
    let lh := bits w.2.toNat 63 32
    let a := bits w.1.toNat 55 0
    let kb := match k with
      | .read => w.2.toNat.testBit 0
      | .write => w.2.toNat.testBit 1
      | .atomic => w.2.toNat.testBit 2
      | .fetch => w.2.toNat.testBit 3
    lh != 0 && lh == s.seqOf h && kb && va < a + 2 ^ bits w.2.toNat 13 8 && a < va + n)

/-- The machine as a computation leaves it, stopped or not. -/
def leftBy {α : Type} : EStateM.Result Stop State α → State
  | .ok _ s => s
  | .error _ s => s

/-- Resolve an access of n bytes by hart h's task: the tests of R197, without performing it. A violation on any byte
comes before a fault, and a fault before a watchpoint. -/
def resolve (h w va n : Nat) (k : AccKind) (ag : Agent) : M (List Piece) := do
  let n1 := min n (4096 - va % 4096)
  let ps ← (if n1 = n then do
      let p ← resolvePiece h w va n k ag
      pure [p]
    else do
      let s ← get
      let r1 := (resolvePiece h w va n1 k ag).run s
      let r2 := (resolvePiece h w ((va + n1) % 2 ^ 64) (n - n1) k ag).run (leftBy r1)
      set (leftBy r2)
      match r1, r2 with
      | .error (.freeze c a b) _, _ => throw (.freeze c a b)
      | _, .error (.freeze c a b) _ => throw (.freeze c a b)
      | .error e _, _ => throw e
      | _, .error e _ => throw e
      | .ok p _, .ok q _ => pure [p, q])
  let s ← get
  if s.watched h va n k then throw (.freeze 0x2A va (accBit k))
  if ps.any (fun p => !p.window && s.accBusy p.loc p.n) then throw .block
  pure ps

/-! ### The scope checker (R192, R193) -/

/-- The report of an acquire of hart h at a scope, by the instruction at an address of a pipe, whose read returned a value of lines
with tags (R193, R334): one record for each; where both cases of R193 hold, CASE is 0 (DESIGN CHOICE, log entry 65). -/
def State.scopeReport (s : State) (h scope pipe unit addr : Nat) (r : LastRead) : State :=
  r.tags.foldl (fun s t =>
    let c0 := !sameGroup t.scope t.hart h
    let c1 := !sameGroup scope h t.hart
    if !s.dbgOf h || !(c0 || c1) then s
    else
      let s := s.count h 13 1
      s.traceCore h 3 pipe unit 0 addr
        [r.va, t.scope * 2 ^ 61 + scope * 2 ^ 58 + b2n (!c0) * 2 ^ 57 + s.pkg * 2 ^ 24 +
             s.logical (coreOf t.hart) * 2 ^ 16 + t.hart % 4 * 2 ^ 8]) s

/-- Pieces as locations with their lengths. -/
def spans (ps : List Piece) : List (Nat × Nat) := ps.map (fun p => (p.loc, p.n))

/-- The lines of pieces that a release write of hart h tags directly (AMO, WMPUB, publish). -/
def State.tagWrite (s : State) (h scope : Nat) (ps : List Piece) : State :=
  if !s.dbgOf h then s else (spans ps).foldl (fun s p => s.putTags h scope p.1 p.2) s

/-- The acquire read of pieces by hart h, directly: an atomic, WAITGE, VLDW, a versioned table (R192), by an instruction of a pipe, on a
unit, at an address. -/
def State.tagRead (s : State) (h scope pipe unit addr : Nat) (ps : List Piece) (va : Nat) : State :=
  s.scopeReport h scope pipe unit addr ⟨va, (spans ps).flatMap (fun p => s.tagsAt p.1 p.2)⟩

/-! ### Performing vector and engine accesses, and atomics -/

/-- A piece is performed at its home bank, unless it lies in a window; a miss is counted for its owner (R160, R335). -/
def State.bankFor (s : State) (own : Option Nat) (write : Bool) (p : Piece) : State :=
  if p.window then s else s.bankDo (own.map s.ownerOf) write p.loc p.n p.pointer

/-- Little-endian number read from the pieces of a vector or engine access, performed at the slice or at the window's
memory (R149, R196). -/
def readPieces (h va : Nat) (ps : List Piece) : M Nat := do
  modify (fun s => (ps.foldl (fun s p => s.bankFor (some h) false p) s).noteRead h false (spans ps) va)
  let s ← get
  pure (ofLe (ps.flatMap (fun p => rdBytes s.mem p.loc p.n)))

/-- Write a number to pieces, each at its home bank or in its window. -/
def State.wrPieces (s : State) (h v : Nat) : List Piece → State
  | [] => s
  | p :: t => ((s.bankFor (some h) true p).wr p.loc p.n v).wrPieces h (v / 2 ^ (8 * p.n)) t

/-- Write a number to the pieces of an access of queue entry id of hart h, or of the engine that runs its command. -/
def writePieces (h id v : Nat) (ps : List Piece) : M Unit :=
  modify (fun s => (s.wrPieces h v ps).noteWrite h (some id) (spans ps))

/-- A read of n bytes by hart h's vector agent or by an engine it commands, with walker w (R171). -/
def vread (h w va n : Nat) (ag : Agent) : M Nat := do
  let ps ← resolve h w va n .read ag
  readPieces h va ps

/-- A write of n bytes by queue entry id of hart h, or by the engine that runs its command (R171). -/
def vwrite (h id w va n v : Nat) (ag : Agent) : M Unit := do
  let ps ← resolve h w va n .write ag
  writePieces h id v ps

/-- Op(op, old, b) of Table 6 of R201, on n bytes. -/
def atomicOp (op n old b : Nat) : Nat :=
  let w := 8 * n
  match op with
  | 0 => b % 2 ^ w
  | 1 => (old + b) % 2 ^ w
  | 2 => old &&& b
  | 3 => old ||| b
  | 4 => old ^^^ b
  | 5 => if sInt b w < sInt old w then b % 2 ^ w else old
  | 6 => if sInt old w < sInt b w then b % 2 ^ w else old
  | 7 => if b % 2 ^ w < old then b % 2 ^ w else old
  | 8 => if old < b % 2 ^ w then b % 2 ^ w else old
  | 9 => (opF (fmtOf (if n = 8 then .f64 else .f32)) 0 .add old (b % 2 ^ w)).1
  | _ => old

/-- An atomic at its pieces: reads the old value and writes the new one with nothing between (R167, R181). -/
def atomicPieces (h id va : Nat) (ps : List Piece) (n : Nat) (f : Nat → Option Nat) : M Nat := do
  let s ← get
  let s := (ps.foldl (fun s p => s.bankFor (some h) true p) s).count h 10 1
  set (s.noteRead h false (spans ps) va)
  let old := ofLe (ps.flatMap (fun p => rdBytes s.mem p.loc p.n))
  match f old with
  | some v => writePieces h id v ps
  | none => pure ()
  pure (old % 2 ^ (8 * n))

/-- A slice atomic by hart h's vector agent or an engine (R199). -/
def vatomic (h id w va n : Nat) (ag : Agent) (f : Nat → Option Nat) : M Nat := do
  let ps ← resolve h w va n .atomic ag
  atomicPieces h id va ps n f

/-- Lines an instruction cache holds: 64 KiB (R8). -/
def icacheLines : Nat := 1024

/-- A fetch of a core's instruction cache: a line it holds is not read at its home bank; another is, and takes the place of the
oldest when the cache is full (R8; DESIGN CHOICE, log entries 14 and 57). -/
def State.icFetch (s : State) (h : Nat) (p : Piece) : State :=
  let c := coreOf h
  if !s.cacheable p.loc then s.bankFor (some h) false p
  else if (s.core c).icache.contains (p.loc / 64) then s
  else
    (s.bankFor (some h) false p).modCore c (fun k =>
      { k with icache := k.icache.drop (k.icache.length + 1 - icacheLines) ++ [p.loc / 64] })

/-- Fetch the instruction word at an address for hart h (R72, R97, R166). The word is the one that memory holds (DESIGN CHOICE,
log entry 14). -/
def fetchWord (h va : Nat) : M (BitVec 32) := do
  let ps ← resolve h (coreOf h) va 4 .fetch .scalar
  let s ← get
  set (ps.foldl (fun s p => s.icFetch h p) s)
  pure (BitVec.ofNat 32 (ofLe (ps.flatMap (fun p => rdBytes s.mem p.loc p.n))))

end Sys2Proof.Machine
end

