-- ==== Sys2Proof/Machine/Orders.lean ====
section
/-! DEFINITION. Orders between the accesses of a hart (R172, R182 to R186, R191, R224): what a fence waits for, and the orders that an
operation leaves for later accesses to keep. -/

namespace Sys2Proof.Machine

/-! ### Which queue entries read and write memory or matrix state (R171, R252) -/

/-- Does an entry only write: stores, Electrum writes, FST, and conversions that append records of the exception list. -/
def Entry.stores (e : Entry) : Bool :=
  let m := e.major
  (0x63 ≤ m && m ≤ 0x65) || m == 0x6F || (m == 0x70 && e.func4 != 0) || ((m == 0x48 || m == 0x49) && e.xle)

/-- Does a queue entry access memory or matrix state, as an access of the vector agent (R171, R252). SCLOSE accesses
nothing. -/
def Entry.accesses (e : Entry) : Bool :=
  let m := e.major
  (0x60 ≤ m && m ≤ 0x67) || (0x6C ≤ m && m ≤ 0x71 && !(m == 0x6D && 4 ≤ e.func4)) || (0x78 ≤ m && m ≤ 0x7B) ||
  ((m == 0x48 || m == 0x49) && e.xle)

/-- Does an entry read: every access but one that only writes. -/
def Entry.reads (e : Entry) : Bool := e.accesses && !e.stores

/-- Does an entry write: atomics, engine commands and the matrix unit count as both kinds (R182). -/
def Entry.writes (e : Entry) : Bool :=
  let m := e.major
  e.accesses && (e.stores || m == 0x67 || (0x6C ≤ m && m ≤ 0x6E) || (0x78 ≤ m && m ≤ 0x7B))

/-! ### Engines and Electrum -/

/-- Is every engine command of the task on hart h complete, stopped or frozen (R207). -/
def State.enginesDone (s : State) (h : Nat) : Bool :=
  let t := (s.hart h).task
  let mine (o : Option (Nat × Nat)) : Bool := o.any (fun x => x.1 == h && some x.2 == t)
  (s.core (coreOf h)).chans.all (fun e => !(mine e.2.owner && e.2.state == 1)) &&
  (s.core (coreOf h)).streams.all (fun e => !(mine e.2.owner && e.2.hold != .frozen)) &&
  s.engines.all (fun e => e.2.all (fun x => !(x.hart == h && some x.task == t && x.hold != .frozen)))

/-- Is a copy awake: the master, or a replica on an active layer (R230). -/
def Tower.awake (x : Tower) (k : Nat) : Bool := k == 8 || x.layers.getD k .active == .active

/-- Has every awake copy of the tower of hart h applied the slot writes the hart has issued or observed (R191, R224). -/
def State.elecDone (s : State) (h : Nat) : Bool :=
  let x := s.tower (towerOf (coreOf h))
  let need := max (s.ctx h).elecEnd (s.ctx h).elecSeen
  (List.range 9).all (fun k => !x.awake k || need ≤ nth x.applied k)

/-! ### Fences (R182, R184) -/

/-- Does an order hold a release part: 1 release, 2 acquire-release, 3 sequentially consistent (R182). -/
def isRelease (order : Nat) : Bool := order != 0
/-- Does an order hold an acquire part: 0 acquire, 2, 3 (R182). -/
def isAcquire (order : Nat) : Bool := order != 1
/-- Is the scalar agent in the source set of a direction: 0 scalar→vector, 3 all (R182). -/
def srcScalar (dir : Nat) : Bool := dir == 0 || dir == 3
/-- Is the vector agent in the source set: 1 vector→scalar, 2 vector→vector, 3 all. -/
def srcVector (dir : Nat) : Bool := dir != 0
/-- Is the scalar agent in the target set. -/
def dstScalar (dir : Nat) : Bool := dir == 1 || dir == 3
/-- Is the vector agent in the target set. -/
def dstVector (dir : Nat) : Bool := dir != 1

/-- The orders that the acquire part of a fence keeps: earlier reads before later accesses (Table 5 of R182). -/
def acquireOrder (dir id : Nat) : Gate :=
  { id := id, srcS := srcScalar dir, srcV := srcVector dir, dstS := dstScalar dir, dstV := dstVector dir,
    fromWrites := false, toReads := true, elec := false }
/-- The orders that the release part of a fence keeps: earlier accesses before later writes, once the Electrum copies have applied
what the hart issued or observed (Table 5 of R182, R191, R224). -/
def releaseOrder (dir id : Nat) : Gate := { acquireOrder dir id with fromWrites := true, toReads := false, elec := true }
/-- The orders of a fence (Table 5 of R182): sequentially consistent order keeps earlier writes before later reads too. -/
def fenceOrders (order dir id : Nat) : List Gate :=
  match order with
  | 0 => [acquireOrder dir id]
  | 1 => [releaseOrder dir id]
  | 2 => [acquireOrder dir id, releaseOrder dir id]
  | _ => [{ releaseOrder dir id with toReads := true }]

/-- Have the earlier accesses of an order been performed, vq being the earlier entries: a load in flight, stores in flight, queued
accesses, engine commands, Electrum writes (R184, R191, R207, R224). (DEDUCED, log entry 33) -/
def State.performed (s : State) (h : Nat) (vq : List Entry) (g : Gate) : Bool :=
  (!g.srcS || ((s.hart h).load.isNone && (!g.fromWrites || (s.hart h).pend.isEmpty))) &&
  (!g.srcV || (vq.all (fun e => !(e.reads || g.fromWrites && e.writes)) && s.enginesDone h)) &&
  (!g.elec || (vq.all (fun e => !(e.major == 0x6F)) && s.elecDone h))

/-- Have the earlier accesses that a fence orders been performed (R184, R191, R224). Earlier entries are those of vq that the caller
gives. -/
def State.fenceReady (s : State) (h order dir : Nat) (vq : List Entry) : Bool :=
  (fenceOrders order dir 0).all (s.performed h vq)

/-! ### Orders kept for later accesses (R182, R186) -/

/-- Has an order been kept: every earlier access it names is performed. -/
def State.gateDone (s : State) (h : Nat) (g : Gate) : Bool :=
  s.performed h ((s.ctx h).vq.filter (fun e => e.id < g.id)) g

/-- Leave orders for the later accesses of hart h to keep; those already kept are dropped. -/
def State.keepOrders (s : State) (h : Nat) (gs : List Gate) : State :=
  s.modCtx h (fun c => { c with gates := (c.gates ++ gs).filter (fun g => !s.gateDone h g) })

/-- The acquire part of a synchronising operation that executes now at hart h, of all directions: later accesses keep behind the
earlier reads (R186). -/
def State.acquireGate (s : State) (h : Nat) : State := s.keepOrders h [acquireOrder 3 (s.ctx h).nextId]

/-- Hart h has observed the slot order of its tower up to a count (R191). -/
def State.sawElec (s : State) (h n : Nat) : State := s.modCtx h (fun c => { c with elecSeen := max c.elecSeen n })

/-- Must an access of hart h wait for an order: one by its scalar agent, or by its vector agent in entry id. -/
def State.gated (s : State) (h : Nat) (scalar write : Bool) (id : Nat) : Bool :=
  (s.ctx h).gates.any (fun g => (if scalar then g.dstS else g.dstV) && g.id ≤ id && (write || g.toReads) && !s.gateDone h g)

/-- Must a queue entry wait for an order before it begins. -/
def State.entryGated (s : State) (h : Nat) (e : Entry) : Bool := e.accesses && s.gated h false e.writes e.id

end Sys2Proof.Machine
end

