-- ==== Sys2Proof/Machine/Operands.lean ====
section
/-! DEFINITION. Operand forms of the vector unit: masks, second sources and cross-lane modifiers (R77, R119, R123), the
description of a vector instruction (VSem) that issue and the sequencer use, exception-list records
(R30 to R32), lane groups (R15, R331), and interlock ranges (R174, R175). -/

namespace Sys2Proof.Machine

/-- A set of address ranges, first and last byte. -/
abbrev Ranges := List (Nat × Nat)

/-- What an access brings to the interlock table: its owner, its recorded ranges (R174), and the blocks of other packages that it touches,
recorded or not (R169). -/
structure Claim where
  owner : IlOwner
  reads : Ranges
  writes : Ranges
  far : Ranges

/-- Does an access come to the table at all: one that touches nothing does not. -/
def Claim.some? (k : Claim) : Bool := !(k.reads.isEmpty && k.writes.isEmpty && k.far.isEmpty)
/-- The entry it takes. -/
def Claim.entry (k : Claim) : Ilock := ⟨k.owner, k.reads, k.writes, k.far⟩

/-- Where an element of a vector memory instruction lies: address of its first byte, bit offset in it, and bytes touched (R195). -/
structure Elt where
  addr : Nat
  shift : Nat
  n : Nat

/-- How a vector-queue instruction issues and runs. -/
structure VSem where
  /-- governing width in bits (R45) -/
  w : Nat
  /-- widths of the source (or index) elements and of the destination elements -/
  sw : Nat := w
  dw : Nat := w
  /-- register names of destination and sources; opA, opB, opC are the scalar registers of names a, b, c -/
  d : Nat := 0
  a : Nat := 0
  b : Nat := 0
  c : Nat := 0
  /-- vector names that must be multiples of ROWS (R44) -/
  swept : List Nat := []
  /-- the destination is a scalar register (R48) -/
  sdst : Bool := false
  /-- the further checks made at issue that make the word illegal (R122, R134 to R138, R227) -/
  bad : Entry → Bool := fun _ => false
  /-- address of a misalignment trap at issue (cause 2) -/
  misaligned : Entry → Option Word := fun _ => none
  kind : VKind := .elem
  /-- number of elements of a divisible instruction -/
  total : State → Nat → Entry → Nat := fun _ _ e => e.rows * e.vle
  /-- whole effect of element p: its flags -/
  elem : Nat → Entry → Nat → M Nat := fun _ _ _ => pure 0
  /-- where element p of a vector memory instruction lies, and whether it is active -/
  place : Option (Ctx → Entry → Nat → Bool × Elt) := none
  /-- can append exception-list records as its elements commit (R30) -/
  records : Bool := false
  /-- what a load reads for element p, when its lane group runs ahead of the others (R59) -/
  ahead : Nat → Entry → Nat → M (Option Nat) := fun _ _ _ => pure none
  /-- whole effect of an indivisible instruction: flags with their indexes, and elements to record (R30) -/
  whole : Nat → Entry → M (List (Nat × Nat) × List Nat) := fun _ _ => pure ([], [])
  /-- one commit of a progress-class instruction: the entry, its flags with their indexes, and whether it is finished -/
  prog : Nat → Entry → M (Entry × List (Nat × Nat) × Bool) := fun _ e => pure (e, [], true)
  /-- beginning of a progress-class instruction -/
  start : Nat → Entry → M Entry := fun _ e => pure e
  /-- can raise a status flag, and so replaces FEXCA and FEXCB (R67) -/
  flags : Bool := false
  /-- read and write ranges (R174 Table 2) -/
  ranges : State → Nat → Entry → Ranges × Ranges := fun _ _ _ => ([], [])
  /-- every range it accesses, where these are not the recorded ones (R169) -/
  touches : Option (State → Nat → Entry → Ranges) := none
  /-- what an engine command claims once it has read its descriptor (R207) -/
  command : Option (Nat → Entry → M Claim) := none
  /-- queue registers it names (R101, R145) -/
  queues : List Nat := []
  /-- trace pipe and unit (R333) -/
  pipe : Nat := 1
  unit : Nat := 0
  /-- an engine command, whose trace records are written at its dispatch and its end -/
  engine : Bool := false

/-- XSrc of R77: the element of a row that destination element i reads, or 0. -/
def xsrc (c : Ctx) (xmod reg w vle i : Nat) : Nat :=
  let b := i / 8 * 8
  let j : Int := match xmod with
    | 0 => i
    | 1 => (i : Int) - 1
    | 2 => i + 1
    | 3 => (i ^^^ 1 : Nat)
    | 4 => (i ^^^ 2 : Nat)
    | 5 => (i ^^^ 4 : Nat)
    | 6 => b
    | _ => b + 7 - ((i : Int) - b)
  if j < b || (b : Int) + 7 < j || (vle : Int) ≤ j then 0 else c.vel reg w j.toNat

/-- The second source of an instruction: a vector register with its modifier, or the captured scalar (R119, R123). -/
inductive Src2 where
  | vec
  | scal
  deriving DecidableEq, Repr

/-- Bsrc(r, i) of R123. -/
def bsrc (k : Src2) (c : Ctx) (p : Pfx) (e : Entry) (w r i : Nat) : Nat :=
  match k with
  | .vec => xsrc c p.xmod.toNat (e.physB + r) w e.vle i
  | .scal => e.opB.toNat % 2 ^ w

/-- Overlap of register ranges (R122). -/
def regOverlap (a n b m : Nat) : Bool := a < b + m && b < a + n

/-- Illegal: the destination overlaps a second source with a modifier (R122). -/
def badXmod (k : Src2) (p : Pfx) (e : Entry) : Bool :=
  k == .vec && p.xmod != 0 && regOverlap e.physD e.rows e.physB e.rows

/-- Raise flags of an element and merge its minima. -/
def Entry.note (e : Entry) (fl p : Nat) : Entry := { e with mins := minFlags e.mins fl p }

/-- Raise flags on a hart (R27). -/
def raiseM (h fl : Nat) : M Unit := if fl = 0 then pure () else modify (fun s => s.modCtx h (fun c => c.raise fl))

/-- Append the exception-list record of an element (R30 to R32). Both accesses are tested before either is performed. -/
def appendRec (h : Nat) (e : Entry) (elem : Nat) : M Unit := do
  if !e.xle then pure ()
  else
    let w := coreOf h
    let base := e.xbase * 4096
    let cap := 2 ^ (e.xsz + 6) - 1
    let ps ← resolve h w base 8 .atomic .vector
    let s ← get
    let n := ofLe (ps.flatMap (fun p => rdBytes s.mem p.loc p.n))
    if n < cap then
      let qs ← resolve h w (base + 8 + 8 * n) 8 .write .vector
      let _ ← atomicPieces h e.id base ps 8 (fun o => some ((o + 1) % 2 ^ 64))
      writePieces h e.id (elem % 2 ^ 15 * 2 ^ 49 + bits e.addr 50 2) qs
    else
      let _ ← atomicPieces h e.id base ps 8 (fun o => some ((o + 1) % 2 ^ 64))
      modify (fun s => s.modCtx h (fun c => { c with xlovf := true }))

/-- One element of Elementwise(F) of R123, with the policy for inactive elements; dw is the destination width. -/
def elementwise (p : Pfx) (dw : Nat) (f : Ctx → Entry → Nat → Nat → Nat → Nat × Nat) (h : Nat) (e : Entry) (k : Nat) :
    M Nat := do
  let c := (← get).ctx h
  let r := e.row k
  let i := e.pos k
  if c.mbit p.m.toNat k then
    let (v, fl) := f c e r i k
    if fl.testBit 5 then appendRec h e k
    modify (fun s => s.modCtx h (fun c => c.setVel (e.physD + r) dw i v))
    pure fl
  else
    if p.pol = 1 then modify (fun s => s.modCtx h (fun c => c.setVel (e.physD + r) dw i 0))
    pure 0

/-! ### Interlock ranges (R174, R175) -/

/-- The key under which an address is compared: the location of a window address, else the virtual address. -/
def rangeKey (h va : Nat) : Nat :=
  let c := coreOf h
  let o := va % 2 ^ 32
  if va / 2 ^ 48 = 0xFF then
    match bits va 47 32 with
    | 0 => locSpad c o
    | 1 => locVault (c / 8) o
    | 2 => locVault (towerOf c * 8) o
    | 3 => locVault 0 o
    | 4 => locElec (towerOf c) 0 o
    | _ => va
  else va

/-- The first address of the local windows. -/
def windowBase : Nat := 0xFF * 2 ^ 48

/-- Blocks of the addresses from lo up to hi, which lie in one window or in none; empty when there are none. -/
def winBlocks (h lo hi : Nat) : Ranges :=
  if lo < hi then [(rangeKey h lo / 64, (rangeKey h lo + (hi - lo) - 1) / 64)] else []

/-- Blocks of the addresses from lo up to hi, the part of each window converted on its own (R175). -/
def spanBlocks (h lo hi : Nat) : Ranges :=
  winBlocks h lo (min hi windowBase) ++
  (List.range 5).flatMap (fun k =>
    let b := windowBase + k * 2 ^ 32
    winBlocks h (max lo b) (min hi (b + 2 ^ 32))) ++
  winBlocks h (max lo (windowBase + 5 * 2 ^ 32)) hi

/-- A byte range as ranges of 64-byte blocks; addresses wrap at 2^64 (R175). -/
def blockRange (h va n : Nat) : Ranges := spanBlocks h va (min (va + n) (2 ^ 64)) ++ spanBlocks h 0 (va + n - 2 ^ 64)

/-- Do two sets of block ranges share a block. -/
def rangesMeet (a b : Ranges) : Bool := a.any (fun x => b.any (fun y => x.1 ≤ y.2 && y.1 ≤ x.2))

/-- Must a new access wait for an earlier one (R174). -/
def ilockBlocks (l : Ilock) (rd wr : Ranges) : Bool :=
  rangesMeet wr l.reads || rangesMeet wr l.writes || rangesMeet rd l.writes

/-- The interlock entries of a hart that still hold: an EST or EADD is released once its last slot write is applied at the
replica of the hart's layer (R224). -/
def State.liveIlocks (s : State) (h : Nat) : List Ilock :=
  let c := coreOf h
  let n := nth (s.tower (towerOf c)).applied (layerOf c)
  (s.ctx h).ilocks.filter (fun l => match l.owner with
    | .electrum o => n ≤ o
    | _ => true)

/-- The physical page of another package that a virtual page of hart h is mapped to, if it is (R150). -/
def State.farPage (s : State) (h page : Nat) : Option Nat :=
  let via (k : AccKind) : Option Nat :=
    match (walk none (coreOf h) (s.rootOf h) (page * 4096) k 1 4 (s.rootOf h)).run s with
    | .ok x _ => if pkgOf x.pa = s.pkg then none else some (x.pa / 4096)
    | .error _ _ => none
  if windowBase ≤ page * 4096 then none else (via .read).or (via .write)

/-- The blocks of other packages that ranges of hart h's addresses denote (R169). -/
def State.farOf (s : State) (h : Nat) (r : Ranges) : Ranges :=
  r.flatMap (fun x => (List.range (x.2 / 64 - x.1 / 64 + 1)).filterMap (fun k =>
    let page := x.1 / 64 + k
    (s.farPage h page).map (fun q => (q * 64 + (x.1 - page * 64), q * 64 + min 63 (x.2 - page * 64)))))

/-- The claim of an entry that is no engine command. -/
def VSem.claim (sem : VSem) (s : State) (h : Nat) (e : Entry) : Claim :=
  let (rd, wr) := sem.ranges s h e
  let all := match sem.touches with
    | some f => f s h e
    | none => rd ++ wr
  { owner := .entry e.id, reads := rd, writes := wr, far := s.farOf h all }

/-- The claim of an entry with the table: of an engine command, none until its descriptor can be read. -/
def VSem.claimNow (sem : VSem) (s : State) (h : Nat) (e : Entry) : Option Claim :=
  match sem.command with
  | none => some (sem.claim s h e)
  | some f => match (f h e).run s with
    | .ok k _ => some k
    | .error _ _ => none

/-- The versioned command of hart h that an interlock entry is of (R215). -/
def State.versioned (s : State) (h : Nat) (l : Ilock) : Option Istr :=
  match l.owner with
  | .istr g => (sget s.engines [] g).find? (fun x => x.hart == h && some x.task == (s.hart h).task && (wnth x.words 1).testBit 47)
  | _ => none
/-- Rows 0 to limit − 1 of a table at a base (R215). -/
def tableRows (h base : Nat) (w : List Word) : Ranges := blockRange h base ((wnth w 5 - 1) * wnth w 4 + wnth w 3)

/-- Does an access that touches blocks of other packages share one with an earlier access of hart h, whose entry holds: the accesses of one
agent to a remote location keep program order (R169). Where the rows of an earlier versioned table lie is known once its command has
begun. (DEDUCED, log entry 64) -/
def State.farWaits (s : State) (h : Nat) (far : Ranges) (l : Ilock) : Bool :=
  !far.isEmpty && (rangesMeet far l.far || (s.versioned h l).any (fun x => !x.begun || rangesMeet far (s.farOf h (tableRows h x.base x.words))))

/-- Must a new access of hart h wait for an earlier one: by the interlock table (R174), or for a remote location that both touch (R169). -/
def State.ilockWaits (s : State) (h : Nat) (k : Claim) (l : Ilock) : Bool :=
  ilockBlocks l k.reads k.writes || s.farWaits h k.far l

/-- Must a new access of hart h wait, live being the entries that hold: for one of them, or for a free entry (R174). -/
def State.tableBlocks (s : State) (h : Nat) (live : List Ilock) (k : Claim) : Bool :=
  k.some? && (live.any (s.ilockWaits h k) || 16 ≤ live.length)

/-- The exception list's range, for an instruction that may append to it (R174). -/
def listRange (h : Nat) (e : Entry) : Ranges :=
  if e.xle then blockRange h (e.xbase * 4096) (8 + 8 * (2 ^ (e.xsz + 6) - 1)) else []

/-- Lowest to highest byte of a list of element addresses, each of n bytes. -/
def spanOf (h n : Nat) (as : List Nat) : Ranges :=
  match as with
  | [] => []
  | a :: t =>
    let lo := t.foldl min a
    let hi := t.foldl max a
    blockRange h lo (hi + n - lo)

/-- The active elements of an entry at or above its ESTART. -/
def activeEls (c : Ctx) (m : Nat) (e : Entry) (total : Nat) : List Nat :=
  ((List.range (total - e.estart)).map (· + e.estart)).filter (fun p => c.mbit m p)

end Sys2Proof.Machine
end

