-- ==== Sys2Proof/Machine/Issue.lean ====
section
/-! DEFINITION. Issue of vector instructions (R47, R48), the run of the oldest queue entry (R49 to R53, R59, R60),
completion (R67), and what a stop does to it (R197, R282, R291). -/

namespace Sys2Proof.Machine

/-- s34 of an illegal encoding: P word in [63:32], base word in [31:0] (R104 Table 16). -/
def illegalVal (pre : Option (BitVec 32)) (base : BitVec 32) : Word :=
  w64 ((pre.map BitVec.toNat).getD 0 * 2 ^ 32 + base.toNat)

/-- The entry an instruction makes at issue: every capture of R47. Of FLD and FST, C holds the base of the value array. A name stands for
both files, and an operand that the instruction does not have is that of name 0. (DESIGN CHOICE, log entry 61) -/
def mkEntry (c : Ctx) (maxb : Nat) (word : BitVec 32) (pre : Option (BitVec 32)) (sem : VSem) : Entry :=
  let rm := match pre with
    | some p => bits p.toNat 15 13
    | none => 7
  let wm := if word.toNat % 128 = 0x66 then sfind c.wmarks (bits word.toNat 29 28) else none
  { id := c.nextId, word := word, pre := pre, addr := c.pc.toNat,
    opA := c.getS sem.a, opB := c.getS sem.b, opC := c.getS sem.c,
    vle := min c.vl (maxb * 8 / sem.w), rows := c.rows, rm := if rm = 7 then c.rm else rm,
    maxb := maxb, vl := c.vl,
    physD := if sem.sdst then physS c sem.d else physV c sem.d,
    physA := physV c sem.a, physB := physV c sem.b, physC := physV c sem.c,
    xsz := c.xsz, xbase := c.xbase, xle := c.xle,
    estart := 0, begun := false, pendRec := none, recDone := 0,
    mins := [0xFFFF, 0xFFFF, 0xFFFF, 0xFFFF, 0xFFFF, 0xFFFF, 0xFFFF], progA := 0, progB := 0,
    reach := [], hard := [], wm := wm, lastA := none, lastB := none, stallSince := none, part := none, tile := none, locked := false,
    kind := sem.kind, gw := sem.w, sw := sem.sw, dw := sem.dw, total := 0, held := [] }

/-- An entry with its number of elements, which a divisible instruction may take from a register (R60). -/
def VSem.sized (sem : VSem) (s : State) (h : Nat) (e : Entry) : Entry :=
  { e with total := if sem.kind = .elem then sem.total s h e else 0 }

/-- Replace the entry with the same number. -/
def Ctx.putEntry (c : Ctx) (e : Entry) : Ctx := { c with vq := c.vq.map (fun x => if x.id = e.id then e else x) }
/-- Replace an entry of a hart. -/
def State.putEntry (s : State) (h : Nat) (e : Entry) : State := s.modCtx h (fun c => c.putEntry e)

/-- Does an entry have element groups: mask instructions are not divided into any (R131), nor are those of the engines, the fibres, the
matrix unit and the Electrum channel. -/
def Entry.grouped (e : Entry) : Bool :=
  let m := e.major
  (0x40 ≤ m && m ≤ 0x4D && m != 0x47) || (0x60 ≤ m && m ≤ 0x67)

/-- Of the positions ps, those that begin an element group. -/
def Entry.groupHeads (e : Entry) (ps : List Nat) : List Nat :=
  ps.filter (fun p => e.pos p == 0 || e.groupOf (p - 1) != e.groupOf p)

/-- Is the element group that begins at position p skipped: density-time, and no element of it active in context c (R53). -/
def Entry.skips (c : Ctx) (e : Entry) (p : Nat) : Bool :=
  let px := (e.pre.map BitVec.toNat).getD 0
  px.testBit 12 && !(e.groupFrom p).any (fun q => c.mbit (bits px 10 7) q)

/-- Element groups that run, c being the context before them: those that begin among the positions ps are counted, as executed or as
skipped (R335 events 4 and 5). -/
def State.countGroups (s : State) (h : Nat) (c : Ctx) (e : Entry) (ps : List Nat) : State :=
  if s.dbg.ctrCtl.isEmpty || !e.grouped then s
  else
    let gs := e.groupHeads ps
    let n := gs.countP (e.skips c)
    (s.count h 4 (gs.length - n)).count h 5 n

/-- An entry completes: it retires, FEXCA and FEXCB are replaced if it can raise a flag (R67), its interlock entry is
released unless an engine or the Electrum channel still holds it (R174). (DEDUCED, log entry 18) -/
def State.retire (s : State) (h : Nat) (sem : VSem) (e : Entry) : State :=
  let s := s.count h 3 1
  let s := s.modCtx h (fun c =>
    { c with vq := c.vq.filter (·.id ≠ e.id), ilocks := c.ilocks.filter (fun l => l.owner != .entry e.id),
             fexc := if sem.flags then e.mins else c.fexc })
  if sem.engine then s else s.trace h 2 sem.pipe sem.unit 0 e.addr ptrNone

/-- The stop of a hart at one of its entries (R197). -/
def State.stopEntry (s : State) (h : Nat) (e : Entry) (st : Stop) : State :=
  match st with
  | .block => s
  | .trap _ _ => s
  | .fault lvl va acc => s.faultHart h lvl va acc e.addr
  | .freeze code va acc => s.freezeHart h code va acc e.addr

/-- Perform the elements of a list in order, up to the first that stops (R59, R197). -/
def runElems (sem : VSem) (h : Nat) : List Nat → Entry → State → Entry × State × Option Stop
  | [], e, s => (e, s, none)
  | p :: t, e, s =>
    if e.laneDone p then runElems sem h t { e with estart := p + 1 } s
    else
      match (sem.elem h e p).run s with
      | .ok fl s' =>
        runElems sem h t { e.note fl p with estart := p + 1 }
          (if fl = 0 then s' else s'.modCtx h (fun c => c.raise fl))
      | .error st s' => (e, s', some st)

/-- Append the pending records of an indivisible entry, one by one (R336). -/
def runRecs (h : Nat) : List Nat → Entry → State → Entry × State × Option Stop
  | [], e, s => ({ e with pendRec := some [] }, s, none)
  | k :: t, e, s =>
    match (appendRec h e k).run s with
    | .ok _ s' => runRecs h t { e with pendRec := some t, recDone := e.recDone + 1, estart := min 0xFFFF (e.recDone + 1) } s'
    | .error st s' => ({ e with pendRec := some (k :: t) }, s', some st)

/-- Merge flags with their indexes into an entry and a hart. -/
def noteAll (h : Nat) (fls : List (Nat × Nat)) (e : Entry) (s : State) : Entry × State :=
  fls.foldl (fun (x : Entry × State) f => (x.1.note f.1 f.2, x.2.modCtx h (fun c => c.raise f.1))) (e, s)

/-- Commits of a progress-class entry until it finishes, stops, or n commits are made (R259). -/
def runProg (sem : VSem) (h : Nat) : Nat → Entry → State → Entry × State × Option Stop × Bool
  | 0, e, s => (e, s, none, false)
  | n + 1, e, s =>
    match (sem.prog h e).run s with
    | .ok (e', fls, fin) s' =>
      let (e'', s'') := noteAll h fls e' s'
      if fin then (e'', s'', none, true) else runProg sem h n e'' s''
    | .error st s' => (e, s', some st, false)

/-- Beginning of an entry: the orders that it must keep (R182, R186), the interlock check and its entry (R174), then the
instruction's own beginning. A blocked entry has stopped with .block. -/
def beginEntry (sem : VSem) (h : Nat) (e : Entry) (s : State) : Entry × State × Option Stop :=
  if e.begun then (e, s, none)
  else
    let k := sem.claim s h e
    let live := (s.liveIlocks h).filter (fun l => l.owner != .entry e.id)
    if s.entryGated h e || s.tableBlocks h live k then (e, s, some .block)
    else
      match (sem.start h e).run s with
      | .ok e' s' =>
        let e'' := { sem.sized s h e' with begun := true, locked := k.some? }
        let s' := s'.modCtx h (fun c =>
          { c.putEntry e'' with
            ilocks := if k.some? then live ++ [k.entry] else c.ilocks })
        (e'', if sem.engine then s' else s'.trace h 1 sem.pipe sem.unit 0 e.addr e''.restart, none)
      | .error st s' => (e, s', some st)

/-- The effect of an indivisible entry, then its records, then its completion (R60, R336). -/
def finishWhole (sem : VSem) (h : Nat) (e : Entry) (s : State) : State × Option Stop :=
  let go (recs : List Nat) (e : Entry) (s : State) : State × Option Stop :=
    let (e, s, st) := runRecs h recs e s
    match st with
    | none => (s.retire h sem e, none)
    | some st => (s.putEntry h e, some st)
  match e.pendRec with
  | some recs => go recs e s
  | none =>
    match (sem.whole h e).run s with
    | .ok (fls, recs) s' =>
      let (e', s'') := noteAll h fls e s'
      go (if e.xle then recs else []) { e' with pendRec := some recs, recDone := 0, stallSince := none, part := none, tile := none } s''
    | .error st s' => (s', some st)

/-- Run an entry that has begun as far as it goes now; every earlier entry of its hart has retired. -/
def runBegun (sem : VSem) (h : Nat) (e : Entry) (s : State) : State × Option Stop :=
  match sem.kind with
  | .elem =>
    let ps := (List.range (e.total - e.estart)).map (· + e.estart)
    let (e2, s2, st) := runElems sem h ps e s
    let s2 := s2.countGroups h (s.ctx h) e (ps.filter (fun p => p < e2.estart && e.laneReach (e.lane p) ≤ p))
    (match st with
    | none => (s2.retire h sem e2, none)
    | some st => (s2.putEntry h e2, some st))
  | .whole => finishWhole sem h e (s.countGroups h (s.ctx h) e (if e.pendRec.isSome then [] else e.untaken))
  | .progress =>
    let (e, s, st, fin) := runProg sem h 1048576 e (s.countGroups h (s.ctx h) e e.untaken)
    if fin then (s.retire h sem e, none) else (s.putEntry h e, st)

/-- Run the oldest entry of a hart as far as it goes now, and say what stopped it. -/
def runFirst (sem : VSem) (h : Nat) (e : Entry) (s : State) : State × Option Stop :=
  match beginEntry sem h e s with
  | (_, s, some st) => (s, some st)
  | (e, s, none) => runBegun sem h e s

/-- Run the only entry of a hart's queue as far as it goes now. -/
def runHead (sem : VSem) (h : Nat) (s : State) : State :=
  match (s.ctx h).vq with
  | [] => s
  | e :: _ =>
    match runFirst sem h e s with
    | (s, none) => s
    | (s, some st) => s.stopEntry h e st

/-- Is the word illegal at issue (R44, R122 and the checks of its own description). (DEDUCED, log entry 56) -/
def illegalAtIssue (sem : VSem) (e : Entry) : Bool :=
  sem.swept.any (fun v => v % e.rows != 0) || sem.bad e

/-- ISSUE of a vector instruction word at the scalar unit of the current hart (R47, R48): the checks, the queue, and, unless
the move leaves it queued, its run when it is the oldest entry; once it has completed, the end of a pass that it left open. -/
def issueWord (word : BitVec 32) (pre : Option (BitVec 32)) (sem : VSem) (s : State) : State :=
  let h := s.cur
  let c := s.ctx h
  let e := sem.sized s h (mkEntry c (s.maxvl (coreOf h)) word pre sem)
  if illegalAtIssue sem e then s.takeTrap h 1 (illegalVal pre word) pre.isSome
  else match sem.misaligned e with
    | some a => s.takeTrap h 2 a pre.isSome
    | none =>
      if c.vq.length ≥ 32 then s.waitOn h .queueFull
      else
        let s1 := s.modHart h (fun x =>
          { x with wait := none,
                   ctx := { x.ctx with vq := x.ctx.vq ++ [e], nextId := x.ctx.nextId + 1 }.advanceOver sem.sdst (if pre.isSome then 8 else 4) })
        if c.vq.isEmpty && !s.move.delayIssue then
          let s2 := runHead sem h s1
          if sem.sdst && (s2.ctx h).vq.isEmpty && (s2.ctx h).passOpen then s2.modCtx h Ctx.closePass else s2
        else s1

/-- Issue of an instruction. -/
def issue (i : Instr) (sem : VSem) (s : State) : State :=
  issueWord (encBase i) ((pfxOfInstr i).map pfxWord) sem s

end Sys2Proof.Machine
end

