-- ==== Sys2Proof/Machine/Chain.lean ====
section
/-! DEFINITION. Chaining (R49 to R51): which registers an element of a divisible instruction touches, when it may start beside
earlier instructions of its hart, and where each lane group stands. -/

namespace Sys2Proof.Machine

/-- Files whose elements chain. -/
inductive RFile where
  | vec
  | mask
  | scale
  | queue
  deriving DecidableEq, Repr

/-- How much of a register element p touches: its own w bits; its aligned pack of k elements of w bits (R77, R145); its row; its row
up to itself; bits lo to hi − 1 of one register; or the whole sweep. -/
inductive Reach where
  | el (w : Nat)
  | pack (k w : Nat)
  | row
  | upTo
  | one (lo hi : Nat)
  | all
  deriving DecidableEq, Repr

/-- A register operand of a queue entry. -/
structure Use where
  writes : Bool
  file : RFile
  reg : Nat
  reach : Reach
  deriving DecidableEq, Repr

/-- Registers reg to reg + n − 1 of a file, bits lo to hi − 1 of each. -/
structure Touch where
  file : RFile
  reg : Nat
  n : Nat
  lo : Nat
  hi : Nat
  deriving DecidableEq, Repr

/-- What element p of an entry touches through an operand. -/
def Use.touch (u : Use) (e : Entry) (p : Nat) : Touch :=
  match u.file, u.reach with
  | .vec, .el w => ⟨.vec, u.reg + e.row p, 1, e.pos p * w, e.pos p * w + w⟩
  | .vec, .pack k w => ⟨.vec, u.reg + e.row p, 1, e.pos p / k * k * w, e.pos p / k * k * w + k * w⟩
  | .vec, .one lo hi => ⟨.vec, u.reg, 1, lo, hi⟩
  | .vec, .all => ⟨.vec, u.reg, e.rows, 0, 16384⟩
  | .vec, _ => ⟨.vec, u.reg + e.row p, 1, 0, 16384⟩
  | .mask, .el _ => ⟨.mask, u.reg, 1, p, p + 1⟩
  | .mask, .pack k _ => ⟨.mask, u.reg, 1, p - e.pos p % k, p - e.pos p % k + k⟩
  | .mask, .row => ⟨.mask, u.reg, 1, e.row p * e.vle, e.row p * e.vle + e.vle⟩
  | .mask, .upTo => ⟨.mask, u.reg, 1, e.row p * e.vle, p + 1⟩
  | .mask, _ => ⟨.mask, u.reg, 1, 0, 32768⟩
  | f, _ => ⟨f, u.reg, 1, 0, 1⟩

/-- Do two touches share a bit of a register. -/
def Touch.meets (a b : Touch) : Bool :=
  a.file == b.file && a.reg < b.reg + b.n && b.reg < a.reg + a.n && a.lo < b.hi && b.lo < a.hi

/-- A read, and a write, of a vector register. -/
def rdV (r : Nat) (x : Reach) : Use := ⟨false, .vec, r, x⟩
/-- A write of a vector register. -/
def wrV (r : Nat) (x : Reach) : Use := ⟨true, .vec, r, x⟩
/-- A read of a mask register; m0 is a constant. -/
def rdM (m : Nat) (x : Reach) : List Use := if m = 0 then [] else [⟨false, .mask, m, x⟩]

/-- Instructions of the fibre unit: each takes one grant of all working lane groups in every cycle it runs (R274). -/
def Entry.fibre (e : Entry) : Bool := 0x70 ≤ e.major && e.major ≤ 0x76
/-- Engine commands: their part on the lane groups is none (R207). -/
def Entry.engine (e : Entry) : Bool := 0x6C ≤ e.major && e.major ≤ 0x6E
/-- FENCE with direction vector→vector (R184). -/
def Entry.fence (e : Entry) : Bool := e.major == 0x69

/-- Instructions of majors 0x42 and 0x44 with one source: VCLZ, VPOPC, VFSQRT, VFCLASS (R127, R129). -/
def Entry.unary (e : Entry) : Bool :=
  (e.major == 0x42 && (e.func4 == 6 || e.func4 == 7)) || (e.major == 0x44 && (e.func4 == 6 || e.func4 == 9))

/-- Registers that a conversion reads and writes (R132 to R138). -/
def Entry.usesConv (e : Entry) (mask : List Use) : List Use :=
  let f := e.word.toNat
  let rdC (r : Nat) : Use := ⟨false, .scale, r, .all⟩
  if e.major = 0x49 && e.func4 = 1 then ⟨true, .scale, e.fieldD, .all⟩ :: rdV e.physA (.el e.gw) :: mask
  else
    (if e.major = 0x49 then (if e.func4 = 2 then [rdC (bits f 23 21), rdC (bits f 26 24)] else [rdC (bits f 26 24)]) else []) ++
    [wrV e.physD (.el e.dw), rdV e.physD (.el e.dw), rdV e.physA (.el e.sw)] ++ mask

/-- Registers that a permutation reads and writes (R140 to R143), as far at a time as its result is readable (R146): VBCAST, VIOTA and
VMERGE by element groups, VRESHAPE the whole sweep, the others by rows. m names its mask, second its second source. -/
def Entry.usesPerm (e : Entry) (m : Nat) (second : List Use) : List Use :=
  let w := e.gw
  if e.major = 0x4B then
    match e.func4 with
    | 0 => [wrV e.physD .row, rdV e.physA .row] ++ second ++ rdM m (.el 1)
    | 4 => wrV e.physD (.el w) :: rdM m (.el 1)
    | 5 => wrV e.physD (.el w) :: rdM m .upTo
    | 6 => [wrV e.physD (.el w), rdV e.physA (.el w), rdV e.physB (.el w)] ++ rdM m (.el 1)
    | _ => [wrV e.physD .row, rdV e.physA .row] ++ rdM m (.el 1)
  else
    let at_ : Reach := .one (e.opB.toNat * w) (e.opB.toNat * w + w)
    match e.func4 with
    | 0 => [wrV e.physD .all, rdV e.physA .all]
    | 1 => [wrV e.physD .row, rdV e.physA .row] ++ rdM m .row
    | 2 => [wrV e.physD .row, rdV e.physA .row] ++ rdM m .row
    | 3 => [rdV e.physA at_]
    | _ => [wrV e.physD at_]

/-- Registers that a matrix instruction reads and writes (R244 to R251): the positions of MROW and MDRAIN are element groups of 256 bits. -/
def Entry.usesMatrix (e : Entry) (int : Bool) : List Use :=
  let scale (r : Nat) : List Use := if int then [] else [⟨false, .scale, r, .all⟩]
  if e.major = 0x78 then (if e.func4 < 4 then scale e.fieldD else [])
  else if e.major = 0x79 then scale e.fieldB ++ (if e.func4 < 4 then [rdV e.physD (.el 256)] else [])
  else if e.major = 0x7A && e.func4 < 2 then [wrV e.physD (.el 256)]
  else []

/-- The vector, mask, scale and queue registers that a queue entry reads and writes, by its words; none for an instruction of the fibre
unit, which runs beside no other of its hart (R274). -/
def Entry.uses (e : Entry) : Option (List Use) :=
  let m := e.major
  let w := e.gw
  let px := pfxOf (e.pre.map pfxFields)
  let pm := px.m.toNat
  let mask := rdM pm (.el 1)
  let second : List Use := [rdV e.physB (if px.xmod = 0 then .el w else .pack 8 w)]
  let third : List Use := if px.rs3 = 0 then [] else [rdV e.physC (.el w)]
  let own : List Use := [wrV e.physD (.el w), rdV e.physD (.el w), rdV e.physA (.el w)] ++ third
  if e.fibre then none
  else if m = 0x40 || m = 0x42 || m = 0x44 then some (own ++ (if e.unary then [] else second) ++ mask)
  else if m = 0x41 || m = 0x43 || m = 0x45 then some (own ++ mask)
  else if m = 0x46 then some ([⟨true, .mask, e.fieldD % 16, .el 1⟩, rdV e.physA (.el w)] ++ second ++ mask)
  else if m = 0x47 then
    some ((if e.func4 = 4 || e.func4 = 5 then [] else [⟨true, .mask, e.fieldD % 16, .all⟩]) ++
      (if e.func4 = 6 then [] else rdM (e.fieldA % 16) .all) ++ (if e.func4 < 4 then rdM (e.fieldB % 16) .all else []))
  else if m = 0x48 || m = 0x49 then some (e.usesConv mask)
  else if m = 0x4A then some ([wrV e.physD (.one 0 w), rdV e.physB (.one 0 w), rdV e.physA (.el w)] ++ mask)
  else if m = 0x4B || m = 0x4C then some (e.usesPerm pm second)
  else if m = 0x4D then
    some ([⟨true, .queue, (if e.func4 = 0 then e.fieldA else e.fieldD) % 16, .all⟩,
           if e.func4 = 0 then wrV e.physD (.pack (64 / w) w) else rdV e.physA (.pack (64 / w) w)] ++
      (if e.func4 = 0 then rdM pm (.pack (64 / w) 1) else []))
  else if m = 0x60 || m = 0x61 || m = 0x66 then some ([wrV e.physD (.el w), rdV e.physD (.el w)] ++ mask)
  else if m = 0x67 then some ([wrV e.physD (.el w), rdV e.physD (.el w), rdV e.physB (.el w)] ++ mask)
  else if m = 0x62 then some ([wrV e.physD (.el e.dw), rdV e.physD (.el e.dw), rdV e.physB (.el e.sw)] ++ mask)
  else if m = 0x63 || m = 0x64 then some (rdV e.physD (.el w) :: mask)
  else if m = 0x65 then some ([rdV e.physD (.el e.dw), rdV e.physB (.el e.sw)] ++ mask)
  else if m = 0x6D then
    some ((if e.func4 < 4 then [e.fieldD % 16] else List.range 16).map (fun q => ⟨true, .queue, q, .all⟩))
  else if m = 0x6F then some [rdV e.physD (.el w)]
  else if e.matrix then some (e.usesMatrix (tyInt (elTy 12 (e.pre.map pfxFields))))
  else some []

/-- The registers that an instruction of the vector unit computes its interlock range from: its mask and its index register (R174). -/
def Entry.rangeUses (e : Entry) : List Use :=
  let m := e.major
  if 0x60 ≤ m && m ≤ 0x67 then
    rdM (pfxOf (e.pre.map pfxFields)).m.toNat .all ++ (if m = 0x62 || m = 0x65 || m = 0x67 then [rdV e.physB .all] else [])
  else []

/-- Elements of an entry whose access through an operand of a reach is not committed, or not even computed by the lane groups: of an
operand read or written by rows, or as a whole, all of that have to be taken (R146). An indivisible entry commits when it retires, and one
without positions of its own counts as one. -/
def Entry.undone (computed : Bool) (x : Reach) (e : Entry) : List Nat :=
  if e.kind = .elem then (if computed then e.left.filter (fun p => e.laneReach (e.lane p) ≤ p) else e.left)
  else if e.positions.isEmpty then [0]
  else if !computed then e.positions
  else
    let open_ := e.untaken
    match x with
    | .row => e.positions.filter (fun p => open_.any (fun q => e.row q == e.row p))
    | .one _ _ => if open_.isEmpty then [] else e.positions
    | .all => if open_.isEmpty then [] else e.positions
    | _ => open_

/-- Has every earlier entry done what an access through operands vs, of element p of entry e, must wait for (R50): computed it, for the
start of the element, or committed it, for its commit. Two accesses of which neither writes never wait. -/
def Entry.clearOf (computed : Bool) (older : List Entry) (vs : List Use) (e : Entry) (p : Nat) : Bool :=
  older.all (fun o => match o.uses with
    | none => false
    | some us => us.all (fun u => vs.all (fun v => !(u.writes || v.writes) ||
        (o.undone computed u.reach).all (fun q => !(u.touch o q).meets (v.touch e p)))))

/-- Has every earlier entry done what element p of an entry must wait for (R50). -/
def Entry.clear (computed : Bool) (older : List Entry) (e : Entry) (p : Nat) : Bool :=
  match e.uses with
  | none => older.isEmpty
  | some vs => e.clearOf computed older vs p

/-- Entries that may block at an element: VQPOP, VQPUSH, VLDW (R145, R198). -/
def Entry.blocking (e : Entry) : Bool := e.major == 0x4D || e.major == 0x66

/-- Entries whose lane groups do not slip against one another: those that may block at an element, and those that append records, which
reserve their slots in ascending order (R30). -/
def Entry.inOrder (sem : VSem) (e : Entry) : Bool := e.blocking || (e.xle && sem.records)

/-- The location of a virtual address of hart h, where it has one. -/
def State.locOf (s : State) (h va : Nat) : Option Nat :=
  if windowBase ≤ va then some (rangeKey h va)
  else
    match (walk none (coreOf h) (s.rootOf h) va .read 1 4 (s.rootOf h)).run s with
    | .ok x _ => some x.pa
    | .error _ _ => none

/-- The locations of an element, with their lengths: of one page or of two. -/
def State.eltLocs (s : State) (h : Nat) (x : Elt) : List (Nat × Nat) :=
  let k := min x.n (4096 - x.addr % 4096)
  [(x.addr, k), (x.addr + k, x.n - k)].filterMap (fun p => if p.2 = 0 then none else (s.locOf h p.1).map (fun l => (l, p.2)))

/-- Must two elements of one instruction be read in ascending order: they meet at a location (R172), or both lie in the Electrum window,
where the prefixes that they observe do not shrink (R225). -/
def locsMeet (a b : List (Nat × Nat)) : Bool :=
  a.any (fun x => b.any (fun y => (x.1 < y.1 + y.2 && y.1 < x.1 + x.2) || (2 ^ 58 ≤ x.1 && 2 ^ 58 ≤ y.1)))

/-- May a lane group that runs ahead read memory for element p of a load: no lower element that is still to be read must be read before
it (R172, R225), and no element written before it can hold its index (R195). -/
def State.mayReadAhead (s : State) (sem : VSem) (h : Nat) (e : Entry) (p : Nat) : Bool :=
  match sem.place with
  | none => false
  | some f =>
    let c := s.ctx h
    let at_ (q : Nat) : List (Nat × Nat) := s.eltLocs h (f c e q).2
    !(e.major == 0x62 && regOverlap e.physD e.rows e.physB e.rows) &&
    (e.left.filter (fun q => q < p && (f c e q).1 && (sfind e.held q).isNone)).all (fun q => !locsMeet (at_ q) (at_ p))

/-- The next position of lane group j of an entry, and the end of its element group (R15, R49). -/
def Entry.nextGroup (e : Entry) (j : Nat) : Option (Nat × Nat) :=
  match e.untaken.find? (fun p => e.lane p == j) with
  | none => none
  | some p => some (p, p + (e.groupFrom p).length)

/-- Have the lane groups taken every position of an entry. -/
def Entry.taken (e : Entry) : Bool := e.untaken.isEmpty

/-- The positions from ESTART up that every lane group has taken, without a gap (R59). -/
def Entry.computed (e : Entry) : List Nat :=
  (e.positions.filter (e.estart ≤ ·)).takeWhile (fun p => p < e.laneReach (e.lane p))

/-- Lane groups that run ahead read memory for the elements of a load, and hold back what they have read (R59, R172): those elements
whose operands earlier entries have committed, and that may be read before the lower ones. An element that stops is left to its commit. -/
def readAhead (sem : VSem) (h : Nat) (older : List Entry) : List Nat → Entry → State → Entry × State
  | [], e, s => (e, s)
  | p :: t, e, s =>
    if !e.clear false older p || !s.mayReadAhead sem h e p then readAhead sem h older t e s
    else
      match (sem.ahead h e p).run s with
      | .ok (some v) s' => readAhead sem h older t { e with held := sput e.held p v } s'
      | _ => readAhead sem h older t e s

/-- Commit elements of an entry in order, as far as earlier entries allow (R50, R59). -/
def runClear (sem : VSem) (h : Nat) (older : List Entry) : List Nat → Entry → State → Entry × State × Option Stop
  | [], e, s => (e, s, none)
  | p :: t, e, s =>
    if !e.clear false older p then (e, s, some .block)
    else
      match runElems sem h [p] e s with
      | (e, s, none) => runClear sem h older t e s
      | r => r

/-- Commit elements at a freeze, of every lane group as far as it has come (R64); the list done grows. -/
def runFlush (sem : VSem) (h : Nat) (older : List Entry) : List Nat → List Nat → Entry → State → List Nat × Entry × State
  | [], done, e, s => (done, e, s)
  | p :: t, done, e, s =>
    if !e.clear false older p then (done, e, s)
    else
      match (sem.elem h e p).run s with
      | .ok fl s' => runFlush sem h older t (p :: done) (e.note fl p) (if fl = 0 then s' else s'.modCtx h (fun c => c.raise fl))
      | .error _ _ => (done, e, s)

end Sys2Proof.Machine
end

