-- ==== Sys2Proof/Machine/Queues.lean ====
section
/-! DEFINITION. Queue registers as both agents of a hart and the engines use them (R100, R101, R144, R145), with stream
destinations (R213, R214) and links (R218). -/

namespace Sys2Proof.Machine

/-- Is a queue of the task on hart h the destination of an open sparse stream or of an indirect stream (R145). -/
def State.streamDst (s : State) (h q : Nat) : Bool :=
  let t := (s.hart h).task
  (s.core (coreOf h)).streams.any (fun e =>
    e.2.q == q && e.2.owner.any (fun o => o.1 == h && some o.2 == t)) ||
  s.engines.any (fun e => e.2.any (fun c =>
    c.hart == h && some c.task == t && (wnth c.words 1).testBit 35 && bits (wnth c.words 1) 43 40 == q))

/-- The link whose producer is queue q of hart h (R218). -/
def State.linkFrom (s : State) (h q : Nat) : Option Link := 
  s.links.find? (fun l => l.ph == h && l.pq == q && some l.pt == (s.hart h).task)
/-- The link whose consumer is queue q of hart h (R218). -/
def State.linkTo (s : State) (h q : Nat) : Option Link := 
  s.links.find? (fun l => l.ch == h && l.cq == q && some l.ct == (s.hart h).task)

/-- Deliver an entry to a queue of a hart; a hart that has begun to exit discards it (R207). -/
def State.deliver (s : State) (h q : Nat) (v : Word) : State :=
  if (s.ctx h).exiting ≠ 0 then s else s.modCtx h (fun c => c.push q v)

/-- Append an entry to queue q of hart h: to the consumer's queue where q is linked. It waits while the queue is full or the
consumer's task is saved; a stream destination is a violation (R100, R101, R145, R218), which an instruction that pushes nothing does not
meet (DESIGN CHOICE, log entry 67). -/
def pushQueue (h q : Nat) (v : Word) : M Unit := do
  let s ← get
  if s.streamDst h q then throw (.freeze 0x26 0 0)
  match s.linkFrom h q with
  | none =>
    if 64 ≤ ((s.ctx h).queue q).ents.length then throw .block
    modify (fun s => s.modCtx h (fun c => c.push q v))
  | some l =>
    if (s.hart l.ch).task ≠ some l.ct || 64 ≤ ((s.ctx l.ch).queue l.cq).ents.length then throw .block
    modify (fun s => s.deliver l.ch l.cq v)

/-- The head entry of queue q of hart h, which stays there; it waits while the queue is empty. A pop by the producer of a
linked queue is a violation (R218). -/
def peekQueue (h q n : Nat) : M Word := do
  let s ← get
  if (s.linkFrom h q).isSome then throw (.freeze 0x26 0 0)
  match ((s.ctx h).queue q).ents[n]? with
  | none => throw .block
  | some v => pure v

/-- Remove the head entry of queue q of hart h (R100). -/
def popQueue (h q : Nat) : M Word := do
  let v ← peekQueue h q 0
  modify (fun s => s.modCtx h (fun c => c.pop q))
  pure v

end Sys2Proof.Machine
end

