-- ==== Sys2Proof/Machine/Engines.lean ====
section
/-! DEFINITION. Engines: copy channels, sparse streams and indirect streams, their commands and their own steps (R207 to
R217). -/

namespace Sys2Proof.Machine

/-! ### Shared operations -/

/-- Run a step as part of a task: on its hart, or on its saved context while it is saved (R176). -/
def State.asTask (s : State) (t : Nat) (f : State → State) : State :=
  match sfind s.sched.tasks t with
  | none => s
  | some k =>
    if (s.hart k.hart).task = some t then f s
    else
      match k.saved with
      | none => s
      | some sv =>
        let old := s.hart k.hart
        let s := f (s.setHart k.hart { Hart.init with ctx := sv.ctx, task := some t })
        let c := s.ctx k.hart
        (s.setHart k.hart old).modTask t (fun k => { k with saved := k.saved.map (fun (x : Saved) => { x with ctx := c }) })

/-- Is a task on its hart. -/
def State.onHart (s : State) (h t : Nat) : Bool := (s.hart h).task == some t

/-- A channel of a core. -/
def Core.chan (k : Core) (c : Nat) : Channel := sget k.chans Channel.init c
/-- Replace a channel. -/
def State.setChan (s : State) (core c : Nat) (x : Channel) : State :=
  s.modCore core (fun k => { k with chans := sset k.chans Channel.init c x })
/-- A stream of a core. -/
def Core.stream (k : Core) (c : Nat) : Stream := sget k.streams Stream.init c
/-- Replace a stream. -/
def State.setStream (s : State) (core c : Nat) (x : Stream) : State :=
  s.modCore core (fun k => { k with streams := sset k.streams Stream.init c x })
/-- Commands of an indirect-stream engine. -/
def State.engine (s : State) (e : Nat) : List Istr := sget s.engines [] e
/-- Replace the commands of an indirect-stream engine. -/
def State.setEngine (s : State) (e : Nat) (l : List Istr) : State := { s with engines := sset s.engines [] e l }

/-- Release an interlock entry of a hart's task (R174). -/
def State.unlock (s : State) (h : Nat) (o : IlOwner) : State :=
  s.modCtx h (fun c => { c with ilocks := c.ilocks.filter (fun l => l.owner != o) })

/-- The interlock check of an engine command, and its entry (R174, R207). -/
def takeIlock (h : Nat) (k : Claim) : M Unit := do
  let s ← get
  let live := s.liveIlocks h
  if s.tableBlocks h live k then throw .block
  if k.some? then modify (fun s => s.modCtx h (fun c => { c with ilocks := live ++ [k.entry] }))

/-- The claim of an engine command with recorded ranges and others that it does not record (R174, R211). -/
def State.commandClaim (s : State) (h : Nat) (o : IlOwner) (rd wr also : Ranges) : Claim :=
  { owner := o, reads := rd, writes := wr, far := s.farOf h (rd ++ wr ++ also) }

/-- Read n words of a descriptor or parameter block with the hart's vector agent (R207), after its earlier accesses to the remote
locations of the block (R169). -/
def readWords (h : Nat) (a : Word) (n : Nat) : M (List Word) := do
  let s ← get
  if (s.liveIlocks h).any (s.farWaits h (s.farOf h (blockRange h a.toNat (8 * n)))) then throw .block
  (List.range n).mapM (fun k => do
    let x ← vread h (coreOf h) (a + w64 (8 * k)).toNat 8 .vector
    pure (w64 x))

/-- Is a task being saved or restored: its context is in its core's shadow bank (R288, R294). -/
def State.inTransit (s : State) (h t : Nat) : Bool :=
  (sfind s.sched.tasks t).any (·.saved.isSome) && ((s.core (coreOf h)).bank == .outgoing t || (s.core (coreOf h)).bank == .staging t)

/-- What a stop does to an engine (R207, R282, R291): the record of the event, and the hold. While the task that commands it is being
saved or restored, the stop is kept for later (R294). -/
def engineStop (h : Nat) (m : Master) (addr : Nat) (late : Bool) (st : Stop) (s : State) : State × Hold :=
  match st with
  | .fault lvl va acc =>
    if late then (s, .later 0x12 lvl va acc)
    else
      let n := s.fb.nextNum
      ((s.count h 11 1).raiseRec (s.hartRec h m 0x12 acc lvl va addr), .fault n)
  | .freeze code va acc =>
    if late then (s, .later code 7 va acc) else (s.raiseRec (s.hartRec h m code acc 7 va addr), .frozen)
  | _ => (s, .run)

/-- The stop that a hold keeps for later. -/
def Hold.kept : Hold → Option Stop
  | .later code level va acc => some (if code = 0x12 then .fault level va acc else .freeze code va acc)
  | _ => none

/-- Mark a launch as aborted (R310): the first cause stands. -/
def State.markAbort (s : State) (l cause : Nat) : State :=
  s.modLaunch l (fun x => match x.abort with
    | none => { x with abort := some (cause, s.time) }
    | some _ => x)

/-- A graph's abort begins (R310): its launches abort, with the graph's cause (DESIGN CHOICE, log entry 79), and no further node starts. -/
def State.abortGraph (s : State) (g cause : Nat) : State :=
  match sfind s.sched.graphs g with
  | none => s
  | some x =>
    let y : Graph := { x with abort := some (x.abort.getD (cause, s.time)) }
    let s : State := { s with sched := { s.sched with graphs := sput s.sched.graphs g y } }
    x.nodes.foldl (fun s n => match n.state with
      | .run k => s.markAbort k cause
      | _ => s) s

/-- Begin the abort of a launch (R310); that of a graph node's launch begins the abort of its graph at the same instant. -/
def State.abortLaunch (s : State) (l cause : Nat) : State :=
  let s := s.markAbort l cause
  match (sfind s.sched.launches l).map (·.src) with
  | some (Source.node g _) => s.abortGraph g cause
  | _ => s

/-! ### Copy channels (R208 to R212) -/

/-- Dimensions of a copy descriptor. -/
def cpyDims (w : List Word) : Nat := wnth w 3 % 8
/-- Trip count of loop dimension d, 1 to ND − 1 (R209). -/
def cpyTrip (w : List Word) (d : Nat) : Nat := wnth w (3 + d)
/-- Bytes of a copy (R210). -/
def cpyTotal (w : List Word) : Nat :=
  (List.range (cpyDims w - 1)).foldl (fun n d => n * cpyTrip w (d + 1)) (wnth w 2)

/-- Is a copy descriptor invalid (R209). -/
def cpyBad (w : List Word) : Bool :=
  let nd := cpyDims w
  nd == 0 || nd == 7 || wnth w 2 == 0 || wnth w 2 ≥ 2 ^ 32 || wnth w 3 ≥ 32 ||
  (List.range (nd - 1)).any (fun d => cpyTrip w (d + 1) ≥ 2 ^ 32) ||
  ((wnth w 3).testBit 4 && wnth w 19 % 8 != 0) || ((wnth w 3).testBit 3 && wnth w 20 % 4 != 0)

/-- Change of a run's start for one iteration of each loop dimension, with the inner dimensions that run in between (R96,
R209): off is 8 for the source and 13 for the destination. -/
def cpySteps (w : List Word) (off : Nat) : Nat → Nat → Int → List Int
  | 0, _, _ => []
  | k + 1, d, inner =>
    let st := inner + sInt (wnth w (off + d)) 64
    st :: cpySteps w off k (d + 1) (inner + (cpyTrip w d - 1 : Int) * st)

/-- The loop steps of a descriptor. -/
def cpyStepsOf (w : List Word) (off : Nat) : List Int := cpySteps w off (cpyDims w - 1) 1 0

/-- Start of pass p of the nest, relative to its base (R210). -/
def cpyStart (w : List Word) (off p : Nat) : Int :=
  (((cpyStepsOf w off).zipIdx).foldl (fun (x : Int × Nat) st =>
    let t := cpyTrip w (st.2 + 1)
    (x.1 + st.1 * (x.2 % t : Nat), x.2 / t)) (0, p)).1

/-- Address of byte n of a transfer: source with off 8 and base word 0, destination with off 13 and base word 1. -/
def cpyAddr (w : List Word) (off base n : Nat) : Nat :=
  patOf 64 (wnth w base + cpyStart w off (n / wnth w 2) + (n % wnth w 2 : Nat))

/-- Lowest to highest byte the nest can reach (R174 Table 2). -/
def cpyRange (h : Nat) (w : List Word) (off base : Nat) : Ranges :=
  let ext := (cpyStepsOf w off).zipIdx.map (fun st => st.1 * ((cpyTrip w (st.2 + 1) : Int) - 1))
  let lo := (wnth w base : Int) + ext.foldl (fun a x => a + min 0 x) 0
  let hi := (wnth w base : Int) + ext.foldl (fun a x => a + max 0 x) 0
  blockRange h (patOf 64 lo) ((hi - lo).toNat + wnth w 2)

/-- One byte of CRC32C (R211). -/
def crcByte (crc b : Nat) : Nat :=
  (List.range 8).foldl (fun x _ => if x % 2 = 1 then x / 2 ^^^ 0x82F63B78 else x / 2) (crc ^^^ b)

/-- Bytes from the write pointer to the end of its chunk (R211). -/
def Channel.chunkEnd (x : Channel) : Nat := min ((x.wp / 4096 + 1) * 4096) x.total

/-- Do source and destination of a command overlap (R210). -/
def Channel.overlaps (x : Channel) (h : Nat) : Bool := rangesMeet (cpyRange h x.words 8 0) (cpyRange h x.words 13 1)

/-- The value of a source byte: where the command has overwritten it, the value before or the present one (R210). -/
def cpySource (h core : Nat) (x : Channel) (a : Nat) : M Nat := do
  let ps ← resolve h core a 1 .read .engine
  let v ← readPieces h a ps
  match ps with
  | p :: _ =>
    match sfind x.orig p.loc with
    | some old => do
      let k := (← get).free
      modify (fun s => { s with free := s.free + 1 })
      pure (if Config.freeBool k then old else v)
    | none => pure v
  | [] => pure v

/-- Bytes of a transfer from byte n on that one write performs: those that follow it in an aligned 8-byte unit (R180). -/
def Channel.unitLen (x : Channel) (n : Nat) : Nat :=
  let d := cpyAddr x.words 13 1 n
  ((List.range (min (8 - d % 8) (x.total - n))).takeWhile (fun k => cpyAddr x.words 13 1 (n + k) == d + k)).length

/-- Locations of the bytes of pieces. -/
def byteLocs (ps : List Piece) : List Nat := ps.flatMap (fun p => (List.range p.n).map (· + p.loc))

/-- A channel after it has performed bytes vs: the write pointer without CRC; else the CRC register, and what lies beyond the
chunk (R210, R211). -/
def Channel.moved (x : Channel) (vs : List Nat) : Channel :=
  let k := vs.length
  if (wnth x.words 3).testBit 3 then
    let room := x.chunkEnd - x.wp - x.ahead
    { x with ahead := x.ahead + min k room, crc := (vs.take room).foldl crcByte x.crc, beyond := vs.drop room }
  else
    { x with wp := x.wp + k,
             pubDue := (wnth x.words 3).testBit 4 && ((x.wp + k) / 4096 ≠ x.wp / 4096 || x.wp + k = x.total) }

/-- Copy the bytes of the next unit: every source byte is read before the unit is written (R180, R210, R211). -/
def cpyUnit (h core : Nat) (x : Channel) : M Channel := do
  let n := x.wp + x.ahead
  let k := x.unitLen n
  let d := cpyAddr x.words 13 1 n
  let vs ← (List.range k).mapM (fun i => cpySource h core x (cpyAddr x.words 8 0 (n + i)))
  let qs ← resolve h core d k .write .engine
  let m := (← get).mem
  let old := (byteLocs qs).map (fun l => (l, rdNum m l 1))
  writePieces h x.id (vs.foldr (fun v r => v + 256 * r) 0) qs
  let x := if x.overlaps h then
      { x with orig := old.foldl (fun m e => if (sfind m e.1).isSome then m else sput m e.1 e.2) x.orig }
    else x
  let x := if (wnth x.words 3).testBit 3 then { x with undo := old ++ x.undo } else x
  pure (x.moved vs)

/-- Publish the write pointer (R188, R210). -/
def cpyPublish (h core : Nat) (x : Channel) : M Channel := do
  let a := wnth x.words 19
  let ps ← resolve h core a 8 .write .engine
  writePieces h x.id x.wp ps
  modify (·.tagWrite h 4 ps)
  pure { x with pubDue := false }

/-- The check of a chunk's CRC (R211): the channel, and whether it matched. What was performed beyond the chunk begins the next
one. -/
def cpyCheck (h core : Nat) (x : Channel) : M (Channel × Bool) := do
  let want ← vread h core ((wnth x.words 20 + 4 * (x.wp / 4096)) % 2 ^ 64) 4 .engine
  if (2 ^ 32 - 1) ^^^ x.crc = want then
    pure ({ x with wp := x.wp + x.ahead, ahead := x.beyond.length, crc := x.beyond.foldl crcByte (2 ^ 32 - 1), beyond := [], undo := [],
                   pubDue := (wnth x.words 3).testBit 4 }, true)
  else pure (x, false)

/-- Bytes of a failed chunk hold new or old values, each 8-byte unit as a whole (R180, R211). (DESIGN CHOICE, log entry 29) -/
def cpyUndo (x : Channel) (s : State) : State :=
  let units := (x.undo.map (fun e => e.1 / 8)).dedup
  let s1 := { s with free := s.free + units.length }
  x.undo.foldl (fun s1 e => if Config.freeBool (s.free + units.idxOf (e.1 / 8)) then s1.wr e.1 1 e.2 else s1) s1

/-- A step of a channel: publish, check a whole chunk, or copy a unit. -/
inductive ChanRes where
  | go (x : Channel)
  | chunk (x : Channel)
  | mismatch
  | finished

/-- One step of a channel (R210, R211). -/
def chanStep (h core : Nat) (x : Channel) : M ChanRes := do
  if x.pubDue then
    let x ← cpyPublish h core x
    pure (if x.wp = x.total then .finished else .chunk x)
  else if x.wp = x.total then pure .finished
  else if x.ahead ≠ 0 && x.wp + x.ahead = x.chunkEnd then do
    let (x, ok) ← cpyCheck h core x
    pure (if !ok then .mismatch else if x.pubDue then .go x else if x.wp = x.total then .finished else .chunk x)
  else do
    let y ← cpyUnit h core x
    pure (if y.wp / 4096 ≠ x.wp / 4096 && !y.pubDue && y.wp ≠ y.total then .chunk y else .go y)

/-- The command of a channel ends with a STATE of R212. -/
def State.endChan (s : State) (h core ch st : Nat) (x : Channel) : State :=
  let s := s.modCtx h (fun c => { c with cpys := sput c.cpys ch ⟨st, x.wp⟩ })
  if st = 0 then ((s.setChan core ch Channel.init).unlock h (.channel ch)).trace h 2 3 ch 0 x.addr ptrNone
  else s.setChan core ch { x with state := st }

/-- The stop of a channel: held, or frozen with its command (R207, R291). -/
def State.chanStop (s : State) (h core ch : Nat) (x : Channel) (st : Stop) : State :=
  let late := x.owner.any (fun o => s.inTransit o.1 o.2)
  let (s, hold) := engineStop h (.channel core ch) x.addr late st s
  let x := { x with hold := hold }
  if hold = .frozen then s.endChan h core ch 3 x
  else (s.setChan core ch x).modCtx h (fun c => { c with cpys := sput c.cpys ch ⟨1, x.wp⟩ })

/-- Run a channel to the end of its chunk, its end, or a stop. -/
def chanRun (h core ch : Nat) : Nat → Channel → State → State
  | 0, x, s => (s.setChan core ch x).modCtx h (fun c => { c with cpys := sput c.cpys ch ⟨1, x.wp⟩ })
  | n + 1, x, s =>
    match (chanStep h core x).run s with
    | .ok (.go x') s' => chanRun h core ch n x' s'
    | .ok (.chunk x') s' => chanRun h core ch 0 x' s'
    | .ok .mismatch s' =>
      let l := s'.seqOf h
      ((cpyUndo x s').endChan h core ch 2 x).abortLaunch l 2
    | .ok .finished s' => s'.endChan h core ch 0 { x with wp := x.total }
    | .error st s' => s'.chanStop h core ch x st

/-- What a CPY accesses beside its recorded ranges: the CRC table and the progress word (R211). -/
def cpyAlso (h : Nat) (w : List Word) : Ranges :=
  (if (wnth w 3).testBit 3 then blockRange h (wnth w 20) (4 * ((cpyTotal w + 4095) / 4096)) else []) ++
  (if (wnth w 3).testBit 4 then blockRange h (wnth w 19) 8 else [])

/-- The descriptor that a CPY reads at dispatch, which must be valid, and what the command claims (R174, R207, R209). -/
def cpyRead (ch h : Nat) (e : Entry) : M (List Word × Claim) := do
  let w ← readWords h e.opA 21
  if cpyBad w then throw (.freeze 0x25 e.opA.toNat 0)
  let rg (off base : Nat) : Ranges := if cpyTotal w = 0 then [] else cpyRange h w off base
  pure (w, (← get).commandClaim h (.channel ch) (rg 8 0) (rg 13 1) (cpyAlso h w))

/-- Dispatch of a CPY (R207 to R210). A channel that is busy, stopped or frozen keeps it waiting; a command of no bytes then
completes at once, after the publish that its PUB asks for. (DEDUCED, log entries 20 and 21) -/
def cpyDispatch (ch : Nat) (h : Nat) (e : Entry) : M (List (Nat × Nat) × List Nat) := do
  let s ← get
  if !(s.launchOf h).any (fun l => l.par.chan.testBit ch) then throw (.freeze 0x24 0 0)
  let (w, k) ← cpyRead ch h e
  let x := ((← get).core (coreOf h)).chan ch
  if x.owner.isSome then throw .block
  let n := cpyTotal w
  takeIlock h k
  let t := (((← get).hart h).task).getD 0
  let y := { Channel.init with owner := some (h, t), launch := s.seqOf h, id := e.id, addr := e.addr, words := w, total := n, crc := 2 ^ 32 - 1,
                               state := 1, pubDue := n == 0 && (wnth w 3).testBit 4 }
  modify (fun s => (((s.setChan (coreOf h) ch y).modCtx h (fun c => { c with cpys := sput c.cpys ch ⟨1, 0⟩ })).trace h 1 3 ch 0 e.addr
    ptrNone))
  if n = 0 then modify (chanRun h (coreOf h) ch 2 y)
  pure ([], [])

/-- A channel moves its next chunk (R210, R211). -/
def State.chunk (s : State) (core ch : Nat) : State :=
  let x := (s.core core).chan ch
  match x.owner with
  | some (h, t) => if x.state = 1 && x.hold = .run then s.asTask t (chanRun h core ch 5000 x) else s
  | none => s

/-! ### Sparse streams (R213) -/

/-- Close a stream: no terminator is added (R213). (DEDUCED, log entry 24) -/
def State.closeStream (s : State) (h core st : Nat) : State :=
  let a := ((s.core core).stream st).addr
  ((s.setStream core st Stream.init).unlock h (.stream st)).trace h 2 4 st 0 a ptrNone

/-- Wait until a stream can be closed by its hart: it is not at a faulting access (R207, R213). -/
def closeOwn (h st : Nat) : M Unit := do
  let s ← get
  let x := (s.core (coreOf h)).stream st
  match x.hold with
  | .fault _ => throw .block
  | .later _ _ _ _ => throw .block
  | .frozen => pure ()
  | .run => set (s.closeStream h (coreOf h) st)

/-- What an SSTR claims (R174). -/
def sstrClaim (st h : Nat) (e : Entry) : M Claim := do
  pure ((← get).commandClaim h (.stream st) (blockRange h e.opA.toNat (4 * e.opB.toNat)) [] [])

/-- Dispatch of an SSTR (R213). -/
def sstrDispatch (st q : Nat) (h : Nat) (e : Entry) : M (List (Nat × Nat) × List Nat) := do
  let s ← get
  if !(s.launchOf h).any (fun l => l.par.strm.testBit st) then throw (.freeze 0x24 0 0)
  let t := ((s.hart h).task).getD 0
  (match ((s.core (coreOf h)).stream st).owner with
  | none => pure ()
  | some (k, u) => if k = h && u = t then closeOwn h st else throw .block)
  if (((← get).core (coreOf h)).stream st).owner.isSome then throw .block
  takeIlock h (← sstrClaim st h e)
  modify (fun s => s.setStream (coreOf h) st
    { owner := some (h, t), launch := s.seqOf h, addr := e.addr, q := q, base := e.opA.toNat, count := e.opB.toNat, pos := 0, hold := .run })
  modify (fun s => s.trace h 1 4 st 0 e.addr ptrNone)
  pure ([], [])

/-- Dispatch of an SCLOSE (R213). -/
def scloseDispatch (st : Nat) (h : Nat) (_ : Entry) : M (List (Nat × Nat) × List Nat) := do
  let s ← get
  if !(s.launchOf h).any (fun l => l.par.strm.testBit st) then throw (.freeze 0x24 0 0)
  (match ((s.core (coreOf h)).stream st).owner with
  | some (k, u) => if k = h && some u = (s.hart h).task then closeOwn h st else pure ()
  | none => pure ())
  pure ([], [])

/-- Deliver an entry to a queue of a task on its hart, or wait for room; none while the task is saved or the queue full. Of a queue that is
linked it goes to the hart's own register (DESIGN CHOICE, log entry 60). -/
def State.deliverTo (s : State) (h t q : Nat) (v : Word) : Option State :=
  if !s.onHart h t then none
  else if (s.ctx h).exiting = 0 && 64 ≤ ((s.ctx h).queue q).ents.length then none
  else some (s.deliver h q v)

/-- The stop of a stream (R207, R291). -/
def State.streamStop (s : State) (h core st : Nat) (x : Stream) (stp : Stop) : State :=
  let late := x.owner.any (fun o => s.inTransit o.1 o.2)
  let (s, hold) := engineStop h (.stream core st) x.addr late stp s
  s.setStream core st { x with hold := hold }

/-- A stream appends its next coordinate, or the terminator (R213). -/
def State.streamAppend (s : State) (core st : Nat) : State :=
  let x := (s.core core).stream st
  match x.owner with
  | none => s
  | some (h, t) =>
    if x.hold ≠ .run || !s.onHart h t then s
    else if x.pos < x.count then
      match (vread h core ((x.base + 4 * x.pos) % 2 ^ 64) 4 .engine).run s with
      | .ok v s' =>
        (match s'.deliverTo h t x.q (w64 v) with
        | some s2 => s2.setStream core st { x with pos := x.pos + 1 }
        | none => s')
      | .error stp s' =>
        s'.streamStop h core st x stp
    else
      match s.deliverTo h t x.q 0x8000000000000000 with
      | some s' => s'.closeStream h core st
      | none => s

/-! ### Indirect streams (R214 to R217) -/

/-- Is an ISTR parameter block invalid (R214 Table 9). -/
def istrBad (w : List Word) : Bool :=
  let w1 := wnth w 1
  let iw := if w1.testBit 32 then 8 else 4
  let len := wnth w 3
  bits w1 63 48 != 0 || bits w1 46 44 != 0 || bits w1 39 36 != 0 || bits w1 34 33 != 0 ||
  wnth w 0 % iw != 0 || (w1.testBit 47 && wnth w 2 % 128 != 0) ||
  len ≥ 2 ^ 32 || len < 8 || 65536 < len || len % 8 != 0 || wnth w 5 == 0

/-- Bytes of an index of a parameter block. -/
def istrIw (w : List Word) : Nat := if (wnth w 1).testBit 32 then 8 else 4
/-- Index count of a parameter block. -/
def istrN (w : List Word) : Nat := wnth w 1 % 2 ^ 32

/-- Recorded ranges of an ISTR (R215). -/
def istrRanges (h : Nat) (w : List Word) : Ranges × Ranges :=
  let n := istrN w
  let table := if (wnth w 1).testBit 47 then blockRange h (wnth w 2) 136 else tableRows h (wnth w 2) w
  (blockRange h (wnth w 0) (n * istrIw w) ++ table,
   if (wnth w 1).testBit 35 || n = 0 then [] else blockRange h (wnth w 6) ((n - 1) * wnth w 7 + wnth w 3))

/-- The parameter block that an ISTR reads at dispatch, which must be valid, the engine its command runs on, by the location of the first
byte of the index array, and what the command claims (R174, R207, R214). -/
def istrRead (k h : Nat) (e : Entry) : M (List Word × Nat × Claim) := do
  let w ← readWords h e.opA 8
  if istrBad w then throw (.freeze 0x25 e.opA.toNat 0)
  let ps ← resolve h (coreOf h) (wnth w 0) 1 .read .vector
  let loc := match ps with
    | p :: _ => p.loc
    | [] => 0
  let (rd, wr) := istrRanges h w
  let eng := 4 * stackOf loc + k
  pure (w, eng, (← get).commandClaim h (.istr eng) rd wr [])

/-- Dispatch of an ISTR (R207, R214): it waits while its slot holds a running command, for the interlock table, and until its engine is
free. -/
def istrDispatch (k : Nat) (h : Nat) (e : Entry) : M (List (Nat × Nat) × List Nat) := do
  let s ← get
  if (sfind (s.ctx h).istrs k).any (fun x => x.state == 1) then throw .block
  let (w, eng, claim) ← istrRead k h e
  if !((← get).engine eng).isEmpty then throw .block
  takeIlock h claim
  let t := (((← get).hart h).task).getD 0
  modify (fun s => (s.setEngine eng (
      [{ hart := h, task := t, launch := s.seqOf h, k := k, id := e.id, addr := e.addr, words := w, begun := false, base := wnth w 2, ver := 0, row := 0,
         unit := 0, idx := none, buf := [], hold := .run }])).modCtx h
    (fun c => { c with istrs := sput c.istrs k ⟨1, 0⟩ }))
  modify (fun s => s.trace h 1 5 eng 0 e.addr ptrNone)
  pure ([], [])

/-- Read the descriptor of a versioned table, once for the command (R186, R215, R216). -/
def istrBegin (eng : Nat) (x : Istr) : M Istr := do
  if x.begun || !(wnth x.words 1).testBit 47 then pure { x with begun := true }
  else do
    let a := wnth x.words 2
    let ps ← resolve x.hart (256 + eng) a 8 .atomic .engine
    modify (·.tagRead x.hart 4 5 eng x.addr ps a)
    let t ← atomicPieces x.hart x.id a ps 8 (fun v => some ((v + 2 ^ 48) % 2 ^ 64))
    pure { x with begun := true, base := bits t 43 0 * 4096, ver := bits t 47 44 }

/-- The destination of a row in memory (R215). -/
def istrDst (x : Istr) : Nat := (wnth x.words 6 + x.row * wnth x.words 7) % 2 ^ 64
/-- Units that a command delivers of each row: the 8-byte units of the row to a queue; to memory, the pieces that lie in one naturally
aligned 8-byte unit (R180, R215). -/
def istrUnits (x : Istr) : Nat :=
  let n := wnth x.words 3
  if (wnth x.words 1).testBit 35 then n / 8 else (istrDst x % 8 + n + 7) / 8
/-- First byte of the row, and the byte after the last, that a unit to memory holds. -/
def istrPart (x : Istr) : Nat × Nat :=
  let r := istrDst x % 8
  (8 * x.unit - r, min (wnth x.words 3) (8 * x.unit + 8 - r))

/-- Where a command delivers the units of its rows: one unit of the row in progress (R215). Each aligned 8-byte unit of memory is
written whole (R180). -/
def istrOut (eng : Nat) (x : Istr) : M Unit := do
  let w := x.words
  if (wnth w 1).testBit 35 then
    match (← get).deliverTo x.hart x.task (bits (wnth w 1) 43 40) (w64 (nth x.buf x.unit)) with
    | some s => set s
    | none => throw .block
  else
    let (lo, hi) := istrPart x
    vwrite x.hart x.id (256 + eng) ((istrDst x + lo) % 2 ^ 64) (hi - lo)
      (ofLe (((x.buf.flatMap (leBytes 8)).drop lo).take (hi - lo))) .engine

/-- One step of the row in progress (R215): its index, which is tested; an 8-byte unit read; with the row read, a unit
delivered. -/
def istrUnit (eng : Nat) (x : Istr) : M Istr := do
  let w := x.words
  let g := 256 + eng
  match x.idx with
  | none => do
    let ia := (wnth w 0 + x.row * istrIw w) % 2 ^ 64
    let i ← vread x.hart g ia (istrIw w) .engine
    if wnth w 5 ≤ i then throw (.freeze 0x20 ia 1)
    pure { x with idx := some i }
  | some i =>
    if x.buf.length < wnth w 3 / 8 then do
      let v ← vread x.hart g ((x.base + i * wnth w 4 + 8 * x.buf.length) % 2 ^ 64) 8 .engine
      pure { x with buf := x.buf ++ [v] }
    else do
      istrOut eng x
      pure (if x.unit + 1 = istrUnits x then { x with row := x.row + 1, unit := 0, idx := none, buf := [] }
        else { x with unit := x.unit + 1 })

/-- Steps up to the end of the row. -/
def istrRow (eng : Nat) : Nat → Istr → State → Istr × State × Option Stop
  | 0, x, s => (x, s, none)
  | n + 1, x, s =>
    match (istrUnit eng x).run s with
    | .ok x' s' => if x'.row ≠ x.row then (x', s', none) else istrRow eng n x' s'
    | .error st s' => (x, s', some st)

/-- Put back the first command of an engine after a step; its stop, if any, holds or freezes the engine. -/
def State.istrPut (s : State) (eng : Nat) (x : Istr) (st : Option Stop) : State :=
  let (s, hold) := match st with
    | some r => engineStop x.hart (.engine eng) x.addr (s.inTransit x.hart x.task) r s
    | none => (s, .run)
  let s := s.setEngine eng (({ x with hold := hold } : Istr) :: (s.engine eng).drop 1)
  s.modCtx x.hart (fun c => { c with istrs := sput c.istrs x.k ⟨if hold = .frozen then 3 else 1, x.row⟩ })

/-- Do the rows of a versioned command lie at remote locations that an earlier access of its hart, whose entry holds, touches (R169). -/
def State.rowsWait (s : State) (eng : Nat) (x : Istr) : Bool :=
  (wnth x.words 1).testBit 47 &&
  ((s.liveIlocks x.hart).takeWhile (fun l => l.owner != .istr eng)).any
    (s.farWaits x.hart (s.farOf x.hart (tableRows x.hart x.base x.words)))

/-- An engine delivers the next row of its command; a queue-destined command pauses while its task is saved (R215). -/
def State.istrDeliver (s : State) (eng : Nat) : State :=
  match s.engine eng with
  | [] => s
  | x :: _ =>
    if x.hold ≠ .run || (x.begun && istrN x.words ≤ x.row) || ((wnth x.words 1).testBit 35 && !s.onHart x.hart x.task) then s
    else s.asTask x.task (fun s =>
      match (istrBegin eng x).run s with
      | .error st s' => s'.istrPut eng x (some st)
      | .ok x s' =>
        if istrN x.words ≤ x.row || s'.rowsWait eng x then s'.istrPut eng x none
        else
          let (x, s', st) := istrRow eng 16386 x s'
          s'.istrPut eng x st)

/-- The end of an indirect command (R215): a versioned one adds 1 to its done counter. -/
def istrEnd (eng : Nat) (x : Istr) : M Unit := do
  if (wnth x.words 1).testBit 47 then
    let a := (wnth x.words 2 + 8 + 8 * x.ver) % 2 ^ 64
    let ps ← resolve x.hart (256 + eng) a 8 .atomic .engine
    let _ ← atomicPieces x.hart x.id a ps 8 (fun v => some ((v + 1) % 2 ^ 64))

/-- An engine completes its command once every row is delivered (R215). -/
def State.istrComplete (s : State) (eng : Nat) : State :=
  match s.engine eng with
  | [] => s
  | x :: _ =>
    if x.hold ≠ .run || !x.begun || x.row < istrN x.words then s
    else s.asTask x.task (fun s =>
      match (istrEnd eng x).run s with
      | .error st s' => s'.istrPut eng x (some st)
      | .ok _ s' =>
        (((s'.setEngine eng ((s'.engine eng).drop 1)).modCtx x.hart (fun c =>
          { c with istrs := sput c.istrs x.k ⟨0, x.row⟩ })).unlock x.hart (.istr eng)).trace x.hart 2 5 eng 0 x.addr ptrNone)

/-! ### Stops kept for later (R294) -/

/-- The stops that the engines of a task kept while it was being saved or restored take effect: it is back on its hart. -/
def State.takeKept (s : State) (h t : Nat) : State :=
  let c := coreOf h
  let own (o : Option (Nat × Nat)) : Bool := o == some (h, t)
  let s := (s.core c).chans.foldl (fun s e => match e.2.hold.kept with
    | some st => if own e.2.owner then s.chanStop h c e.1 e.2 st else s
    | none => s) s
  let s := (s.core c).streams.foldl (fun s e => match e.2.hold.kept with
    | some st => if own e.2.owner then s.streamStop h c e.1 e.2 st else s
    | none => s) s
  s.engines.foldl (fun s e => match e.2 with
    | x :: _ => (match x.hold.kept with
      | some st => if x.hart = h && x.task = t then s.istrPut e.1 x (some st) else s
      | none => s)
    | [] => s) s

/-- CPY ch, rs1: a copy command (R208 to R211). -/
def semCpy (c : BitVec 3) (a : BitVec 7) : VSem :=
  { w := 64, a := a.toNat, kind := .whole, engine := true, pipe := 3,
    misaligned := fun e => if e.opA.toNat % 8 ≠ 0 then some e.opA else none,
    command := some (fun h e => do pure (← cpyRead c.toNat h e).2), whole := cpyDispatch c.toNat }
/-- Meaning of CPY: it issues to the vector queue. -/
def execCpy (c : BitVec 3) (a : BitVec 7) (s : State) : Host.Outcome State Fault Refusal :=
  .next (issue (.cpy c a) (semCpy c a) s)

/-- SSTR s, q, rs1, rs2: opens a sparse stream (R213). -/
def semSstr (q : BitVec 7) (a : BitVec 7) (b : BitVec 7) (s : BitVec 2) : VSem :=
  { w := 64, a := a.toNat, b := b.toNat, kind := .whole, engine := true, pipe := 4, queues := [q.toNat],
    misaligned := fun e => if e.opA.toNat % 4 ≠ 0 then some e.opA else none,
    command := some (sstrClaim s.toNat), whole := sstrDispatch s.toNat q.toNat }
/-- Meaning of SSTR: it issues to the vector queue. -/
def execSstr (q : BitVec 7) (a : BitVec 7) (b : BitVec 7) (s : BitVec 2) (st : State) : Host.Outcome State Fault Refusal :=
  .next (issue (.sstr q a b s) (semSstr q a b s) st)

/-- SCLOSE s (R213). -/
def semSclose (s : BitVec 2) : VSem :=
  { w := 64, kind := .whole, pipe := 4, unit := s.toNat, whole := scloseDispatch s.toNat }
/-- Meaning of SCLOSE: it issues to the vector queue. -/
def execSclose (s : BitVec 2) (st : State) : Host.Outcome State Fault Refusal :=
  .next (issue (.sclose s) (semSclose s) st)

/-- ISTR k, rs1: an indirect-stream command (R214, R215). -/
def semIstr (k : BitVec 2) (a : BitVec 7) : VSem :=
  { w := 64, a := a.toNat, kind := .whole, engine := true, pipe := 5,
    misaligned := fun e => if e.opA.toNat % 64 ≠ 0 then some e.opA else none,
    command := some (fun h e => do pure (← istrRead k.toNat h e).2.2), whole := istrDispatch k.toNat }
/-- Meaning of ISTR: it issues to the vector queue. -/
def execIstr (k : BitVec 2) (a : BitVec 7) (s : State) : Host.Outcome State Fault Refusal :=
  .next (issue (.istr k a) (semIstr k a) s)

/-- COPY_CHUNK_COMPLETE: the next chunk of a channel is performed, and verified under CRC (R210, R211). -/
def execCopyChunkComplete (core ch : Nat) (s : State) : Host.Outcome State Fault Refusal := .next (s.chunk core ch)
/-- SPARSE_STREAM_APPEND: a stream appends its next entry when its queue has room (R213). -/
def execSparseStreamAppend (core st : Nat) (s : State) : Host.Outcome State Fault Refusal := .next (s.streamAppend core st)
/-- ISTR_ROW_DELIVER: an engine delivers its next row (R215). -/
def execIstrRowDeliver (engine : Nat) (s : State) : Host.Outcome State Fault Refusal := .next (s.istrDeliver engine)
/-- ISTR_COMPLETE: an engine completes its command (R215). -/
def execIstrComplete (engine : Nat) (s : State) : Host.Outcome State Fault Refusal := .next (s.istrComplete engine)

end Sys2Proof.Machine
end

