-- ==== Sys2Proof/Machine/Electrum.lean ====
section
/-! DEFINITION. Electrum: slot writes, grants, application at the copies, and the sleep and wake of layers (R219 to R231,
R322). -/

namespace Sys2Proof.Machine

/-! ### EST and EADD (R226, R227) -/

/-- Offset of an EST or EADD in the region. -/
def elecOff (e : Entry) : Nat := e.opA.toNat - elecBase
/-- Byte count of an EST or EADD. -/
def elecN (e : Entry) : Nat := e.opB.toNat

/-- Checks at dispatch (R227): inside the window, then slots held, then inside the launch's range. Both checks of the window and of the
slots are violations, in no order that the spec gives. (DESIGN CHOICE, log entry 62) -/
def elecStart (h : Nat) (e : Entry) : M Entry := do
  if elecN e = 0 then pure e
  else do
    let s ← get
    let tw := towerOf (coreOf h)
    if e.opA.toNat < elecBase || elecBase + elecSize < e.opA.toNat + elecN e then throw (.freeze 0x20 e.opA.toNat 2)
    match s.launchOf h with
    | none => throw (.freeze 0x24 e.opA.toNat 2)
    | some l =>
      if l.par.eslot = 0 || !l.hasElec tw (elecOff e) (elecN e) then throw (.freeze 0x24 e.opA.toNat 2)
      pure e

/-- The slot write an entry sends next (R227). -/
def slotWrite (c : Ctx) (e : Entry) : SlotWrite :=
  let o := elecOff e
  let lo := o + 4 * e.estart
  let hi := min (o + elecN e) ((lo / 128 + 1) * 128)
  { kind := e.func4, lo := lo,
    data := (List.range (hi - lo)).map (fun k => BitVec.ofNat 8 (c.vel e.physD 8 (4 * e.estart + k))) }

/-- Does the slot write an entry sends next hit a watchpoint: EST and EADD are writes of the vector agent (R171, R332). -/
def State.elecWatched (s : State) (h : Nat) (e : Entry) : Bool :=
  s.watched h (e.opA.toNat + 4 * e.estart) (slotWrite (s.ctx h) e).data.length .write

/-- An Electrum write: it waits at each slot write until the channel grants it a slot (R222, R227). A hit of a watchpoint freezes the
hart at the first word of the slot write, of which no part is sent (R227, R332). -/
def semElec (v a b : BitVec 7) : VSem :=
  { w := 32, d := v.toNat, a := a.toNat, b := b.toNat, pipe := 6,
    bad := fun e => elecN e % 4 != 0 || e.maxb < elecN e,
    misaligned := fun e => if e.opA.toNat % 4 ≠ 0 then some e.opA else none,
    total := fun _ _ e => elecN e / 4,
    ranges := fun _ h e => ([], if elecN e = 0 then [] else blockRange h elecBase elecSize),
    start := elecStart,
    elem := fun h e _ => do
      if (← get).elecWatched h e then throw (.freeze 0x2A (e.opA.toNat + 4 * e.estart) 2)
      throw .block }

/-- Is an entry an Electrum write that has begun and has a slot write to send. -/
def elecReady (e : Entry) : Bool := e.major == 0x6F && e.func4 < 3 && e.begun && e.estart < elecN e / 4

/-- Append a slot write to the slot order of a tower (R223, R224): its place is the count before it. -/
def State.order (s : State) (t : Nat) (w : SlotWrite) : State := s.modTower t (fun x => { x with log := x.log ++ [w] })
/-- Number of slot writes ordered so far in a tower. -/
def Tower.ordered (x : Tower) : Nat := x.base + x.log.length

/-- Grant a slot to a hart whose oldest entry is ready: the write is ordered, and the entry's elements up to its end are
committed (R224, R227). -/
def State.grantHart (s : State) (h : Nat) : State :=
  match (s.ctx h).vq with
  | [] => s
  | e :: _ =>
    let t := towerOf (coreOf h)
    let w := slotWrite (s.ctx h) e
    let place := (s.tower t).ordered
    let s := ((s.order t w).count h 8 1).noteWrite h (some e.id) [(locElec t (layerOf (coreOf h)) w.lo, w.data.length)]
    let e' := { e with estart := e.estart + w.data.length / 4 }
    let s := s.modCtx h (fun c => { c.putEntry e' with elecEnd := place + 1 })
    if e'.estart < elecN e / 4 then s
    else
      (s.modCtx h (fun c => { c with ilocks := c.ilocks.map (fun l =>
        if l.owner = .entry e.id then { l with owner := .electrum place } else l) })).retire h (semElec 0 0 0) e'

/-- Harts of a launch in a tower with a ready slot write, ascending (R222). A frozen or stopped hart is never ready. -/
def State.elecHarts (s : State) (l t : Nat) : List Nat :=
  (s.members 3 t).filter (fun h =>
    (s.taskOf h).any (fun k => k.launch == l) && (s.hart h).run == .running &&
    (match (s.ctx h).vq with
     | e :: _ => elecReady e && !s.elecWatched h e
     | [] => false))

/-- The next hart in round-robin order after the last one granted. -/
def nextAfter (last : Option Nat) (l : List Nat) : Option Nat :=
  match last with
  | none => l.head?
  | some k => match l.find? (fun h => k < h) with
    | some h => some h
    | none => l.head?

/-- A slot of the channel of a tower (R219, R222): its launch's clearing writes first, then its harts in turn. -/
def State.slotGrant (s : State) (t slot : Nat) : State :=
  match s.sched.launches.find? (fun l => (sfind l.2.towers t).any (fun x => x.slots.contains slot)) with
  | none => s
  | some (k, l) =>
    match sfind l.towers t with
    | none => s
    | some x =>
      if (s.tower t).stop then s
      else if x.clear ≠ 0 then
        let blk := l.par.eoff + l.par.esz - x.clear
        let s := s.order t { kind := 0, lo := blk * 128, data := List.replicate 128 0 }
        let x := { x with clear := x.clear - 1,
                          clearEnd := if x.clear = 1 then some (s.tower t).ordered else none }
        s.modLaunch k (fun l => { l with towers := sput l.towers t x })
      else
        match nextAfter x.last (s.elecHarts k t) with
        | none => s
        | some h =>
          (s.modLaunch k (fun l => { l with towers := sput l.towers t { x with last := some h } })).grantHart h

/-- One word of a slot write at a copy (R227). -/
def applyWord (kind old d : Nat) : Nat :=
  match kind with
  | 0 => d
  | 1 => (old + d) % 2 ^ 32
  | _ => (opF (fmtOf .f32) 0 .add old d).1

/-- ApplyWrite of R227 at copy k of a tower. -/
def applyWrite (m : List Host.Cell) (t k : Nat) (w : SlotWrite) : List Host.Cell :=
  (List.range (w.data.length / 4)).foldl (fun m i =>
    let a := locElec t k (w.lo + 4 * i)
    wrNum m a 4 (applyWord w.kind (rdNum m a 4) (ofLe ((w.data.drop (4 * i)).take 4)))) m

/-- Slot writes that every awake copy has applied leave the log. -/
def Tower.prune (x : Tower) : Tower :=
  let m := ((List.range 9).filter x.awake).foldl (fun a k => min a (nth x.applied k)) x.ordered
  { x with log := x.log.drop (m - x.base), base := max x.base m }

/-- Does the replica of a waking layer hear the slots (R231). -/
def Tower.hears (x : Tower) (k : Nat) : Bool :=
  match x.layers.getD k .active with
  | .listening _ => true
  | _ => false

/-- A copy applies the next slot write of the order (R227); the replica of a waking layer hears it, and its ESEQ rises (R231). -/
def State.applyNext (s : State) (t k : Nat) : State :=
  let x := s.tower t
  let n := nth x.applied k
  if k < 8 && x.hears k && n < x.ordered then s.setTower t { x with applied := setAt x.applied k (n + 1) }
  else if k < 9 && x.awake k && n < x.ordered && x.base ≤ n then
    match x.log[n - x.base]? with
    | none => s
    | some w =>
      let s := { s with mem := applyWrite s.mem t k w }
      s.setTower t { x with applied := setAt x.applied k (n + 1) }.prune
  else s

/-- ESEQ of the replica on a core's layer (R220). -/
def State.eseq (s : State) (h : Nat) : Nat := nth (s.tower (towerOf (coreOf h))).applied (layerOf (coreOf h)) % 2 ^ 64

/-! ### Sleep and wake (R230, R231, R322) -/

/-- Cores of a layer. -/
def layerCores (t k : Nat) : List Nat := (List.range 8).map (fun c => 64 * t + 8 * c + k)

/-- Does a layer meet R230: no task on its harts or in its banks, no command on its channels and streams. A store in flight of a task that has
left does not count (DESIGN CHOICE, log entry 68). -/
def State.layerIdle (s : State) (t k : Nat) : Bool :=
  (layerCores t k).all (fun c =>
    let x := s.core c
    x.bank == .empty && x.chans.all (fun e => e.2.owner.isNone) && x.streams.all (fun e => e.2.owner.isNone) &&
    (List.range 4).all (fun i => (s.hart (4 * c + i)).task.isNone))

/-- Keep the time since when each layer meets R322 without a break. -/
def State.tickLayers (s : State) : State :=
  (List.range 32).foldl (fun (s : State) i =>
    let t := i / 8
    let k := i % 8
    let x := s.tower t
    let ok := s.power.lpol.testBit i && x.layers.getD k .active == .active && s.layerIdle t k
    let old := x.idleSince.getD k none
    let new := if ok then some (old.getD s.time) else none
    if new = old then s else s.setTower t { x with idleSince := setAt x.idleSince k new }) s

/-- A layer enters SLEEP (R230, R322): its scalar data caches write back and invalidate, its instruction caches are emptied. -/
def State.layerSleep (s : State) (t k : Nat) : State :=
  let x := s.tower t
  match x.idleSince.getD k none with
  | none => s
  | some since =>
    if s.power.slpdly ≤ s.time - since && x.layers.getD k .active == .active && s.layerIdle t k then
      let s := (layerCores t k).foldl (fun s c =>
        ((s.core c).dc.foldl (fun s e => s.dcDropLine c e.1) s).modCore c (fun x => { x with icache := [] })) s
      let x := s.tower t
      s.setTower t { x with layers := setAt x.layers k .sleep, idleSince := setAt x.idleSince k none }.prune
    else s

/-- Does the scheduler need a core of a layer: a launch has a group that has not started, or a task of the layer is saved (R322). That any
such group and any such task counts is the model's choice (DESIGN CHOICE, log entry 80). -/
def State.layerNeeded (s : State) (t k : Nat) : Bool :=
  s.sched.launches.any (fun l => l.2.next < l.2.par.groups) ||
  s.sched.tasks.any (fun e => e.2.saved.isSome && (layerCores t k).contains (coreOf e.2.hart))

/-- The scheduler wakes a layer: power returns in 60,000 cycles (R322). -/
def State.layerWake (s : State) (t k : Nat) : State :=
  let x := s.tower t
  if x.layers.getD k .active == .sleep && s.layerNeeded t k then
    s.setTower t { x with layers := setAt x.layers k (.powering (s.time + 60000)) }
  else s

/-- Power returns: the replica hears every slot, with its ESEQ at the count of ordered slot writes (R231). -/
def State.layerPower (s : State) (t k : Nat) : State :=
  let x := s.tower t
  match x.layers.getD k .active with
  | .powering at_ =>
    if at_ ≤ s.time then
      s.setTower t { x with layers := setAt x.layers k (.listening s.time), applied := setAt x.applied k x.ordered }
    else s
  | _ => s

/-- Copy n bytes at src to dst. -/
def copyCells (m : List Host.Cell) (src dst n : Nat) : List Host.Cell :=
  m.filter (fun c => c.1 < dst) ++
  ((m.filter (fun c => src ≤ c.1 && c.1 < src + n)).map (fun c => (c.1 - src + dst, c.2))) ++
  m.filter (fun c => dst + n ≤ c.1)

/-- Wake completion (R231): every block is copied from the master, with the slot writes heard that the master has yet to apply; the
replica's ESEQ is at least the master's. -/
def State.wakeComplete (s : State) (t k : Nat) : State :=
  let x := s.tower t
  match x.layers.getD k .active with
  | .listening since =>
    if since + 4096 ≤ s.time then
      let m := copyCells s.mem (locElec t 8 0) (locElec t k 0) elecSize
      let n := nth x.applied 8
      let m := ((x.log.drop (n - x.base)).take (nth x.applied k - n)).foldl (fun m w => applyWrite m t k w) m
      { s with mem := m }.setTower t
        { x with layers := setAt x.layers k .active, applied := setAt x.applied k (max n (nth x.applied k)) }
    else s
  | _ => s

/-- EST vs, rs1, rs2: stores into the Electrum region (R226, R227). -/
def semEst (v : BitVec 7) (a : BitVec 7) (b : BitVec 7) : VSem :=
  semElec v a b
/-- Meaning of EST: it issues to the vector queue. -/
def execEst (v : BitVec 7) (a : BitVec 7) (b : BitVec 7) (s : State) : Host.Outcome State Fault Refusal :=
  .next (issue (.est v a b) (semEst v a b) s)

/-- EADD.S32 vs, rs1, rs2: adds S32 words into the Electrum region (R226, R227). -/
def semEaddS32 (v : BitVec 7) (a : BitVec 7) (b : BitVec 7) : VSem :=
  semElec v a b
/-- Meaning of EADD_S32: it issues to the vector queue. -/
def execEaddS32 (v : BitVec 7) (a : BitVec 7) (b : BitVec 7) (s : State) : Host.Outcome State Fault Refusal :=
  .next (issue (.eaddS32 v a b) (semEaddS32 v a b) s)

/-- EADD.F32 vs, rs1, rs2: adds F32 words into the Electrum region (R226, R227). -/
def semEaddF32 (v : BitVec 7) (a : BitVec 7) (b : BitVec 7) : VSem :=
  semElec v a b
/-- Meaning of EADD_F32: it issues to the vector queue. -/
def execEaddF32 (v : BitVec 7) (a : BitVec 7) (b : BitVec 7) (s : State) : Host.Outcome State Fault Refusal :=
  .next (issue (.eaddF32 v a b) (semEaddF32 v a b) s)

/-- SLOT_GRANT: a slot of the channel goes to its launch's next ready hart (R222). -/
def execSlotGrant (tower slot : Nat) (s : State) : Host.Outcome State Fault Refusal := .next (s.slotGrant tower slot)

/-- ELECTRUM_APPLY: a copy applies the next slot write and advances its ESEQ (R227). -/
def execElectrumApply (tower copy : Nat) (s : State) : Host.Outcome State Fault Refusal := .next (s.applyNext tower copy)

/-- LAYER_SLEEP (R322). -/
def execLayerSleep (tower layer : Nat) (s : State) : Host.Outcome State Fault Refusal := .next (s.layerSleep tower layer)

/-- LAYER_WAKE_REQUEST (R322). -/
def execLayerWakeRequest (tower layer : Nat) (s : State) : Host.Outcome State Fault Refusal := .next (s.layerWake tower layer)

/-- LAYER_POWER_RETURN (R231). -/
def execLayerPowerReturn (tower layer : Nat) (s : State) : Host.Outcome State Fault Refusal := .next (s.layerPower tower layer)

/-- WAKE_COMPLETE (R231). -/
def execWakeComplete (tower layer : Nat) (s : State) : Host.Outcome State Fault Refusal := .next (s.wakeComplete tower layer)

end Sys2Proof.Machine
end

