-- ==== Sys2Proof/Machine/Fences.lean ====
section
/-! DEFINITION. FENCE: what it leaves in the scope checker (R192, R193), and its form as a queue entry (R184). -/

namespace Sys2Proof.Machine

/-- What a FENCE leaves in the scope checker (R192, R193): its acquire part checks the last reads of its source agents; its
release part makes the next write of each target agent a release write. The report names the pipe and the address of the FENCE
(R334). Queue entries after it are numbered from id on. -/
def State.fenceMarks (s : State) (h scope order dir pipe addr id : Nat) : State :=
  if !s.dbgOf h then s
  else
    let c := s.ctx h
    let chk (s : State) (l : Option LastRead) : State := match l with
      | some r => s.scopeReport h scope pipe 0 addr r
      | none => s
    let s := if isAcquire order then
        let s := if srcScalar dir then chk s c.lastS else s
        if srcVector dir then chk s c.lastV else s
      else s
    if isRelease order then
      s.modCtx h (fun c => { c with relS := if dstScalar dir then some scope else c.relS,
                                    relV := if dstVector dir then c.relV ++ [(id, scope)] else c.relV })
    else s

/-- FENCE with direction vector→vector as a queue entry (R184). -/
def semFenceVV (scope order : Nat) : VSem :=
  { w := 64, kind := .whole,
    whole := fun h e => do
      let s ← get
      if !s.fenceReady h order 2 [] then throw .block
      set (s.fenceMarks h scope order 2 1 e.addr (e.id + 1))
      pure ([], []) }

end Sys2Proof.Machine
end

