-- ==== Sys2Proof/Machine/Fibre.lean ====
section
/-! DEFINITION. Fibre registers and sparse instructions: majors 0x70 to 0x76 (R254 to R273). -/

namespace Sys2Proof.Machine

/-- One combining step of two values (R263 Table 7): ops add, mul, max, min, and sub of FMAP. -/
def combine2 (t : Ty) (rm : Nat) (sat : Bool) (op x y : Nat) : Nat × Nat :=
  if t = .f32 then
    let f := fmtOf .f32
    match op with
    | 0 => opF f rm .add x y
    | 1 => opF f rm .mul x y
    | 2 => opF f rm .max x y
    | 3 => opF f rm .min x y
    | _ => opF f rm .sub x y
  else
    let a := intOf t x
    let b := intOf t y
    match op with
    | 0 => (fit t sat (a + b), 0)
    | 1 => (fit t sat (a * b), 0)
    | 2 => (if a < b then y else x, 0)
    | 3 => (if b < a then y else x, 0)
    | _ => (fit t sat (a - b), 0)

/-- Comb(op, values) of R263: 4 first, 5 count, the others folded from the left. -/
def combine (t : Ty) (rm : Nat) (sat : Bool) (op : Nat) (vs : List Nat) : Nat × Nat :=
  if op = 5 then (vs.length % 2 ^ 32, 0)
  else
    match vs with
    | [] => (0, 0)
    | x :: r =>
      if op = 4 then (x, 0)
      else r.foldl (fun (a : Nat × Nat) y =>
        let (v, fl) := combine2 t rm sat op a.1 y
        (v, a.2 ||| fl)) (x, 0)

/-- The terminator of a queue source (R257). -/
def terminator : Word := 0x8000000000000000

/-- Is a source field a queue (R257). -/
def isQueueSrc (x : Nat) : Bool := 16 ≤ x
/-- The queues among source fields. -/
def queueSrcs (xs : List Nat) : List Nat := (xs.filter isQueueSrc).map (· - 16)

/-- Next(X, i) of R264. -/
def nextPair (h x i : Nat) : M (Option (Nat × Nat)) := do
  if isQueueSrc x then
    let v ← peekQueue h (x - 16) 0
    pure (if v = terminator then none else some (bits v.toNat 31 0, bits v.toNat 63 32))
  else
    pure (((← get).ctx h).fibre x).pairs[i]?

/-- Does a pair fail the order test (R255, R257): against the pair before it in a fibre, against the last pair consumed in a
queue. -/
def orderFails (c : Ctx) (x i : Nat) (last : Option Nat) (p : Option (Nat × Nat)) : Bool :=
  match p with
  | none => false
  | some (k, _) =>
    if isQueueSrc x then last.any (fun l => k ≤ l)
    else
      match i with
      | 0 => false
      | j + 1 => ((c.fibre x).pairs[j]?).any (fun l => k ≤ l.1)

/-- Take(X, i) of R264. -/
def takePair (h x : Nat) : M Unit := do
  if isQueueSrc x then modify (fun s => s.modCtx h (fun c => c.pop (x - 16)))

/-- Full of R264. -/
def fullFibre (c : Ctx) (f : Nat) : Bool := (c.fibre f).cap ≤ (c.fibre f).pairs.length

/-- Emit of R264. -/
def emitPair (h f c v : Nat) : M Unit :=
  modify (fun s => s.modCtx h (fun x => x.setFibre f { x.fibre f with pairs := (x.fibre f).pairs ++ [(c, v)] }))

/-- An entry with one more result pair: ESTART counts them (R260). -/
def Entry.emitted (e : Entry) : Entry := { e with estart := min 0xFFFF (e.estart + 1) }

/-- Finish of R264: st 0 NONE, 1 OVF, 2 ORD; ends are the queue sources that reached END. -/
def finishFibre (h : Nat) (e : Entry) (st : Nat) (ends : List Nat) : M (Entry × List (Nat × Nat) × Bool) := do
  modify (fun s => s.modCtx h (fun c =>
    let c := if st = 0 then ends.foldl (fun (c : Ctx) q => c.pop q) c else c
    { c with fprogA := if st = 0 then 0 else e.progA, fprogB := if st = 0 then 0 else e.progB,
             ovf := st == 1, ord := st == 2 }))
  pure (e, [], true)

/-- Beginning of a progress-class instruction (R259): its progress words, and its destination emptied. -/
def beginFibre (d : Option Nat) (pos : Ctx → Word × Word) (h : Nat) (e : Entry) : M Entry := do
  let c := (← get).ctx h
  let (a, b) := pos c
  match d with
  | some f => modify (fun s => s.modCtx h (fun c => c.setFibre f { c.fibre f with pairs := [] }))
  | none => pure ()
  pure { e with progA := a, progB := b, estart := 0, lastA := none, lastB := none }

/-- The start position of a source (R258): 0 for a queue, else the word, at most FLEN. -/
def startPos (c : Ctx) (x : Nat) (w : Word) : Word :=
  if isQueueSrc x then 0 else w64 (min (w.toNat % 2 ^ 32) (c.fibre x).pairs.length)

/-- Which stop of two accesses of one element comes first (R197): a violation, then a translation fault, then a watchpoint. -/
def Stop.rank (st : Stop) : Nat :=
  match st with
  | .freeze code _ _ => if code = 0x2A then 1 else 3
  | .fault _ _ _ => 2
  | .trap _ _ => 0
  | .block => 0

/-- Test accesses of 4 bytes or more that count as one element (R197, R266): all of them, then the stop that comes first. -/
def testAll (h : Nat) (k : AccKind) : List (Nat × Nat) → Option Stop → M Unit
  | [], none => pure ()
  | [], some st => throw st
  | (a, n) :: t, w => do
    match (resolve h (coreOf h) a n k .vector).run (← get) with
    | .ok _ s =>
      set s
      testAll h k t w
    | .error st s =>
      set s
      testAll h k t (if w.any (fun x => st.rank ≤ x.rank) then w else some st)

/-- Test the accesses of a pair (R266): its coordinate, and its value unless there is none. -/
def testPair (h a : Nat) (v : Option Nat) (k : AccKind) : M Unit :=
  testAll h k ((a, 4) :: (v.map (fun b => (b, 4))).toList) none

/-- Address i of an array of 32-bit elements. -/
def arr4 (base : Word) (i : Nat) : Nat := (base + w64 (4 * i)).toNat

/-- Traps of FLD and FST at issue (R265): the coordinate array, then the value array. (DEDUCED, log entry 27) -/
def badArrays (e : Entry) : Option Word :=
  if e.opA.toNat % 4 ≠ 0 then some e.opA else if e.opC.toNat % 4 ≠ 0 then some e.opC else none

/-- One step of Fld (R265). -/
def fldStep (d : Nat) (h : Nat) (e : Entry) : M (Entry × List (Nat × Nat) × Bool) := do
  let i := e.progA.toNat
  let n := e.opB.toNat % 2 ^ 32
  if n ≤ i then finishFibre h e 0 []
  else if fullFibre ((← get).ctx h) d then finishFibre h e 1 []
  else do
    let va := if e.opC = 0 then none else some (arr4 e.opC i)
    testPair h (arr4 e.opA i) va .read
    let c ← vread h (coreOf h) (arr4 e.opA i) 4 .vector
    let v ← (match va with
      | some b => vread h (coreOf h) b 4 .vector
      | none => pure 0)
    emitPair h d c v
    pure ({ e with progA := w64 (i + 1) }.emitted, [], false)

/-- One step of Fwalk (R267). The accesses of pair i are tested before either is performed (R266); a pair that finds the fibre full
has no value access. The test of order reads the coordinate before it as well. (DEDUCED, log entry 27) -/
def fwalkStep (d : Nat) (h : Nat) (e : Entry) : M (Entry × List (Nat × Nat) × Bool) := do
  let w := coreOf h
  let rd8 (k : Nat) : M Word := do
    let x ← vread h w (e.opA + w64 (8 * k)).toNat 8 .vector
    pure (w64 x)
  let d0 ← rd8 0
  let d1 ← rd8 1
  let d2 ← rd8 2
  let d3 ← rd8 3
  let n := if d3 = 1 then 8 else 4
  let lo ← vread h w (d0 + w64 n * e.opB).toNat n .vector
  let hi ← vread h w (d0 + w64 n * (e.opB + 1)).toNat n .vector
  if hi < lo then finishFibre h e 2 []
  else
    let i := e.progA.toNat
    if hi ≤ lo + i then finishFibre h e 0 []
    else do
      let full := fullFibre ((← get).ctx h) d
      testAll h .read ([(arr4 d1 (lo + i), 4)] ++ (if i = 0 then [] else [(arr4 d1 (lo + i - 1), 4)]) ++
        (if d2 = 0 || full then [] else [(arr4 d2 (lo + i), 4)])) none
      let c ← vread h w (arr4 d1 (lo + i)) 4 .vector
      let bad ← (if i = 0 then pure false else do
        let p ← vread h w (arr4 d1 (lo + i - 1)) 4 .vector
        pure (decide (c ≤ p)))
      if bad then finishFibre h e 2 []
      else if full then finishFibre h e 1 []
      else do
        let v ← (if d2 = 0 then pure ((lo + i) % 2 ^ 32) else vread h w (arr4 d2 (lo + i)) 4 .vector)
        emitPair h d c v
        pure ({ e with progA := w64 (i + 1) }.emitted, [], false)

/-- One step of Fsort (R268): the smallest coordinate at or above the threshold. -/
def fsortStep (t : Ty) (sat : Bool) (op d a : Nat) (h : Nat) (e : Entry) : M (Entry × List (Nat × Nat) × Bool) := do
  let c := (← get).ctx h
  let u := (c.fibre a).pairs.filter (fun p => e.progA.toNat ≤ p.1)
  match u with
  | [] => finishFibre h e 0 []
  | p :: r =>
    let k := r.foldl (fun m q => min m q.1) p.1
    if fullFibre c d then finishFibre h { e with progA := w64 k } 1 []
    else do
      let (v, fl) := combine t e.rm sat op ((u.filter (fun q => q.1 = k)).map (·.2))
      let q := (c.fibre d).pairs.length
      emitPair h d k v
      pure ({ e with progA := w64 (k + 1) }.emitted, [(fl, q)], false)

/-- What a merge of two sources does with the coordinates (R269). -/
inductive Merge where
  | isect | count | union
  deriving DecidableEq, Repr

/-- The queue sources among a and b whose next pair is END. -/
def endQueues (xa xb : Nat) (a b : Option (Nat × Nat)) : List Nat :=
  queueSrcs ((if a.isNone then [xa] else []) ++ (if b.isNone then [xb] else []))

/-- The lone pair of one source: emitted by a union, and consumed. first says which source it is. -/
def loneStep (kind : Merge) (t : Ty) (sat : Bool) (op d x : Nat) (first : Bool) (p : Nat × Nat) (h : Nat) (e : Entry) :
    M (Entry × List (Nat × Nat) × Bool) := do
  let c := (← get).ctx h
  let e' := if first then { e with progA := e.progA + 1, lastA := some p.1 }
    else { e with progB := e.progB + 1, lastB := some p.1 }
  if kind = .union then
    if fullFibre c d then finishFibre h e 1 []
    else do
      let (v, fl) := combine t e.rm sat op [p.2]
      let q := (c.fibre d).pairs.length
      emitPair h d p.1 v
      takePair h x
      pure (e'.emitted, [(fl, q)], false)
  else do
    takePair h x
    pure (e', [], false)

/-- One step of Binary (R269). -/
def binaryStep (kind : Merge) (t : Ty) (sat : Bool) (op d xa xb : Nat) (h : Nat) (e : Entry) :
    M (Entry × List (Nat × Nat) × Bool) := do
  let a ← nextPair h xa e.progA.toNat
  let b ← nextPair h xb e.progB.toNat
  let c := (← get).ctx h
  if orderFails c xa e.progA.toNat e.lastA a || orderFails c xb e.progB.toNat e.lastB b then finishFibre h e 2 []
  else
    match a, b with
    | none, none => finishFibre h e 0 (endQueues xa xb a b)
    | some p, none =>
      if kind ≠ .union && !isQueueSrc xa then finishFibre h e 0 (endQueues xa xb a b)
      else loneStep kind t sat op d xa true p h e
    | none, some p =>
      if kind ≠ .union && !isQueueSrc xb then finishFibre h e 0 (endQueues xa xb a b)
      else loneStep kind t sat op d xb false p h e
    | some p, some q =>
      if p.1 < q.1 then loneStep kind t sat op d xa true p h e
      else if q.1 < p.1 then loneStep kind t sat op d xb false q h e
      else
        let e' := { e with progA := e.progA + 1, progB := e.progB + 1, lastA := some p.1, lastB := some q.1 }
        if kind = .count then do
          modify (fun s => s.modCtx h (fun c => c.setP e.physD (c.getP e.physD + 1)))
          takePair h xa
          takePair h xb
          pure (e'.emitted, [], false)
        else if fullFibre c d then finishFibre h e 1 []
        else do
          let (v, fl) := combine t e.rm sat op [p.2, q.2]
          let n := (c.fibre d).pairs.length
          emitPair h d p.1 v
          takePair h xa
          takePair h xb
          pure (e'.emitted, [(fl, n)], false)

/-- Start positions of a merge of two sources (R258). -/
def binaryPos (xa xb : Nat) (c : Ctx) : Word × Word := (startPos c xa c.fprogA, startPos c xb c.fprogB)

/-- Position of source i of FMERGE (R258 Table 4). -/
def mergePos (a b : Word) (i : Nat) : Nat :=
  if i < 4 then bits a.toNat (16 * i + 15) (16 * i) else bits b.toNat (16 * (i - 4) + 15) (16 * (i - 4))
/-- The two progress words of positions. -/
def mergeWords (ps : List Nat) : Word × Word :=
  (w64 (nth ps 0 + nth ps 1 * 2 ^ 16 + nth ps 2 * 2 ^ 32 + nth ps 3 * 2 ^ 48),
   w64 (nth ps 4 + nth ps 5 * 2 ^ 16 + nth ps 6 * 2 ^ 32 + nth ps 7 * 2 ^ 48))

/-- One step of Fmerge (R270) over n fibres from a. -/
def fmergeStep (t : Ty) (sat : Bool) (op d a n : Nat) (h : Nat) (e : Entry) : M (Entry × List (Nat × Nat) × Bool) := do
  let c := (← get).ctx h
  let ps := (List.range n).map (mergePos e.progA e.progB)
  let xs := (List.range n).map (fun i => (c.fibre (a + i)).pairs[nth ps i]?)
  if (List.range n).any (fun i => orderFails c (a + i) (nth ps i) none ((xs.getD i none))) then finishFibre h e 2 []
  else
    match xs.filterMap id with
    | [] => finishFibre h e 0 []
    | p :: r =>
      let k := r.foldl (fun m q => min m q.1) p.1
      if fullFibre c d then finishFibre h e 1 []
      else do
        let (v, fl) := combine t e.rm sat op ((p :: r).filterMap (fun q => if q.1 = k then some q.2 else none))
        let q := (c.fibre d).pairs.length
        emitPair h d k v
        let (wa, wb) := mergeWords ((List.range n).map (fun i =>
          if (xs.getD i none).any (fun q => q.1 = k) then nth ps i + 1 else nth ps i))
        pure ({ e with progA := wa, progB := wb }.emitted, [(fl, q)], false)

/-- Start positions of FMERGE: each at most the length of its fibre. Bits of FPROGA and FPROGB that R258 Table 4 does not use are dropped here,
and read 0 after a stop (DESIGN CHOICE, log entry 69). -/
def mergeStart (a n : Nat) (c : Ctx) : Word × Word :=
  mergeWords ((List.range n).map (fun i => min (mergePos c.fprogA c.fprogB i) (c.fibre (a + i)).pairs.length))

/-- One step of Filter (R271): f gives the value written for a kept pair. -/
def filterStep (ordered : Bool) (d x : Nat) (f : Entry → Nat × Nat → Option (Nat × Nat)) (h : Nat) (e : Entry) :
    M (Entry × List (Nat × Nat) × Bool) := do
  let i := e.progA.toNat
  let p ← nextPair h x i
  let c := (← get).ctx h
  match p with
  | none => finishFibre h e 0 (queueSrcs [x])
  | some q =>
    if ordered && orderFails c x i e.lastA p then finishFibre h e 2 []
    else
      let e' := { e with progA := w64 (i + 1), lastA := some q.1 }
      match f e q with
      | none => do
        takePair h x
        pure (e', [], false)
      | some (v, fl) =>
        if fullFibre c d then finishFibre h e 1 []
        else do
          let n := (c.fibre d).pairs.length
          emitPair h d q.1 v
          takePair h x
          pure (e'.emitted, [(fl, n)], false)

/-- Start position of a single source. -/
def filterPos (x : Nat) (c : Ctx) : Word × Word := (startPos c x c.fprogA, 0)

/-- The value FMAP writes (R271 Table 10). -/
def fmapVal (t : Ty) (rm : Nat) (sat : Bool) (op v s : Nat) : Nat × Nat :=
  match op with
  | 4 => (s, 0)
  | 5 => combine2 t rm sat 9 v s
  | 6 => (match t with
    | .f32 => v % 2 ^ 31
    | .s32 => fit .s32 sat (intOf .s32 v).natAbs
    | _ => v, 0)
  | 7 => (match t with
    | .f32 => v ^^^ 2 ^ 31
    | .s32 => fit .s32 sat (-(intOf .s32 v))
    | _ => patOf 32 (-(v : Int)), 0)
  | _ => combine2 t rm sat op v s

/-- Is a value of FCOMPACT zero (R271). -/
def zeroVal (t : Ty) (v : Nat) : Bool := if t = .f32 then v % 2 ^ 31 == 0 else v == 0

/-- Element k of a vector sweep of 32-bit elements (R272). -/
def sweepEl (c : Ctx) (phys vle k : Nat) : Nat := c.vel (phys + k / vle) 32 (k % vle)

/-- Fexpand (R272). -/
def fexpandAll (pol : BitVec 1) (f : Nat) (h : Nat) (e : Entry) : M (List (Nat × Nat) × List Nat) := do
  let c := (← get).ctx h
  let n := e.rows * e.vle
  let b := e.opB.toNat % 2 ^ 32
  let inR (p : Nat × Nat) : Bool := b ≤ p.1 && p.1 - b < n
  let ps := (c.fibre f).pairs
  let c := ps.foldl (fun (c : Ctx) p =>
    if inR p then c.setVel (e.physD + (p.1 - b) / e.vle) 32 ((p.1 - b) % e.vle) p.2 else { c with rng := true }) c
  let c := if pol = 1 then
      ((List.range n).filter (fun k => !ps.any (fun p => inR p && p.1 - b == k))).foldl
        (fun (c : Ctx) k => c.setVel (e.physD + k / e.vle) 32 (k % e.vle) 0) c
    else c
  modify (fun s => s.setCtx h c)
  pure ([], [])

/-- One pair of Fgather (R272). -/
def fgatherEl (d : Nat) (h : Nat) (e : Entry) (q : Nat) : M Nat := do
  modify (fun s => s.modCtx h (fun c =>
    let n := e.rows * e.vle
    let b := e.opB.toNat % 2 ^ 32
    let fb := c.fibre d
    match fb.pairs[q]? with
    | none => c
    | some p =>
      if b ≤ p.1 && p.1 - b < n then
        c.setFibre d { fb with pairs := fb.pairs.set q (p.1, sweepEl c e.physA e.vle (p.1 - b)) }
      else { c.setFibre d { fb with pairs := fb.pairs.set q (p.1, 0) } with rng := true }))
  pure 0

/-- Capacities of the other fibres (R273). -/
def otherCaps (c : Ctx) (f : Nat) : Nat :=
  ((List.range 16).filter (· != f)).foldl (fun n g => n + (c.fibre g).cap) 0

/-- FLD fd, rs1, rs2: pairs from two arrays (R265, R266). -/
def semFld (d : BitVec 7) (a : BitVec 7) (b : BitVec 7) (_px : Option Pfx) : VSem :=
  { w := 32, d := d.toNat, a := a.toNat, b := b.toNat, c := a.toNat + 1, misaligned := badArrays, kind := .progress,
    start := beginFibre (some d.toNat) (fun c => (w64 (c.fprogA.toNat % 2 ^ 32), 0)),
    ranges := fun s h e =>
      let i := (s.ctx h).fprogA.toNat % 2 ^ 32
      let n := e.opB.toNat % 2 ^ 32 - i
      (blockRange h (arr4 e.opA i) (4 * n) ++ (if e.opC = 0 then [] else blockRange h (arr4 e.opC i) (4 * n)), []),
    prog := fldStep d.toNat }
/-- Meaning of FLD: it issues to the vector queue. -/
def execFld (d : BitVec 7) (a : BitVec 7) (b : BitVec 7) (px : Option Pfx) (s : State) : Host.Outcome State Fault Refusal :=
  .next (issue (.fld d a b px) (semFld d a b px) s)

/-- FST fs, rs1: pairs to two arrays (R265, R266). d names fs. -/
def semFst (d : BitVec 7) (a : BitVec 7) (_px : Option Pfx) : VSem :=
  { w := 32, d := d.toNat, a := a.toNat, c := a.toNat + 1, misaligned := badArrays,
    total := fun s h _ => ((s.ctx h).fibre d.toNat).pairs.length,
    ranges := fun s h e =>
      let n := ((s.ctx h).fibre d.toNat).pairs.length
      ([], blockRange h e.opA.toNat (4 * n) ++ (if e.opC = 0 then [] else blockRange h e.opC.toNat (4 * n))),
    elem := fun h e q => do
      let p := (((← get).ctx h).fibre d.toNat).pairs.getD q (0, 0)
      let va := if e.opC = 0 then none else some (arr4 e.opC q)
      testPair h (arr4 e.opA q) va .write
      vwrite h e.id (coreOf h) (arr4 e.opA q) 4 p.1 .vector
      (match va with
      | some b => vwrite h e.id (coreOf h) b 4 p.2 .vector
      | none => pure ())
      pure 0 }
/-- Meaning of FST: it issues to the vector queue. -/
def execFst (d : BitVec 7) (a : BitVec 7) (px : Option Pfx) (s : State) : Host.Outcome State Fault Refusal :=
  .next (issue (.fst d a px) (semFst d a px) s)

/-- What a read of n bytes by the vector agent of hart h would return now; 0 where it would stop. -/
def State.peek (s : State) (h a n : Nat) : Nat :=
  match (vread h (coreOf h) (a % 2 ^ 64) n .vector).run s with
  | .ok v _ => v
  | .error _ _ => 0

/-- What FWALK reads, as memory stands: its descriptor, two row pointers, and the coordinates and values between them (R267). -/
def fwalkTouches (s : State) (h : Nat) (e : Entry) : Ranges :=
  let d (k : Nat) : Nat := s.peek h (e.opA.toNat + 8 * k) 8
  let n : Nat := if d 3 = 1 then 8 else 4
  let row := (d 0 + n * e.opB.toNat) % 2 ^ 64
  let lo := s.peek h row n
  let m := s.peek h (row + n) n - lo
  let arr (k : Nat) : Ranges := blockRange h ((d k + 4 * lo) % 2 ^ 64) (4 * m)
  blockRange h e.opA.toNat 32 ++ blockRange h row (2 * n) ++ arr 1 ++ (if d 2 = 0 then [] else arr 2)

/-- FWALK fd, rs1, rs2: one compressed level (R266, R267). It records a read range that covers all memory. -/
def semFwalk (d : BitVec 7) (a : BitVec 7) (b : BitVec 7) (_px : Option Pfx) : VSem :=
  { w := 32, d := d.toNat, a := a.toNat, b := b.toNat, kind := .progress,
    misaligned := fun e => if e.opA.toNat % 8 ≠ 0 then some e.opA else none,
    ranges := fun _ _ _ => ([(0, 2 ^ 60)], []), touches := some fwalkTouches,
    start := fun h e => do
      let d3 ← vread h (coreOf h) (e.opA + 24).toNat 8 .vector
      if 1 < d3 then throw (.freeze 0x25 e.opA.toNat 1)
      beginFibre (some d.toNat) (fun c => (w64 (c.fprogA.toNat % 2 ^ 32), 0)) h e,
    prog := fwalkStep d.toNat }
/-- Meaning of FWALK: it issues to the vector queue. -/
def execFwalk (d : BitVec 7) (a : BitVec 7) (b : BitVec 7) (px : Option Pfx) (s : State) : Host.Outcome State Fault Refusal :=
  .next (issue (.fwalk d a b px) (semFwalk d a b px) s)

/-- Can an instruction that combines values raise a flag with a type: by its description with F32, whichever op the word holds (R67, R263
Table 7; DEDUCED, log entry 18). -/
def combineFlags (t : Ty) : Bool := t == .f32

/-- FSORT fd, fs, op (R268). -/
def semFsort (d : BitVec 7) (a : BitVec 7) (o : BitVec 4) (px : Option Pfx) : VSem :=
  let p := pfxOf px
  { w := 32, d := d.toNat, a := a.toNat, kind := .progress, flags := combineFlags (elTy 10 px),
    start := beginFibre (some d.toNat) (fun c => (w64 (c.fprogA.toNat % 2 ^ 33), 0)),
    prog := fsortStep (elTy 10 px) (p.sat == 1) o.toNat d.toNat a.toNat }
/-- Meaning of FSORT: it issues to the vector queue. -/
def execFsort (d : BitVec 7) (a : BitVec 7) (o : BitVec 4) (px : Option Pfx) (s : State) : Host.Outcome State Fault Refusal :=
  .next (issue (.fsort d a o px) (semFsort d a o px) s)

/-- FISECT fd, fa, fb, op (R269). -/
def semFisect (d : BitVec 7) (a : BitVec 7) (b : BitVec 7) (o : BitVec 3) (px : Option Pfx) : VSem :=
  let p := pfxOf px
  { w := 32, d := d.toNat, a := a.toNat, b := b.toNat, kind := .progress, flags := combineFlags (elTy 10 px),
    queues := queueSrcs [a.toNat, b.toNat],
    start := beginFibre (some d.toNat) (binaryPos a.toNat b.toNat),
    prog := binaryStep .isect (elTy 10 px) (p.sat == 1) o.toNat d.toNat a.toNat b.toNat }
/-- Meaning of FISECT: it issues to the vector queue. -/
def execFisect (d : BitVec 7) (a : BitVec 7) (b : BitVec 7) (o : BitVec 3) (px : Option Pfx) (s : State) : Host.Outcome State Fault Refusal :=
  .next (issue (.fisect d a b o px) (semFisect d a b o px) s)

/-- FISECTC rd, fa, fb: adds the number of common coordinates to rd (R269). -/
def semFisectc (d : BitVec 7) (a : BitVec 7) (b : BitVec 7) (_px : Option Pfx) : VSem :=
  { w := 32, d := d.toNat, a := a.toNat, b := b.toNat, sdst := true, kind := .progress,
    queues := queueSrcs [a.toNat, b.toNat], start := beginFibre none (binaryPos a.toNat b.toNat),
    prog := binaryStep .count .n32 false 0 0 a.toNat b.toNat }
/-- Meaning of FISECTC: it issues to the vector queue. -/
def execFisectc (d : BitVec 7) (a : BitVec 7) (b : BitVec 7) (px : Option Pfx) (s : State) : Host.Outcome State Fault Refusal :=
  .next (issue (.fisectc d a b px) (semFisectc d a b px) s)

/-- FUNION fd, fa, fb, op (R269). -/
def semFunion (d : BitVec 7) (a : BitVec 7) (b : BitVec 7) (o : BitVec 3) (px : Option Pfx) : VSem :=
  let p := pfxOf px
  { w := 32, d := d.toNat, a := a.toNat, b := b.toNat, kind := .progress, flags := combineFlags (elTy 10 px),
    queues := queueSrcs [a.toNat, b.toNat],
    start := beginFibre (some d.toNat) (binaryPos a.toNat b.toNat),
    prog := binaryStep .union (elTy 10 px) (p.sat == 1) o.toNat d.toNat a.toNat b.toNat }
/-- Meaning of FUNION: it issues to the vector queue. -/
def execFunion (d : BitVec 7) (a : BitVec 7) (b : BitVec 7) (o : BitVec 3) (px : Option Pfx) (s : State) : Host.Outcome State Fault Refusal :=
  .next (issue (.funion d a b o px) (semFunion d a b o px) s)

/-- FMERGE fd, fs, k, op: the field k holds the count less one (R261, R270). -/
def semFmerge (d : BitVec 7) (a : BitVec 7) (k : BitVec 3) (o : BitVec 4) (px : Option Pfx) : VSem :=
  let p := pfxOf px
  { w := 32, d := d.toNat, a := a.toNat, kind := .progress, flags := combineFlags (elTy 10 px),
    start := beginFibre (some d.toNat) (mergeStart a.toNat (k.toNat + 1)),
    prog := fmergeStep (elTy 10 px) (p.sat == 1) o.toNat d.toNat a.toNat (k.toNat + 1) }
/-- Meaning of FMERGE: it issues to the vector queue. -/
def execFmerge (d : BitVec 7) (a : BitVec 7) (k : BitVec 3) (o : BitVec 4) (px : Option Pfx) (s : State) : Host.Outcome State Fault Refusal :=
  .next (issue (.fmerge d a k o px) (semFmerge d a k o px) s)

/-- FCOMPACT fd, fs: pairs whose value is not zero (R271). -/
def semFcompact (d : BitVec 7) (a : BitVec 7) (px : Option Pfx) : VSem :=
  { w := 32, d := d.toNat, a := a.toNat, kind := .progress,
    start := beginFibre (some d.toNat) (filterPos a.toNat),
    prog := filterStep false d.toNat a.toNat (fun _ p => if zeroVal (elTy 10 px) p.2 then none else some (p.2, 0)) }
/-- Meaning of FCOMPACT: it issues to the vector queue. -/
def execFcompact (d : BitVec 7) (a : BitVec 7) (px : Option Pfx) (s : State) : Host.Outcome State Fault Refusal :=
  .next (issue (.fcompact d a px) (semFcompact d a px) s)

/-- FEXPAND vd, fs, rs2: scatter a fibre into a sweep (R272). -/
def semFexpand (d : BitVec 7) (a : BitVec 7) (b : BitVec 7) (px : Option Pfx) : VSem :=
  { w := 32, d := d.toNat, a := a.toNat, b := b.toNat, swept := [d.toNat], kind := .whole,
    whole := fexpandAll (pfxOf px).pol a.toNat }
/-- Meaning of FEXPAND: it issues to the vector queue. -/
def execFexpand (d : BitVec 7) (a : BitVec 7) (b : BitVec 7) (px : Option Pfx) (s : State) : Host.Outcome State Fault Refusal :=
  .next (issue (.fexpand d a b px) (semFexpand d a b px) s)

/-- FGATHER fd, vs, rs2: fill the values of a fibre from a sweep (R272). -/
def semFgather (d : BitVec 7) (a : BitVec 7) (b : BitVec 7) (_px : Option Pfx) : VSem :=
  { w := 32, d := d.toNat, a := a.toNat, b := b.toNat, swept := [a.toNat],
    total := fun s h _ => ((s.ctx h).fibre d.toNat).pairs.length, elem := fgatherEl d.toNat }
/-- Meaning of FGATHER: it issues to the vector queue. -/
def execFgather (d : BitVec 7) (a : BitVec 7) (b : BitVec 7) (px : Option Pfx) (s : State) : Host.Outcome State Fault Refusal :=
  .next (issue (.fgather d a b px) (semFgather d a b px) s)

/-- FSLICE fd, fs, rs2: pairs with coordinate in bounds (R271). -/
def semFslice (d : BitVec 7) (a : BitVec 7) (b : BitVec 7) (_px : Option Pfx) : VSem :=
  { w := 32, d := d.toNat, a := a.toNat, b := b.toNat, kind := .progress, queues := queueSrcs [a.toNat],
    start := beginFibre (some d.toNat) (filterPos a.toNat),
    prog := filterStep true d.toNat a.toNat (fun e p =>
      if bits e.opB.toNat 31 0 ≤ p.1 && p.1 ≤ bits e.opB.toNat 63 32 then some (p.2, 0) else none) }
/-- Meaning of FSLICE: it issues to the vector queue. -/
def execFslice (d : BitVec 7) (a : BitVec 7) (b : BitVec 7) (px : Option Pfx) (s : State) : Host.Outcome State Fault Refusal :=
  .next (issue (.fslice d a b px) (semFslice d a b px) s)

/-- FMAP fd, fs, rs2, op (R271): arithmetic of F32 can raise a flag (Table 10; DEDUCED, log entry 18). -/
def semFmap (d : BitVec 7) (a : BitVec 7) (b : BitVec 7) (o : BitVec 3) (px : Option Pfx) : VSem :=
  let p := pfxOf px
  { w := 32, d := d.toNat, a := a.toNat, b := b.toNat, kind := .progress,
    flags := elTy 10 px == .f32 && (o.toNat < 4 || o.toNat = 5),
    start := beginFibre (some d.toNat) (filterPos a.toNat),
    prog := filterStep false d.toNat a.toNat (fun e q =>
      some (fmapVal (elTy 10 px) e.rm (p.sat == 1) o.toNat q.2 (e.opB.toNat % 2 ^ 32))) }
/-- Meaning of FMAP: it issues to the vector queue. -/
def execFmap (d : BitVec 7) (a : BitVec 7) (b : BitVec 7) (o : BitVec 3) (px : Option Pfx) (s : State) : Host.Outcome State Fault Refusal :=
  .next (issue (.fmap d a b o px) (semFmap d a b o px) s)

/-- FCFG f, rs1: capacity; a bad one is a violation with nothing changed (R273). -/
def semFcfg (f : BitVec 7) (a : BitVec 7) (_px : Option Pfx) : VSem :=
  { w := 32, d := f.toNat, a := a.toNat, kind := .whole,
    whole := fun h e => do
      let c := (← get).ctx h
      let n := e.opA.toNat
      if n % 4 ≠ 0 || 16384 < n + otherCaps c f.toNat then throw (.freeze 0x25 0 0)
      modify (fun s => s.modCtx h (fun c => c.setFibre f.toNat { cap := n, pairs := [] }))
      pure ([], []) }
/-- Meaning of FCFG: it issues to the vector queue. -/
def execFcfg (f : BitVec 7) (a : BitVec 7) (px : Option Pfx) (s : State) : Host.Outcome State Fault Refusal :=
  .next (issue (.fcfg f a px) (semFcfg f a px) s)

/-- FCLR f (R273). -/
def semFclr (f : BitVec 7) (_px : Option Pfx) : VSem :=
  { w := 32, d := f.toNat, kind := .whole,
    whole := fun h _ => do
      modify (fun s => s.modCtx h (fun c => c.setFibre f.toNat { c.fibre f.toNat with pairs := [] }))
      pure ([], []) }
/-- Meaning of FCLR: it issues to the vector queue. -/
def execFclr (f : BitVec 7) (px : Option Pfx) (s : State) : Host.Outcome State Fault Refusal :=
  .next (issue (.fclr f px) (semFclr f px) s)

/-- FLENR rd, f: capacity and length (R273). -/
def semFlenr (d : BitVec 7) (f : BitVec 7) (_px : Option Pfx) : VSem :=
  { w := 32, d := d.toNat, sdst := true, kind := .whole,
    whole := fun h e => do
      modify (fun s => s.modCtx h (fun c =>
        c.setP e.physD (w64 ((c.fibre f.toNat).cap * 2 ^ 32 + (c.fibre f.toNat).pairs.length))))
      pure ([], []) }
/-- Meaning of FLENR: it issues to the vector queue. -/
def execFlenr (d : BitVec 7) (f : BitVec 7) (px : Option Pfx) (s : State) : Host.Outcome State Fault Refusal :=
  .next (issue (.flenr d f px) (semFlenr d f px) s)

end Sys2Proof.Machine
end

