-- ==== Sys2Proof/Machine/VectorMem.lean ====
section
/-! DEFINITION. Vector memory instructions: majors 0x60 to 0x67 (R194 to R199). -/

namespace Sys2Proof.Machine

/-- Element at a byte address that is EA(p) of a type of whole bytes. -/
def eltAt (w a : Nat) : Elt := { addr := a % 2 ^ 64, shift := 0, n := w / 8 }

/-- Element p of a unit-stride access from A: whole bytes, or the packed bits of R195. -/
def eltUnit (w a p : Nat) : Elt :=
  let b := p * w
  { addr := (a + b / 8) % 2 ^ 64, shift := b % 8, n := (b % 8 + w + 7) / 8 }

/-- A of VLD and VST: S(rs1) + SExt(imm11, 11). -/
def baseImm (e : Entry) (i : BitVec 11) : Nat := (e.opA + i.signExtend 64).toNat

/-- Element p of a strided access. -/
def eltStride (w : Nat) (e : Entry) (p : Nat) : Elt :=
  eltAt w ((e.opA + w64 p * e.opB).toNat)

/-- Width of the index elements of an index mode (R194 Table 2). -/
def idxW (m : BitVec 2) : Nat := if m = 0 || m = 2 then 32 else 64

/-- Element p of an indexed access; c is the context, whose register rs2 holds the indices. -/
def eltIndex (w : Nat) (m : BitVec 2) (c : Ctx) (e : Entry) (p : Nat) : Elt :=
  let x := c.vel (e.physB + e.row p) (idxW m) (e.pos p)
  eltAt w (e.opA.toNat + (if m.toNat < 2 then x else x * (w / 8)))

/-- Element p of VAMO. -/
def eltAmo (w : Nat) (c : Ctx) (e : Entry) (p : Nat) : Elt :=
  eltAt w (e.opA.toNat + c.vel (e.physB + e.row p) w (e.pos p))

/-- Block ranges of the active elements, as one span from lowest to highest byte, or as a set (R174 Table 2). -/
def eltRanges (span : Bool) (at_ : Ctx → Entry → Nat → Elt) (m : Nat) (s : State) (h : Nat) (e : Entry) : Ranges :=
  let c := s.ctx h
  let els := (activeEls c m e (e.rows * e.vle)).map (at_ c e)
  if span then
    match els with
    | [] => []
    | x :: t =>
      let lo := t.foldl (fun b y => min b y.addr) x.addr
      let hi := t.foldl (fun b y => max b (y.addr + y.n)) (x.addr + x.n)
      blockRange h lo (hi - lo)
  else els.flatMap (fun x => blockRange h x.addr x.n)

/-- Read the w bits of an element (R195, R196). -/
def readElt (h w : Nat) (x : Elt) : M Nat := do
  let v ← vread h (coreOf h) x.addr x.n .vector
  pure (v / 2 ^ x.shift % 2 ^ w)

/-- Write the w bits of an element by entry id; only those bits change (R195). -/
def writeElt (h id w v : Nat) (x : Elt) : M Unit := do
  let ps ← resolve h (coreOf h) x.addr x.n .write .vector
  if 8 * x.n = w then writePieces h id v ps
  else do
    let s ← get
    let old := ofLe (ps.flatMap (fun p => rdBytes s.mem p.loc p.n))
    writePieces h id (old + v % 2 ^ w * 2 ^ x.shift - old / 2 ^ x.shift % 2 ^ w * 2 ^ x.shift) ps

/-- A load: VMem of R195. wait is the watermark wait of VLDW. -/
def semLoad (d a b : BitVec 7) (px : Option Pfx) (idx : Nat) (span : Bool) (at_ : Ctx → Entry → Nat → Elt)
    (wait : Nat → Entry → Elt → M Unit) : VSem :=
  let p := pfxOf px
  let w := tyW (elTy 10 px)
  { w := max w idx, sw := idx, dw := w, d := d.toNat, a := a.toNat, b := b.toNat,
    swept := if idx = 0 then [d.toNat] else [d.toNat, b.toNat],
    ranges := fun s h e => (eltRanges span at_ p.m.toNat s h e, []),
    place := some (fun c e k => (c.mbit p.m.toNat k, at_ c e k)),
    ahead := fun h e k => do
      let c := (← get).ctx h
      if c.mbit p.m.toNat k then some <$> readElt h w (at_ c e k) else pure none,
    elem := fun h e k => do
      let c := (← get).ctx h
      if c.mbit p.m.toNat k then
        let x := at_ c e k
        wait h e x
        let v ← (match sfind e.held k with
          | some v => pure v
          | none => readElt h w x)
        modify (fun s => s.modCtx h (fun c => c.setVel (e.physD + e.row k) w (e.pos k) v))
        pure 0
      else
        if p.pol = 1 then modify (fun s => s.modCtx h (fun c => c.setVel (e.physD + e.row k) w (e.pos k) 0))
        pure 0 }

/-- No wait before an element. -/
def noWait (_ : Nat) (_ : Entry) (_ : Elt) : M Unit := pure ()

/-- A store: VMem of R195. -/
def semStore (s a b : BitVec 7) (px : Option Pfx) (idx : Nat) (span : Bool) (at_ : Ctx → Entry → Nat → Elt) : VSem :=
  let p := pfxOf px
  let w := tyW (elTy 10 px)
  { w := max w idx, sw := idx, dw := w, d := s.toNat, a := a.toNat, b := b.toNat,
    swept := if idx = 0 then [s.toNat] else [s.toNat, b.toNat],
    ranges := fun st h e => ([], eltRanges span at_ p.m.toNat st h e),
    place := some (fun c e k => (c.mbit p.m.toNat k, at_ c e k)),
    elem := fun h e k => do
      let c := (← get).ctx h
      if c.mbit p.m.toNat k then
        writeElt h e.id w (c.vel (e.physD + e.row k) w (e.pos k)) (at_ c e k)
        pure 0
      else pure 0 }

/-- The wait of VLDW before an element (R198, R188), after the element's own tests (R197): the bound word must exceed the element's last byte, counted from the base.
(DEDUCED, log entry 19) -/
def watermark (w h : Nat) (e : Entry) (x : Elt) : M Unit := do
  let _ ← resolve h (coreOf h) x.addr x.n .read .vector
  match e.wm with
  | none => throw (.freeze 0x26 0 0)
  | some b =>
    let k : Int := (x.addr : Int) + cdiv w 8 - 1 - b.base
    if 0 ≤ k then
      let ps ← resolve h (coreOf h) b.addr 8 .read .vector
      let v ← readPieces h b.addr ps
      if (v : Int) ≤ k then throw .block
      modify (·.tagRead h b.scope 1 0 e.addr ps b.addr)

/-- VLD vd, imm(rs1): unit-stride load (R194, R195). -/
def semVld (d : BitVec 7) (a : BitVec 7) (i : BitVec 11) (px : Option Pfx) : VSem :=
  semLoad d a 0 px 0 true (fun _ e p => eltUnit (tyW (elTy 10 px)) (baseImm e i) p) noWait
/-- Meaning of VLD: it issues to the vector queue. -/
def execVld (d : BitVec 7) (a : BitVec 7) (i : BitVec 11) (px : Option Pfx) (s : State) : Host.Outcome State Fault Refusal :=
  .next (issue (.vld d a i px) (semVld d a i px) s)

/-- VLDS vd, rs1, rs2: strided load (R194, R195). -/
def semVlds (d : BitVec 7) (a : BitVec 7) (b : BitVec 7) (px : Option Pfx) : VSem :=
  semLoad d a b px 0 true (fun _ e p => eltStride (tyW (elTy 10 px)) e p) noWait
/-- Meaning of VLDS: it issues to the vector queue. -/
def execVlds (d : BitVec 7) (a : BitVec 7) (b : BitVec 7) (px : Option Pfx) (s : State) : Host.Outcome State Fault Refusal :=
  .next (issue (.vlds d a b px) (semVlds d a b px) s)

/-- VLDX vd, rs1, vs2: indexed load (R194, R195). -/
def semVldx (d : BitVec 7) (a : BitVec 7) (b : BitVec 7) (m : BitVec 2) (px : Option Pfx) : VSem :=
  semLoad d a b px (idxW m) false (eltIndex (tyW (elTy 10 px)) m) noWait
/-- Meaning of VLDX: it issues to the vector queue. -/
def execVldx (d : BitVec 7) (a : BitVec 7) (b : BitVec 7) (m : BitVec 2) (px : Option Pfx) (s : State) : Host.Outcome State Fault Refusal :=
  .next (issue (.vldx d a b m px) (semVldx d a b m px) s)

/-- VST vs, imm(rs1): unit-stride store (R194, R195). -/
def semVst (s : BitVec 7) (a : BitVec 7) (i : BitVec 11) (px : Option Pfx) : VSem :=
  semStore s a 0 px 0 true (fun _ e p => eltUnit (tyW (elTy 10 px)) (baseImm e i) p)
/-- Meaning of VST: it issues to the vector queue. -/
def execVst (s : BitVec 7) (a : BitVec 7) (i : BitVec 11) (px : Option Pfx) (st : State) : Host.Outcome State Fault Refusal :=
  .next (issue (.vst s a i px) (semVst s a i px) st)

/-- VSTS vs, rs1, rs2: strided store (R194, R195). -/
def semVsts (s : BitVec 7) (a : BitVec 7) (b : BitVec 7) (px : Option Pfx) : VSem :=
  semStore s a b px 0 true (fun _ e p => eltStride (tyW (elTy 10 px)) e p)
/-- Meaning of VSTS: it issues to the vector queue. -/
def execVsts (s : BitVec 7) (a : BitVec 7) (b : BitVec 7) (px : Option Pfx) (st : State) : Host.Outcome State Fault Refusal :=
  .next (issue (.vsts s a b px) (semVsts s a b px) st)

/-- VSTX vs, rs1, vs2: indexed store (R194, R195). -/
def semVstx (s : BitVec 7) (a : BitVec 7) (b : BitVec 7) (m : BitVec 2) (px : Option Pfx) : VSem :=
  semStore s a b px (idxW m) false (eltIndex (tyW (elTy 10 px)) m)
/-- Meaning of VSTX: it issues to the vector queue. -/
def execVstx (s : BitVec 7) (a : BitVec 7) (b : BitVec 7) (m : BitVec 2) (px : Option Pfx) (st : State) : Host.Outcome State Fault Refusal :=
  .next (issue (.vstx s a b m px) (semVstx s a b m px) st)

/-- VLDW vd, rs1, k: unit-stride load guarded by a watermark (R198). A slot bound to nothing is a violation before any element. -/
def semVldw (d : BitVec 7) (a : BitVec 7) (_k : BitVec 2) (px : Option Pfx) : VSem :=
  { semLoad d a 0 px 0 true (fun _ e p => eltUnit (tyW (elTy 10 px)) e.opA.toNat p) (watermark (tyW (elTy 10 px))) with
    touches := some (fun s h e =>
      eltRanges true (fun _ e p => eltUnit (tyW (elTy 10 px)) e.opA.toNat p) (pfxOf px).m.toNat s h e ++
      (match e.wm with
       | some b => blockRange h b.addr 8
       | none => [])),
    start := fun _ e => if e.wm.isNone then throw (.freeze 0x26 0 0) else pure e }
/-- Meaning of VLDW: it issues to the vector queue. -/
def execVldw (d : BitVec 7) (a : BitVec 7) (k : BitVec 2) (px : Option Pfx) (s : State) : Host.Outcome State Fault Refusal :=
  .next (issue (.vldw d a k px) (semVldw d a k px) s)

/-- VAMO vd, rs1, vs2, op: one slice atomic for each active element (R199). -/
def semVamo (d : BitVec 7) (a : BitVec 7) (b : BitVec 7) (o : BitVec 4) (px : Option Pfx) : VSem :=
  let p := pfxOf px
  let w := tyW (elTy 10 px)
  let rg := fun s h e => eltRanges false (eltAmo w) p.m.toNat s h e
  { w := w, d := d.toNat, a := a.toNat, b := b.toNat, swept := [d.toNat, b.toNat],
    bad := fun e => regOverlap e.physD e.rows e.physB e.rows,
    ranges := fun s h e => (rg s h e, rg s h e),
    place := some (fun c e k => (c.mbit p.m.toNat k, eltAmo w c e k)),
    elem := fun h e k => do
      let c := (← get).ctx h
      if c.mbit p.m.toNat k then
        let x := eltAmo w c e k
        let v := c.vel (e.physD + e.row k) w (e.pos k)
        let old ← vatomic h e.id (coreOf h) x.addr x.n .vector (fun old => some (atomicOp o.toNat x.n old v))
        modify (fun s => s.modCtx h (fun c => c.setVel (e.physD + e.row k) w (e.pos k) old))
        pure 0
      else
        if p.pol = 1 then modify (fun s => s.modCtx h (fun c => c.setVel (e.physD + e.row k) w (e.pos k) 0))
        pure 0 }
/-- Meaning of VAMO: it issues to the vector queue. -/
def execVamo (d : BitVec 7) (a : BitVec 7) (b : BitVec 7) (o : BitVec 4) (px : Option Pfx) (s : State) : Host.Outcome State Fault Refusal :=
  .next (issue (.vamo d a b o px) (semVamo d a b o px) s)

end Sys2Proof.Machine
end

