-- ==== Sys2Proof/Machine/Matrix.lean ====
section
/-! DEFINITION. The matrix unit, the accumulators and Billon: majors 0x78 to 0x7B and their steps (R232 to R252, R336). -/

namespace Sys2Proof.Machine

/-! ### Slots and rows -/

/-- Is tile slot t allocated to the launch of hart h (R233). -/
def State.hasSlot (s : State) (h t : Nat) : Bool := (s.launchOf h).any (fun l => l.par.tslot.testBit t)
/-- ACNT of the launch of hart h (R236). -/
def State.acnt (s : State) (h : Nat) : Nat := ((s.launchOf h).map (·.par.acnt)).getD 0
/-- First accumulator row of the launch on the core of hart h (R236). -/
def State.rowBase (s : State) (h : Nat) : Nat :=
  ((s.launchOf h).bind (fun l => sfind l.rows (coreOf h))).getD 0
/-- QUOTA of the launch of hart h (R237). -/
def State.quota (s : State) (h : Nat) : Nat := ((s.launchOf h).map (·.par.quota)).getD 0
/-- USED: Billon entries keyed to the rows of the launch on the core of hart h (R237). -/
def State.used (s : State) (h : Nat) : Nat :=
  let lo := s.rowBase h * 256
  let hi := lo + s.acnt h * 256
  (s.core (coreOf h)).billon.countP (fun e => lo ≤ e.1 && e.1 < hi)

/-- A tile slot of a core. -/
def Core.tile (k : Core) (t : Nat) : Tile := sget k.tiles Tile.init t
/-- Replace a tile slot of a core. -/
def Core.setTile (k : Core) (t : Nat) (x : Tile) : Core := { k with tiles := sset k.tiles Tile.init t x }
/-- Change the state of a tile slot. -/
def State.tileState (s : State) (c t st : Nat) : State :=
  s.modCore c (fun k => k.setTile t { k.tile t with state := st })

/-- Is a format code one of 4-bit mode (R232). -/
def fourBit (code : Nat) : Bool := code == 14 || code == 15

/-- A check that fails is a violation (R243). -/
def need (ok : Bool) (code : Nat) : M Unit := if ok then pure () else throw (.freeze code 0 0)

/-! ### Commit (R238) -/

/-- The new cell and count of one column. -/
def commitCol (init : Bool) (cell n p : Int) : Int × Int :=
  let v := if init then 0 else cell + 2 ^ 24 * n
  let v2 := v + p
  let c2 := (v2 + 2 ^ 23) % 2 ^ 24 - 2 ^ 23
  (c2, (v2 - c2) / 2 ^ 24)

/-- The launch of the task on hart h, when USED of its rows has fallen since an earlier state: its operations that wait on the core
try their commits again (R240). -/
def State.noteFall (s s0 : State) (h : Nat) : State :=
  match s.taskOf h with
  | some t =>
    if s.used h < s0.used h && !(s.core (coreOf h)).failed.isEmpty then
      s.modCore (coreOf h) (fun k => if k.fell.contains t.launch then k else { k with fell := k.fell ++ [t.launch] })
    else s
  | none => s

/-- A row operation of hart h has failed to commit: it joins the order of those that wait (R240), behind any that a fall of USED is
still to let try again. -/
def State.joinFailed (s : State) (h : Nat) : State :=
  let k := s.core (coreOf h)
  if k.failed.contains h then s
  else
    let l := (s.taskOf h).map (·.launch)
    let alone := k.failed.all (fun x => (s.taskOf x).map (·.launch) != l)
    s.setCore (coreOf h) { k with failed := k.failed ++ [h], fell := if alone then k.fell.filter (fun x => some x != l) else k.fell }

/-- Outcomes of a commit attempt. -/
inductive CommitRes where
  | done (s : State)
  | range
  | noRoom

/-- Commit(row, P, init) of R238 for hart h; row is an absolute row of the core. -/
def State.commit (s : State) (h row : Nat) (p : List Int) (init : Bool) : CommitRes :=
  let k := s.core (coreOf h)
  let cols := (List.range 256).map (fun j =>
    let key := row * 256 + j
    let n := sget k.billon 0 key
    (n, commitCol init (sget k.cells 0 key) n (p.getD j 0)))
  if cols.any (fun x => x.2.2 < -32768 || 32767 < x.2.2) then .range
  else
    let add := cols.countP (fun x => x.2.2 != 0 && x.1 == 0)
    let freed := cols.countP (fun x => x.2.2 == 0 && x.1 != 0)
    if s.quota h < s.used h - freed + add then .noRoom
    else .done (s.modCore (coreOf h) (fun k =>
      (List.range 256).foldl (fun (k : Core) j =>
        let x := (cols.getD j (0, 0, 0)).2
        { k with cells := sset k.cells 0 (row * 256 + j) x.1, billon := sset k.billon 0 (row * 256 + j) x.2 }) k))

/-- A Billon freeze: BSTAT.CAUSE and BSTAT.AROW, then the freeze (R240, R242). (DEDUCED, log entry 27) -/
def billonFreeze {α : Type} (h cause arow : Nat) : M α := do
  modify (fun s => s.modHart h (fun x => { x with bcause := cause, barow := arow }))
  throw (.freeze 0x27 0 0)

/-- The commit of a row operation whose tile has been read: commit, wait, or freeze by MCTL.MODE (R238, R240). -/
def tryCommit (h : Nat) (e : Entry) (x : RowSum) : M (List (Nat × Nat) × List Nat) := do
  let s ← get
  let arow := e.opA.toNat % 2 ^ 14
  match s.commit h (s.rowBase h + arow) x.sums (e.opA.toNat.testBit 27) with
  | .done s' =>
    set ((s'.unwait h).noteFall s h)
    pure (x.flags, x.recs)
  | .range => billonFreeze h 3 arow
  | .noRoom =>
    let c := s.ctx h
    if c.mode = 1 then billonFreeze h 2 arow
    else if c.tmo = 0 then billonFreeze h 1 arow
    else do
      let since := e.stallSince.getD s.time
      let s := s.putEntry h { e with part := some x, stallSince := some since }
      set (s.joinFailed h)
      throw .block

/-! ### Row operations -/

/-- Row k of a tile: its nc cells (R232; cells outside the loaded rows are zero). -/
def Tile.row (x : Tile) (k : Nat) : List Int := if k < x.nr then (x.cells.drop (k * x.nc)).take x.nc else []

/-- Add a multiple of a tile row to partial sums. -/
def addRow (a : Int) (row : List Int) (p : List Int) : List Int :=
  (List.range 256).map (fun j => p.getD j 0 + a * row.getD j 0)

/-- 256 zero sums. -/
def zeroSums : List Int := List.replicate 256 0

/-- A prepared A element: its value, flags, and its index. -/
def rowSum (x : Tile) (as : List (Nat × Nat × Int × Nat)) : RowSum :=
  { sums := as.foldl (fun p a => if a.2.2.1 = 0 then p else addRow a.2.2.1 (x.row a.2.1) p) zeroSums,
    flags := as.filterMap (fun a => if a.2.2.2 = 0 then none else some (a.2.2.2, a.1)),
    recs := as.filterMap (fun a => if a.2.2.2.testBit 5 then some a.1 else none) }

/-- K of R235 Table 2. -/
def rowK (t : Ty) : Nat :=
  match t with
  | .t6 => 512
  | .f16 | .b16 => 192
  | .s4 | .n4 => 768
  | _ => 384

/-- An element as it enters the arrays (R38, R39): value and flags. -/
def arrayCell (t : Ty) (p : Nat) (e : Int) : Int × Nat := if tyInt t then (intOf t p, 0) else align9 (valOf t p) e

/-- The A elements of MROW: index, tile row, value, flags (R247). -/
def mrowEls (t : Ty) (cr : Nat) (c : Ctx) (e : Entry) : List (Nat × Nat × Int × Nat) :=
  let ex := c.scale cr (bits e.opA.toNat 26 16)
  (List.range (min e.vle (rowK t))).map (fun k =>
    let (v, fl) := arrayCell t (c.vel e.physD (tyW t) k) ex
    (k, k, v, fl))

/-- The pairs of MROWG that select a tile row: pair position, tile row, value, flags (R248). -/
def mrowgEls (t : Ty) (f cr : Nat) (c : Ctx) (e : Entry) : List (Nat × Nat × Int × Nat) :=
  let ps := (c.fibre f).pairs
  let kb := bits e.opA.toNat 63 32
  let ex := c.scale cr (bits e.opA.toNat 26 16)
  (List.range ps.length).filterMap (fun q =>
    let p := ps.getD q (0, 0)
    if kb ≤ p.1 && p.1 - kb < 512 then
      let (v, fl) := if t = .f32 then align9 (valOf .f32 p.2) ex
        else
          let x := intOf .s32 p.2
          let y := max (-255) (min 255 x)
          (y, if y = x then 0 else fSA)
      some (q, p.1 - kb, v, fl)
    else none)

/-- Is a tile slot LOADING or PARTIAL: a row operation waits until a load of it completes (R234). -/
def Tile.waits (x : Tile) : Bool := x.state = 2 || x.state = 3

/-- Does a tile slot match a mode: an EMPTY slot matches both, another that of its last load; while a load of it is to complete, that load
sets the mode (R232, R235). (DEDUCED, log entry 27) -/
def Tile.matches (x : Tile) (four : Bool) : Bool := x.state = 0 || x.waits || fourBit x.fmt == four

/-- The beginning of a row operation (R247, R248): its checks (R243, R244, R233, R235, R236), those of its operand word first (DESIGN
CHOICE, log entry 70), and the wait for a slot that is LOADING or PARTIAL (R234); it reads its tile whole as it begins. (DEDUCED, log
entry 27) -/
def rowStart (kbase four : Bool) (t : Nat) (h : Nat) (e : Entry) : M Entry := do
  let s ← get
  let m := e.opA.toNat
  let x := (s.core (coreOf h)).tile t
  need (bits m 31 28 == 0 && bits m 15 14 == 0 && (kbase || bits m 63 32 == 0)) 0x25
  need (s.hasSlot h t) 0x24
  need (x.matches four) 0x25
  need (m % 2 ^ 14 < s.acnt h) 0x24
  if x.waits then throw .block
  pure { e with tile := some x }

/-- A row operation that has begun forms its sums from the tile it has read and from its A operand, which earlier instructions of its hart
have written and later ones do not overwrite before it has committed (R46, R50), and commits them (R238, R240). -/
def rowOp (els : Ctx → Entry → List (Nat × Nat × Int × Nat)) (h : Nat) (e : Entry) : M (List (Nat × Nat) × List Nat) := do
  match e.tile with
  | some x => tryCommit h e (e.part.getD (rowSum x (els ((← get).ctx h) e)))
  | none => throw .block

/-! ### Loads, drains and status -/

/-- Checks of MTLOAD (R244, R245, R233); then its slot is LOADING, once no other load is (R234). (DEDUCED, log entry 27) -/
def mtloadStart (ty : Ty) (t : Nat) (h : Nat) (e : Entry) : M Entry := do
  let s ← get
  let g := e.opB.toNat
  let nr := bits g 10 0
  let nc := bits g 24 16
  need (bits g 39 37 == 0 && !g.testBit 25 && bits g 15 11 == 0) 0x25
  need (1 ≤ nc && nc ≤ 256 && 1 ≤ nr && nr ≤ (if fourBit (tyCode ty) then 1024 else 512)) 0x25
  need (tyInt ty || bits g 36 26 + nc - 1 ≤ 2047) 0x25
  need (s.hasSlot h t) 0x24
  if ((s.core (coreOf h)).tile t).state = 2 then throw .block
  set (s.tileState (coreOf h) t 2)
  pure e

/-- B element (k, j) of a tile load (R245). -/
def tileElt (w pitch : Nat) (a : Word) (k j : Nat) : Elt :=
  let b := k * pitch * 8 + j * w
  { addr := (a + w64 (b / 8)).toNat, shift := b % 8, n := (b % 8 + w + 7) / 8 }

/-- Mtload of R245. -/
def mtloadAll (ty : Ty) (cr t : Nat) (h : Nat) (e : Entry) : M (List (Nat × Nat) × List Nat) := do
  let g := e.opB.toNat
  let nr := bits g 10 0
  let nc := bits g 24 16
  let rows ← (List.range nr).mapM (fun k => (List.range nc).mapM (fun j => do
    let p ← readElt h (tyW ty) (tileElt (tyW ty) (bits g 63 40) e.opA k j)
    let c := (← get).ctx h
    pure (arrayCell ty p (c.scale cr (bits g 36 26 + j)))))
  let k := List.range nr
  modify (fun s => s.modCore (coreOf h) (fun x => x.setTile t
    { state := 1, fmt := tyCode ty, nr := nr, nc := nc, cells := rows.flatMap (fun r => r.map (·.1)) }))
  pure ((k.zip rows).filterMap (fun x =>
      let fl := x.2.foldl (fun a y => a ||| y.2) 0
      if fl = 0 then none else some (fl, x.1)),
    (k.zip rows).flatMap (fun x => x.2.filterMap (fun y => if y.2.testBit 5 then some x.1 else none)))

/-- Read range of MTLOAD: from A to the last byte it can read (R245). -/
def mtloadRange (w : Nat) (h : Nat) (e : Entry) : Ranges :=
  let g := e.opB.toNat
  let lastBit := (bits g 10 0 - 1) * bits g 63 40 * 8 + bits g 24 16 * w
  blockRange h e.opA.toNat ((lastBit + 7) / 8)

/-- Checks of MDRAIN (R244, R249). -/
def mdrainStart (h : Nat) (e : Entry) : M Entry := do
  let s ← get
  let d := e.opA.toNat
  need (bits d 63 24 == 0 && bits d 15 14 == 0) 0x25
  need (d % 2 ^ 14 < s.acnt h) 0x24
  pure e

/-- Mdrain of R249. -/
def mdrainAll (keep sat : Bool) (h : Nat) (e : Entry) : M (List (Nat × Nat) × List Nat) := do
  let s ← get
  let k := s.core (coreOf h)
  let c0 := bits e.opA.toNat 23 16
  let n := min (256 - c0) (e.maxb / 4)
  let key := (s.rowBase h + e.opA.toNat % 2 ^ 14) * 256 + c0
  let vs := (List.range n).map (fun i =>
    let v := sget k.cells 0 (key + i) + 2 ^ 24 * sget k.billon 0 (key + i)
    let y := if sat then clampTo .s32 v else v
    (patOf 32 y, if y = v then 0 else fSA))
  let s := s.modCtx h (fun c => (List.range n).foldl (fun (c : Ctx) i => c.setVel e.physD 32 i (vs.getD i (0, 0)).1) c)
  set (if keep then s
    else (s.modCore (coreOf h) (fun k => (List.range n).foldl (fun (k : Core) i =>
      { k with cells := serase k.cells (key + i), billon := serase k.billon (key + i) }) k)).noteFall s h)
  pure ((List.range n).filterMap (fun i =>
    let fl := (vs.getD i (0, 0)).2
    if fl = 0 then none else some (fl, i)), [])

/-- The drain instructions: keep and sat. Without sat they raise no flag, and replace FEXCA and FEXCB all the same (R67, R252). (DEDUCED,
log entry 18) -/
def semDrain (keep : Bool) (d a : BitVec 7) (px : Option Pfx) : VSem :=
  { w := 32, d := d.toNat, a := a.toNat, kind := .whole, flags := true, start := mdrainStart,
    whole := mdrainAll keep ((pfxOf px).sat == 1) }

/-- Mclr of R250: the checks, then every cell of the rows zero and their entries freed. An NROW of 0 does nothing, whatever AROW is.
(DESIGN CHOICE, log entry 63) -/
def semMclr (a : BitVec 7) (_px : Option Pfx) : VSem :=
  { w := 32, a := a.toNat, kind := .whole,
    start := fun h e => do
      let s ← get
      let x := e.opA.toNat
      need (bits x 63 30 == 0 && bits x 15 14 == 0) 0x25
      need (bits x 29 16 == 0 || bits x 13 0 + bits x 29 16 ≤ s.acnt h) 0x24
      pure e,
    whole := fun h e => do
      modify (fun s =>
        let lo := (s.rowBase h + bits e.opA.toNat 13 0) * 256
        let hi := lo + bits e.opA.toNat 29 16 * 256
        (s.modCore (coreOf h) (fun k =>
          { k with cells := k.cells.filter (fun x => x.1 < lo || hi ≤ x.1),
                   billon := k.billon.filter (fun x => x.1 < lo || hi ≤ x.1) })).noteFall s h)
      pure ([], []) }

/-- The row word of MSTAT (R251 Table 8). -/
def rowWord (s : State) (h arow : Nat) : Nat :=
  let lo := (s.rowBase h + arow) * 256
  let es := (s.core (coreOf h)).billon.filter (fun x => lo ≤ x.1 && x.1 < lo + 256)
  s.acnt h * 2 ^ 48 + es.foldl (fun m x => max m x.2.natAbs) 0 * 2 ^ 32 + es.length

/-- The slot word of MSTAT (R251 Table 8): type and extents are those of the last completed load, 0 while none has completed since the slot
was EMPTY (DESIGN CHOICE, log entry 73). -/
def slotWord (x : Tile) : Nat :=
  x.state * 2 ^ 60 + (if x.state = 0 then 0 else x.fmt * 2 ^ 48 + x.nc * 2 ^ 32 + x.nr)

/-- MSTAT rd, rs1, row (R251). -/
def semMstatRow (d a : BitVec 7) (_px : Option Pfx) : VSem :=
  { w := 64, d := d.toNat, a := a.toNat, sdst := true, kind := .whole,
    start := fun h e => do
      need (bits e.opA.toNat 63 14 == 0) 0x25
      need (e.opA.toNat % 2 ^ 14 < (← get).acnt h) 0x24
      pure e,
    whole := fun h e => do
      modify (fun s => s.modCtx h (fun c => c.setP e.physD (w64 (rowWord s h (e.opA.toNat % 2 ^ 14)))))
      pure ([], []) }

/-- MSTAT rd, rs1, slot (R251). -/
def semMstatSlot (d a : BitVec 7) (_px : Option Pfx) : VSem :=
  { w := 64, d := d.toNat, a := a.toNat, sdst := true, kind := .whole,
    start := fun h e => do
      need (bits e.opA.toNat 63 2 == 0) 0x25
      need ((← get).hasSlot h (e.opA.toNat % 4)) 0x24
      pure e,
    whole := fun h e => do
      modify (fun s => s.modCtx h (fun c =>
        c.setP e.physD (w64 (slotWord ((s.core (coreOf h)).tile (e.opA.toNat % 4))))))
      pure ([], []) }

/-- MTLOAD t, c, rs1, rs2: loads a tile slot (R245). With an integer type it raises no flag, and replaces FEXCA and FEXCB all the same
(R67, R252). (DEDUCED, log entry 18) -/
def semMtload (c : BitVec 7) (a : BitVec 7) (b : BitVec 7) (t : BitVec 2) (px : Option Pfx) : VSem :=
  let ty := elTy 12 px
  { w := tyW ty, a := a.toNat, b := b.toNat, kind := .whole, flags := true, pipe := 2, unit := t.toNat,
    ranges := fun _ h e => (mtloadRange (tyW ty) h e, if tyInt ty then [] else listRange h e),
    start := mtloadStart ty t.toNat, whole := mtloadAll ty c.toNat t.toNat }
/-- Meaning of MTLOAD: it issues to the vector queue. -/
def execMtload (c : BitVec 7) (a : BitVec 7) (b : BitVec 7) (t : BitVec 2) (px : Option Pfx) (s : State) : Host.Outcome State Fault Refusal :=
  .next (issue (.mtload c a b t px) (semMtload c a b t px) s)

/-- MTZERO t: the slot becomes EMPTY (R246). -/
def semMtzero (t : BitVec 2) (_px : Option Pfx) : VSem :=
  { w := 8, kind := .whole, pipe := 2, unit := t.toNat,
    start := fun h e => do
      let s ← get
      need (s.hasSlot h t.toNat) 0x24
      if ((s.core (coreOf h)).tile t.toNat).state = 2 then throw .block
      pure e,
    whole := fun h _ => do
      modify (fun s => s.modCore (coreOf h) (fun k => k.setTile t.toNat Tile.init))
      pure ([], []) }
/-- Meaning of MTZERO: it issues to the vector queue. -/
def execMtzero (t : BitVec 2) (px : Option Pfx) (s : State) : Host.Outcome State Fault Refusal :=
  .next (issue (.mtzero t px) (semMtzero t px) s)

/-- MROW vs, rs1, c, t: an A row against a tile, committed to one accumulator row (R247). With an integer type it raises no flag, and
replaces FEXCA and FEXCB all the same (R67, R252). (DEDUCED, log entry 18) -/
def semMrow (v : BitVec 7) (a : BitVec 7) (c : BitVec 7) (t : BitVec 2) (px : Option Pfx) : VSem :=
  let ty := elTy 12 px
  { w := tyW ty, d := v.toNat, a := a.toNat, kind := .whole, flags := true, pipe := 2, unit := t.toNat,
    ranges := fun _ h e => ([], if tyInt ty then [] else listRange h e),
    start := rowStart false (fourBit (tyCode ty)) t.toNat, whole := rowOp (mrowEls ty c.toNat) }
/-- Meaning of MROW: it issues to the vector queue. -/
def execMrow (v : BitVec 7) (a : BitVec 7) (c : BitVec 7) (t : BitVec 2) (px : Option Pfx) (s : State) : Host.Outcome State Fault Refusal :=
  .next (issue (.mrow v a c t px) (semMrow v a c t px) s)

/-- MROWG f, rs1, c, t: the pairs of a fibre against the tile rows they select (R248). -/
def semMrowg (f : BitVec 7) (a : BitVec 7) (c : BitVec 7) (t : BitVec 2) (px : Option Pfx) : VSem :=
  let ty := elTy 12 px
  { w := 32, d := f.toNat, a := a.toNat, kind := .whole, flags := true, pipe := 2, unit := t.toNat,
    ranges := fun _ h e => ([], if tyInt ty then [] else listRange h e),
    start := rowStart true false t.toNat, whole := rowOp (mrowgEls ty f.toNat c.toNat) }
/-- Meaning of MROWG: it issues to the vector queue. -/
def execMrowg (f : BitVec 7) (a : BitVec 7) (c : BitVec 7) (t : BitVec 2) (px : Option Pfx) (s : State) : Host.Outcome State Fault Refusal :=
  .next (issue (.mrowg f a c t px) (semMrowg f a c t px) s)

/-- Word of a row of majors 0x7A and 0x7B. -/
def lateWord (major func4 : Nat) (d a : BitVec 7) : BitVec 32 :=
  BitVec.ofNat 32 (func4 * 2 ^ 28 + a.toNat * 2 ^ 14 + d.toNat * 2 ^ 7 + major)

/-- Meaning of MDRAIN: it issues to the vector queue. -/
def execMdrain (d : BitVec 7) (a : BitVec 7) (px : Option Pfx) (s : State) : Host.Outcome State Fault Refusal :=
  .next (issueWord (lateWord 0x7A 0 d a) (px.map pfxWord) (semDrain false d a px) s)
/-- Meaning of MDRAIN with keep: it issues to the vector queue. -/
def execMdrainKeep (d : BitVec 7) (a : BitVec 7) (px : Option Pfx) (s : State) : Host.Outcome State Fault Refusal :=
  .next (issueWord (lateWord 0x7A 1 d a) (px.map pfxWord) (semDrain true d a px) s)
/-- Meaning of MCLR: it issues to the vector queue. -/
def execMclr (a : BitVec 7) (px : Option Pfx) (s : State) : Host.Outcome State Fault Refusal :=
  .next (issueWord (lateWord 0x7A 2 0 a) (px.map pfxWord) (semMclr a px) s)
/-- Meaning of MSTAT row: it issues to the vector queue. -/
def execMstatRow (d : BitVec 7) (a : BitVec 7) (px : Option Pfx) (s : State) : Host.Outcome State Fault Refusal :=
  .next (issueWord (lateWord 0x7B 0 d a) (px.map pfxWord) (semMstatRow d a px) s)
/-- Meaning of MSTAT slot: it issues to the vector queue. -/
def execMstatSlot (d : BitVec 7) (a : BitVec 7) (px : Option Pfx) (s : State) : Host.Outcome State Fault Refusal :=
  .next (issueWord (lateWord 0x7B 1 d a) (px.map pfxWord) (semMstatSlot d a px) s)

end Sys2Proof.Machine
end

