-- ==== Sys2Proof/Machine/VectorArith.lean ====
section
/-! DEFINITION. Vector integer and floating-point arithmetic, compares and mask instructions: majors 0x40 to 0x47
(R127 to R131). Each row has its description (sem…) and its meaning (exec…). -/

namespace Sys2Proof.Machine

/-- A divisible integer operation of base S32: f type sat x y z gives the pattern, z the old destination (R127, R128). -/
def semInt (k : Src2) (d a b : BitVec 7) (px : Option Pfx) (f : Ty → Bool → Nat → Nat → Nat → Nat) : VSem :=
  let p := pfxOf px
  let t := elTy 2 px
  let w := tyW t
  { w := w, d := d.toNat, a := a.toNat, b := b.toNat,
    swept := if k = .vec then [d.toNat, a.toNat, b.toNat] else [d.toNat, a.toNat],
    bad := badXmod k p,
    elem := elementwise p w (fun c e r i _ =>
      (f t (p.sat == 1) (c.vel (e.physA + r) w i) (bsrc k c p e w r i) (c.vel (e.physD + r) w i), 0)) }

/-- A divisible unary integer operation (R128). -/
def semInt1 (d a : BitVec 7) (px : Option Pfx) (f : Ty → Nat → Nat) : VSem :=
  let p := pfxOf px
  let t := elTy 2 px
  let w := tyW t
  { w := w, d := d.toNat, a := a.toNat, swept := [d.toNat, a.toNat],
    elem := elementwise p w (fun c e r i _ => (f t (c.vel (e.physA + r) w i), 0)) }

/-- VADD: Fit(a + b). -/
def fVadd (t : Ty) (sat : Bool) (x y _ : Nat) : Nat := fit t sat (intOf t x + intOf t y)
/-- VSUB: Fit(a − b). -/
def fVsub (t : Ty) (sat : Bool) (x y _ : Nat) : Nat := fit t sat (intOf t x - intOf t y)
/-- VAND. -/
def fVand (_ : Ty) (_ : Bool) (x y _ : Nat) : Nat := x &&& y
/-- VOR. -/
def fVor (_ : Ty) (_ : Bool) (x y _ : Nat) : Nat := x ||| y
/-- VXOR. -/
def fVxor (_ : Ty) (_ : Bool) (x y _ : Nat) : Nat := x ^^^ y
/-- VMIN: the smaller by Int. -/
def fVmin (t : Ty) (_ : Bool) (x y _ : Nat) : Nat := if intOf t y < intOf t x then y else x
/-- VMAX: the larger by Int. -/
def fVmax (t : Ty) (_ : Bool) (x y _ : Nat) : Nat := if intOf t x < intOf t y then y else x
/-- VSADD: clamped sum. -/
def fVsadd (t : Ty) (_ : Bool) (x y _ : Nat) : Nat := fit t true (intOf t x + intOf t y)
/-- VSSUB: clamped difference. -/
def fVssub (t : Ty) (_ : Bool) (x y _ : Nat) : Nat := fit t true (intOf t x - intOf t y)
/-- VMUL: Fit(a × b). -/
def fVmul (t : Ty) (sat : Bool) (x y _ : Nat) : Nat := fit t sat (intOf t x * intOf t y)
/-- VMULH: the high half of the product. -/
def fVmulh (t : Ty) (_ : Bool) (x y _ : Nat) : Nat := patOf (tyW t) (intOf t x * intOf t y / (2 ^ tyW t : Nat))
/-- VMACC: Fit(d + a × b). -/
def fVmacc (t : Ty) (sat : Bool) (x y z : Nat) : Nat := fit t sat (intOf t z + intOf t x * intOf t y)
/-- VSLL. -/
def fVsll (t : Ty) (_ : Bool) (x y _ : Nat) : Nat := x * 2 ^ (y % tyW t) % 2 ^ tyW t
/-- VSRL: the element read unsigned. -/
def fVsrl (t : Ty) (_ : Bool) (x y _ : Nat) : Nat := x / 2 ^ (y % tyW t)
/-- VSRA: the element read signed, whatever the type. -/
def fVsra (t : Ty) (_ : Bool) (x y _ : Nat) : Nat := patOf (tyW t) (sInt x (tyW t) / (2 ^ (y % tyW t) : Nat))

/-- A divisible float operation of base F32: f format rm x y z gives the pattern and flags (R129). z is the destination, or
the register of rs3. -/
def semFp (k : Src2) (d a b : BitVec 7) (px : Option Pfx) (f : FFmt → Nat → Nat → Nat → Nat → Nat × Nat) : VSem :=
  let p := pfxOf px
  let t := elTy 10 px
  let w := tyW t
  { w := w, d := d.toNat, a := a.toNat, b := b.toNat, c := p.rs3.toNat,
    swept := (if k = .vec then [d.toNat, a.toNat, b.toNat] else [d.toNat, a.toNat]) ++
             (if p.rs3 = 0 then [] else [p.rs3.toNat]),
    bad := badXmod k p, flags := true,
    elem := elementwise p w (fun c e r i _ =>
      f (fmtOf t) e.rm (c.vel (e.physA + r) w i) (bsrc k c p e w r i)
        (if p.rs3 = 0 then c.vel (e.physD + r) w i else c.vel (e.physC + r) w i)) }

/-- A binary operation of Table 5 of R129 on patterns. -/
def fpBin (o : FOp) (f : FFmt) (rm x y _ : Nat) : Nat × Nat := opF f rm o x y

/-- A compare into a mask (R130). cond type x y gives the bit and the flags. -/
def semCmp (base : Nat) (flags : Bool) (d a b : BitVec 7) (px : Option Pfx) (cond : Ty → Nat → Nat → Bool × Nat) : VSem :=
  let p := pfxOf px
  let t := elTy base px
  let w := tyW t
  { w := w, d := d.toNat, a := a.toNat, b := b.toNat, swept := [a.toNat, b.toNat], flags := flags,
    elem := fun h e k => do
      let c := (← get).ctx h
      let r := e.row k
      let i := e.pos k
      if c.mbit p.m.toNat k then
        let (v, fl) := cond t (c.vel (e.physA + r) w i) (bsrc .vec c p e w r i)
        modify (fun s => s.modCtx h (fun c => c.setMbit d.toNat k v))
        pure fl
      else
        if p.pol = 1 then modify (fun s => s.modCtx h (fun c => c.setMbit d.toNat k false))
        pure 0 }

/-- Condition codes of VCMP (R130). -/
def icond (cc : Nat) (x y : Int) : Bool :=
  match cc with
  | 0 => x == y
  | 1 => x != y
  | 2 => x < y
  | 3 => x ≤ y
  | 4 => y < x
  | _ => y ≤ x

/-- Number of mask bits the mask instructions act on (R131). (DEDUCED, log entry 47) -/
def maskN (e : Entry) : Nat := min (e.rows * e.vl) 32768

/-- The low n bits of a mask from x, the others from old. -/
def maskMerge (n : Nat) (x old : MReg) : MReg :=
  let k := BitVec.ofNat 32768 (2 ^ n - 1)
  (x &&& k) ||| (old &&& ~~~k)

/-- A mask-to-mask instruction (R131). -/
def semMask (d a b : BitVec 7) (f : MReg → MReg → MReg) : VSem :=
  { w := 64, d := d.toNat, a := a.toNat, b := b.toNat, kind := .whole,
    whole := fun h e => do
      modify (fun s => s.modCtx h (fun c =>
        c.setM d.toNat (maskMerge (maskN e) (f (c.getM a.toNat) (c.getM b.toNat)) (c.getM d.toNat))))
      pure ([], []) }

/-- A mask instruction that writes a scalar register (R131). -/
def semMaskS (d a : BitVec 7) (f : Nat → MReg → Word) : VSem :=
  { w := 64, d := d.toNat, a := a.toNat, sdst := true, kind := .whole,
    whole := fun h e => do
      modify (fun s => s.modCtx h (fun c => c.setP e.physD (f (maskN e) (c.getM a.toNat))))
      pure ([], []) }

/-- MPOPC: set bits below N. -/
def fMpopc (n : Nat) (m : MReg) : Word := w64 (popc m.toNat n)
/-- MFIRST: lowest set bit below N, or all ones. -/
def fMfirst (n : Nat) (m : MReg) : Word :=
  match (List.range n).find? (fun p => m.getLsbD p) with
  | some p => w64 p
  | none => BitVec.allOnes 64

/-- MSET: bit p set when p < S(rs1) (R131). -/
def semMaskSet (d a : BitVec 7) : VSem :=
  { w := 64, d := d.toNat, a := a.toNat, kind := .whole,
    whole := fun h e => do
      modify (fun s => s.modCtx h (fun c =>
        c.setM d.toNat (maskMerge (maskN e) (BitVec.ofNat 32768 (2 ^ min e.opA.toNat 32768 - 1)) (c.getM d.toNat))))
      pure ([], []) }

/-- VADD vd, vs1, vs2: elementwise (R127). -/
def semVadd (d : BitVec 7) (a : BitVec 7) (b : BitVec 7) (px : Option Pfx) : VSem :=
  semInt .vec d a b px fVadd
/-- Meaning of VADD vd, vs1, vs2. -/
def execVadd (d : BitVec 7) (a : BitVec 7) (b : BitVec 7) (px : Option Pfx) (s : State) : Host.Outcome State Fault Refusal :=
  .next (issue (.vadd d a b px) (semVadd d a b px) s)

/-- VADD vd, vs1, rs2: elementwise with a scalar second source (R127). -/
def semVaddScalar (d : BitVec 7) (a : BitVec 7) (b : BitVec 7) (px : Option Pfx) : VSem :=
  semInt .scal d a b px fVadd
/-- Meaning of VADD vd, vs1, rs2. -/
def execVaddScalar (d : BitVec 7) (a : BitVec 7) (b : BitVec 7) (px : Option Pfx) (s : State) : Host.Outcome State Fault Refusal :=
  .next (issue (.vaddScalar d a b px) (semVaddScalar d a b px) s)

/-- VSUB vd, vs1, vs2: elementwise (R127). -/
def semVsub (d : BitVec 7) (a : BitVec 7) (b : BitVec 7) (px : Option Pfx) : VSem :=
  semInt .vec d a b px fVsub
/-- Meaning of VSUB vd, vs1, vs2. -/
def execVsub (d : BitVec 7) (a : BitVec 7) (b : BitVec 7) (px : Option Pfx) (s : State) : Host.Outcome State Fault Refusal :=
  .next (issue (.vsub d a b px) (semVsub d a b px) s)

/-- VSUB vd, vs1, rs2: elementwise with a scalar second source (R127). -/
def semVsubScalar (d : BitVec 7) (a : BitVec 7) (b : BitVec 7) (px : Option Pfx) : VSem :=
  semInt .scal d a b px fVsub
/-- Meaning of VSUB vd, vs1, rs2. -/
def execVsubScalar (d : BitVec 7) (a : BitVec 7) (b : BitVec 7) (px : Option Pfx) (s : State) : Host.Outcome State Fault Refusal :=
  .next (issue (.vsubScalar d a b px) (semVsubScalar d a b px) s)

/-- VAND vd, vs1, vs2: elementwise (R127). -/
def semVand (d : BitVec 7) (a : BitVec 7) (b : BitVec 7) (px : Option Pfx) : VSem :=
  semInt .vec d a b px fVand
/-- Meaning of VAND vd, vs1, vs2. -/
def execVand (d : BitVec 7) (a : BitVec 7) (b : BitVec 7) (px : Option Pfx) (s : State) : Host.Outcome State Fault Refusal :=
  .next (issue (.vand d a b px) (semVand d a b px) s)

/-- VAND vd, vs1, rs2: elementwise with a scalar second source (R127). -/
def semVandScalar (d : BitVec 7) (a : BitVec 7) (b : BitVec 7) (px : Option Pfx) : VSem :=
  semInt .scal d a b px fVand
/-- Meaning of VAND vd, vs1, rs2. -/
def execVandScalar (d : BitVec 7) (a : BitVec 7) (b : BitVec 7) (px : Option Pfx) (s : State) : Host.Outcome State Fault Refusal :=
  .next (issue (.vandScalar d a b px) (semVandScalar d a b px) s)

/-- VOR vd, vs1, vs2: elementwise (R127). -/
def semVor (d : BitVec 7) (a : BitVec 7) (b : BitVec 7) (px : Option Pfx) : VSem :=
  semInt .vec d a b px fVor
/-- Meaning of VOR vd, vs1, vs2. -/
def execVor (d : BitVec 7) (a : BitVec 7) (b : BitVec 7) (px : Option Pfx) (s : State) : Host.Outcome State Fault Refusal :=
  .next (issue (.vor d a b px) (semVor d a b px) s)

/-- VOR vd, vs1, rs2: elementwise with a scalar second source (R127). -/
def semVorScalar (d : BitVec 7) (a : BitVec 7) (b : BitVec 7) (px : Option Pfx) : VSem :=
  semInt .scal d a b px fVor
/-- Meaning of VOR vd, vs1, rs2. -/
def execVorScalar (d : BitVec 7) (a : BitVec 7) (b : BitVec 7) (px : Option Pfx) (s : State) : Host.Outcome State Fault Refusal :=
  .next (issue (.vorScalar d a b px) (semVorScalar d a b px) s)

/-- VXOR vd, vs1, vs2: elementwise (R127). -/
def semVxor (d : BitVec 7) (a : BitVec 7) (b : BitVec 7) (px : Option Pfx) : VSem :=
  semInt .vec d a b px fVxor
/-- Meaning of VXOR vd, vs1, vs2. -/
def execVxor (d : BitVec 7) (a : BitVec 7) (b : BitVec 7) (px : Option Pfx) (s : State) : Host.Outcome State Fault Refusal :=
  .next (issue (.vxor d a b px) (semVxor d a b px) s)

/-- VXOR vd, vs1, rs2: elementwise with a scalar second source (R127). -/
def semVxorScalar (d : BitVec 7) (a : BitVec 7) (b : BitVec 7) (px : Option Pfx) : VSem :=
  semInt .scal d a b px fVxor
/-- Meaning of VXOR vd, vs1, rs2. -/
def execVxorScalar (d : BitVec 7) (a : BitVec 7) (b : BitVec 7) (px : Option Pfx) (s : State) : Host.Outcome State Fault Refusal :=
  .next (issue (.vxorScalar d a b px) (semVxorScalar d a b px) s)

/-- VMIN vd, vs1, vs2: elementwise (R127). -/
def semVmin (d : BitVec 7) (a : BitVec 7) (b : BitVec 7) (px : Option Pfx) : VSem :=
  semInt .vec d a b px fVmin
/-- Meaning of VMIN vd, vs1, vs2. -/
def execVmin (d : BitVec 7) (a : BitVec 7) (b : BitVec 7) (px : Option Pfx) (s : State) : Host.Outcome State Fault Refusal :=
  .next (issue (.vmin d a b px) (semVmin d a b px) s)

/-- VMIN vd, vs1, rs2: elementwise with a scalar second source (R127). -/
def semVminScalar (d : BitVec 7) (a : BitVec 7) (b : BitVec 7) (px : Option Pfx) : VSem :=
  semInt .scal d a b px fVmin
/-- Meaning of VMIN vd, vs1, rs2. -/
def execVminScalar (d : BitVec 7) (a : BitVec 7) (b : BitVec 7) (px : Option Pfx) (s : State) : Host.Outcome State Fault Refusal :=
  .next (issue (.vminScalar d a b px) (semVminScalar d a b px) s)

/-- VMAX vd, vs1, vs2: elementwise (R127). -/
def semVmax (d : BitVec 7) (a : BitVec 7) (b : BitVec 7) (px : Option Pfx) : VSem :=
  semInt .vec d a b px fVmax
/-- Meaning of VMAX vd, vs1, vs2. -/
def execVmax (d : BitVec 7) (a : BitVec 7) (b : BitVec 7) (px : Option Pfx) (s : State) : Host.Outcome State Fault Refusal :=
  .next (issue (.vmax d a b px) (semVmax d a b px) s)

/-- VMAX vd, vs1, rs2: elementwise with a scalar second source (R127). -/
def semVmaxScalar (d : BitVec 7) (a : BitVec 7) (b : BitVec 7) (px : Option Pfx) : VSem :=
  semInt .scal d a b px fVmax
/-- Meaning of VMAX vd, vs1, rs2. -/
def execVmaxScalar (d : BitVec 7) (a : BitVec 7) (b : BitVec 7) (px : Option Pfx) (s : State) : Host.Outcome State Fault Refusal :=
  .next (issue (.vmaxScalar d a b px) (semVmaxScalar d a b px) s)

/-- VSADD vd, vs1, vs2: elementwise (R127). -/
def semVsadd (d : BitVec 7) (a : BitVec 7) (b : BitVec 7) (px : Option Pfx) : VSem :=
  semInt .vec d a b px fVsadd
/-- Meaning of VSADD vd, vs1, vs2. -/
def execVsadd (d : BitVec 7) (a : BitVec 7) (b : BitVec 7) (px : Option Pfx) (s : State) : Host.Outcome State Fault Refusal :=
  .next (issue (.vsadd d a b px) (semVsadd d a b px) s)

/-- VSADD vd, vs1, rs2: elementwise with a scalar second source (R127). -/
def semVsaddScalar (d : BitVec 7) (a : BitVec 7) (b : BitVec 7) (px : Option Pfx) : VSem :=
  semInt .scal d a b px fVsadd
/-- Meaning of VSADD vd, vs1, rs2. -/
def execVsaddScalar (d : BitVec 7) (a : BitVec 7) (b : BitVec 7) (px : Option Pfx) (s : State) : Host.Outcome State Fault Refusal :=
  .next (issue (.vsaddScalar d a b px) (semVsaddScalar d a b px) s)

/-- VSSUB vd, vs1, vs2: elementwise (R127). -/
def semVssub (d : BitVec 7) (a : BitVec 7) (b : BitVec 7) (px : Option Pfx) : VSem :=
  semInt .vec d a b px fVssub
/-- Meaning of VSSUB vd, vs1, vs2. -/
def execVssub (d : BitVec 7) (a : BitVec 7) (b : BitVec 7) (px : Option Pfx) (s : State) : Host.Outcome State Fault Refusal :=
  .next (issue (.vssub d a b px) (semVssub d a b px) s)

/-- VSSUB vd, vs1, rs2: elementwise with a scalar second source (R127). -/
def semVssubScalar (d : BitVec 7) (a : BitVec 7) (b : BitVec 7) (px : Option Pfx) : VSem :=
  semInt .scal d a b px fVssub
/-- Meaning of VSSUB vd, vs1, rs2. -/
def execVssubScalar (d : BitVec 7) (a : BitVec 7) (b : BitVec 7) (px : Option Pfx) (s : State) : Host.Outcome State Fault Refusal :=
  .next (issue (.vssubScalar d a b px) (semVssubScalar d a b px) s)

/-- VMUL vd, vs1, vs2: elementwise (R128). -/
def semVmul (d : BitVec 7) (a : BitVec 7) (b : BitVec 7) (px : Option Pfx) : VSem :=
  semInt .vec d a b px fVmul
/-- Meaning of VMUL vd, vs1, vs2. -/
def execVmul (d : BitVec 7) (a : BitVec 7) (b : BitVec 7) (px : Option Pfx) (s : State) : Host.Outcome State Fault Refusal :=
  .next (issue (.vmul d a b px) (semVmul d a b px) s)

/-- VMUL vd, vs1, rs2: elementwise with a scalar second source (R128). -/
def semVmulScalar (d : BitVec 7) (a : BitVec 7) (b : BitVec 7) (px : Option Pfx) : VSem :=
  semInt .scal d a b px fVmul
/-- Meaning of VMUL vd, vs1, rs2. -/
def execVmulScalar (d : BitVec 7) (a : BitVec 7) (b : BitVec 7) (px : Option Pfx) (s : State) : Host.Outcome State Fault Refusal :=
  .next (issue (.vmulScalar d a b px) (semVmulScalar d a b px) s)

/-- VMULH vd, vs1, vs2: elementwise (R128). -/
def semVmulh (d : BitVec 7) (a : BitVec 7) (b : BitVec 7) (px : Option Pfx) : VSem :=
  semInt .vec d a b px fVmulh
/-- Meaning of VMULH vd, vs1, vs2. -/
def execVmulh (d : BitVec 7) (a : BitVec 7) (b : BitVec 7) (px : Option Pfx) (s : State) : Host.Outcome State Fault Refusal :=
  .next (issue (.vmulh d a b px) (semVmulh d a b px) s)

/-- VMULH vd, vs1, rs2: elementwise with a scalar second source (R128). -/
def semVmulhScalar (d : BitVec 7) (a : BitVec 7) (b : BitVec 7) (px : Option Pfx) : VSem :=
  semInt .scal d a b px fVmulh
/-- Meaning of VMULH vd, vs1, rs2. -/
def execVmulhScalar (d : BitVec 7) (a : BitVec 7) (b : BitVec 7) (px : Option Pfx) (s : State) : Host.Outcome State Fault Refusal :=
  .next (issue (.vmulhScalar d a b px) (semVmulhScalar d a b px) s)

/-- VMACC vd, vs1, vs2: elementwise (R128). -/
def semVmacc (d : BitVec 7) (a : BitVec 7) (b : BitVec 7) (px : Option Pfx) : VSem :=
  semInt .vec d a b px fVmacc
/-- Meaning of VMACC vd, vs1, vs2. -/
def execVmacc (d : BitVec 7) (a : BitVec 7) (b : BitVec 7) (px : Option Pfx) (s : State) : Host.Outcome State Fault Refusal :=
  .next (issue (.vmacc d a b px) (semVmacc d a b px) s)

/-- VMACC vd, vs1, rs2: elementwise with a scalar second source (R128). -/
def semVmaccScalar (d : BitVec 7) (a : BitVec 7) (b : BitVec 7) (px : Option Pfx) : VSem :=
  semInt .scal d a b px fVmacc
/-- Meaning of VMACC vd, vs1, rs2. -/
def execVmaccScalar (d : BitVec 7) (a : BitVec 7) (b : BitVec 7) (px : Option Pfx) (s : State) : Host.Outcome State Fault Refusal :=
  .next (issue (.vmaccScalar d a b px) (semVmaccScalar d a b px) s)

/-- VSLL vd, vs1, vs2: elementwise (R128). -/
def semVsll (d : BitVec 7) (a : BitVec 7) (b : BitVec 7) (px : Option Pfx) : VSem :=
  semInt .vec d a b px fVsll
/-- Meaning of VSLL vd, vs1, vs2. -/
def execVsll (d : BitVec 7) (a : BitVec 7) (b : BitVec 7) (px : Option Pfx) (s : State) : Host.Outcome State Fault Refusal :=
  .next (issue (.vsll d a b px) (semVsll d a b px) s)

/-- VSLL vd, vs1, rs2: elementwise with a scalar second source (R128). -/
def semVsllScalar (d : BitVec 7) (a : BitVec 7) (b : BitVec 7) (px : Option Pfx) : VSem :=
  semInt .scal d a b px fVsll
/-- Meaning of VSLL vd, vs1, rs2. -/
def execVsllScalar (d : BitVec 7) (a : BitVec 7) (b : BitVec 7) (px : Option Pfx) (s : State) : Host.Outcome State Fault Refusal :=
  .next (issue (.vsllScalar d a b px) (semVsllScalar d a b px) s)

/-- VSRL vd, vs1, vs2: elementwise (R128). -/
def semVsrl (d : BitVec 7) (a : BitVec 7) (b : BitVec 7) (px : Option Pfx) : VSem :=
  semInt .vec d a b px fVsrl
/-- Meaning of VSRL vd, vs1, vs2. -/
def execVsrl (d : BitVec 7) (a : BitVec 7) (b : BitVec 7) (px : Option Pfx) (s : State) : Host.Outcome State Fault Refusal :=
  .next (issue (.vsrl d a b px) (semVsrl d a b px) s)

/-- VSRL vd, vs1, rs2: elementwise with a scalar second source (R128). -/
def semVsrlScalar (d : BitVec 7) (a : BitVec 7) (b : BitVec 7) (px : Option Pfx) : VSem :=
  semInt .scal d a b px fVsrl
/-- Meaning of VSRL vd, vs1, rs2. -/
def execVsrlScalar (d : BitVec 7) (a : BitVec 7) (b : BitVec 7) (px : Option Pfx) (s : State) : Host.Outcome State Fault Refusal :=
  .next (issue (.vsrlScalar d a b px) (semVsrlScalar d a b px) s)

/-- VSRA vd, vs1, vs2: elementwise (R128). -/
def semVsra (d : BitVec 7) (a : BitVec 7) (b : BitVec 7) (px : Option Pfx) : VSem :=
  semInt .vec d a b px fVsra
/-- Meaning of VSRA vd, vs1, vs2. -/
def execVsra (d : BitVec 7) (a : BitVec 7) (b : BitVec 7) (px : Option Pfx) (s : State) : Host.Outcome State Fault Refusal :=
  .next (issue (.vsra d a b px) (semVsra d a b px) s)

/-- VSRA vd, vs1, rs2: elementwise with a scalar second source (R128). -/
def semVsraScalar (d : BitVec 7) (a : BitVec 7) (b : BitVec 7) (px : Option Pfx) : VSem :=
  semInt .scal d a b px fVsra
/-- Meaning of VSRA vd, vs1, rs2. -/
def execVsraScalar (d : BitVec 7) (a : BitVec 7) (b : BitVec 7) (px : Option Pfx) (s : State) : Host.Outcome State Fault Refusal :=
  .next (issue (.vsraScalar d a b px) (semVsraScalar d a b px) s)

/-- VCLZ: leading zero bits (R128). -/
def semVclz (d : BitVec 7) (a : BitVec 7) (px : Option Pfx) : VSem :=
  semInt1 d a px (fun t x => clz x (tyW t))
/-- Meaning of VCLZ. -/
def execVclz (d : BitVec 7) (a : BitVec 7) (px : Option Pfx) (s : State) : Host.Outcome State Fault Refusal :=
  .next (issue (.vclz d a px) (semVclz d a px) s)

/-- VPOPC: one bits (R128). -/
def semVpopc (d : BitVec 7) (a : BitVec 7) (px : Option Pfx) : VSem :=
  semInt1 d a px (fun t x => popc x (tyW t))
/-- Meaning of VPOPC. -/
def execVpopc (d : BitVec 7) (a : BitVec 7) (px : Option Pfx) (s : State) : Host.Outcome State Fault Refusal :=
  .next (issue (.vpopc d a px) (semVpopc d a px) s)

/-- VFADD: elementwise float (R129). -/
def semVfadd (d : BitVec 7) (a : BitVec 7) (b : BitVec 7) (px : Option Pfx) : VSem :=
  semFp .vec d a b px (fpBin .add)
/-- Meaning of VFADD. -/
def execVfadd (d : BitVec 7) (a : BitVec 7) (b : BitVec 7) (px : Option Pfx) (s : State) : Host.Outcome State Fault Refusal :=
  .next (issue (.vfadd d a b px) (semVfadd d a b px) s)

/-- VFADD with a scalar second source: elementwise float (R129). -/
def semVfaddScalar (d : BitVec 7) (a : BitVec 7) (b : BitVec 7) (px : Option Pfx) : VSem :=
  semFp .scal d a b px (fpBin .add)
/-- Meaning of VFADD with a scalar second source. -/
def execVfaddScalar (d : BitVec 7) (a : BitVec 7) (b : BitVec 7) (px : Option Pfx) (s : State) : Host.Outcome State Fault Refusal :=
  .next (issue (.vfaddScalar d a b px) (semVfaddScalar d a b px) s)

/-- VFSUB: elementwise float (R129). -/
def semVfsub (d : BitVec 7) (a : BitVec 7) (b : BitVec 7) (px : Option Pfx) : VSem :=
  semFp .vec d a b px (fpBin .sub)
/-- Meaning of VFSUB. -/
def execVfsub (d : BitVec 7) (a : BitVec 7) (b : BitVec 7) (px : Option Pfx) (s : State) : Host.Outcome State Fault Refusal :=
  .next (issue (.vfsub d a b px) (semVfsub d a b px) s)

/-- VFSUB with a scalar second source: elementwise float (R129). -/
def semVfsubScalar (d : BitVec 7) (a : BitVec 7) (b : BitVec 7) (px : Option Pfx) : VSem :=
  semFp .scal d a b px (fpBin .sub)
/-- Meaning of VFSUB with a scalar second source. -/
def execVfsubScalar (d : BitVec 7) (a : BitVec 7) (b : BitVec 7) (px : Option Pfx) (s : State) : Host.Outcome State Fault Refusal :=
  .next (issue (.vfsubScalar d a b px) (semVfsubScalar d a b px) s)

/-- VFMUL: elementwise float (R129). -/
def semVfmul (d : BitVec 7) (a : BitVec 7) (b : BitVec 7) (px : Option Pfx) : VSem :=
  semFp .vec d a b px (fpBin .mul)
/-- Meaning of VFMUL. -/
def execVfmul (d : BitVec 7) (a : BitVec 7) (b : BitVec 7) (px : Option Pfx) (s : State) : Host.Outcome State Fault Refusal :=
  .next (issue (.vfmul d a b px) (semVfmul d a b px) s)

/-- VFMUL with a scalar second source: elementwise float (R129). -/
def semVfmulScalar (d : BitVec 7) (a : BitVec 7) (b : BitVec 7) (px : Option Pfx) : VSem :=
  semFp .scal d a b px (fpBin .mul)
/-- Meaning of VFMUL with a scalar second source. -/
def execVfmulScalar (d : BitVec 7) (a : BitVec 7) (b : BitVec 7) (px : Option Pfx) (s : State) : Host.Outcome State Fault Refusal :=
  .next (issue (.vfmulScalar d a b px) (semVfmulScalar d a b px) s)

/-- VFDIV: elementwise float (R129). -/
def semVfdiv (d : BitVec 7) (a : BitVec 7) (b : BitVec 7) (px : Option Pfx) : VSem :=
  semFp .vec d a b px (fpBin .div)
/-- Meaning of VFDIV. -/
def execVfdiv (d : BitVec 7) (a : BitVec 7) (b : BitVec 7) (px : Option Pfx) (s : State) : Host.Outcome State Fault Refusal :=
  .next (issue (.vfdiv d a b px) (semVfdiv d a b px) s)

/-- VFDIV with a scalar second source: elementwise float (R129). -/
def semVfdivScalar (d : BitVec 7) (a : BitVec 7) (b : BitVec 7) (px : Option Pfx) : VSem :=
  semFp .scal d a b px (fpBin .div)
/-- Meaning of VFDIV with a scalar second source. -/
def execVfdivScalar (d : BitVec 7) (a : BitVec 7) (b : BitVec 7) (px : Option Pfx) (s : State) : Host.Outcome State Fault Refusal :=
  .next (issue (.vfdivScalar d a b px) (semVfdivScalar d a b px) s)

/-- VFMIN: elementwise float (R129). -/
def semVfmin (d : BitVec 7) (a : BitVec 7) (b : BitVec 7) (px : Option Pfx) : VSem :=
  semFp .vec d a b px (fpBin .min)
/-- Meaning of VFMIN. -/
def execVfmin (d : BitVec 7) (a : BitVec 7) (b : BitVec 7) (px : Option Pfx) (s : State) : Host.Outcome State Fault Refusal :=
  .next (issue (.vfmin d a b px) (semVfmin d a b px) s)

/-- VFMIN with a scalar second source: elementwise float (R129). -/
def semVfminScalar (d : BitVec 7) (a : BitVec 7) (b : BitVec 7) (px : Option Pfx) : VSem :=
  semFp .scal d a b px (fpBin .min)
/-- Meaning of VFMIN with a scalar second source. -/
def execVfminScalar (d : BitVec 7) (a : BitVec 7) (b : BitVec 7) (px : Option Pfx) (s : State) : Host.Outcome State Fault Refusal :=
  .next (issue (.vfminScalar d a b px) (semVfminScalar d a b px) s)

/-- VFMAX: elementwise float (R129). -/
def semVfmax (d : BitVec 7) (a : BitVec 7) (b : BitVec 7) (px : Option Pfx) : VSem :=
  semFp .vec d a b px (fpBin .max)
/-- Meaning of VFMAX. -/
def execVfmax (d : BitVec 7) (a : BitVec 7) (b : BitVec 7) (px : Option Pfx) (s : State) : Host.Outcome State Fault Refusal :=
  .next (issue (.vfmax d a b px) (semVfmax d a b px) s)

/-- VFMAX with a scalar second source: elementwise float (R129). -/
def semVfmaxScalar (d : BitVec 7) (a : BitVec 7) (b : BitVec 7) (px : Option Pfx) : VSem :=
  semFp .scal d a b px (fpBin .max)
/-- Meaning of VFMAX with a scalar second source. -/
def execVfmaxScalar (d : BitVec 7) (a : BitVec 7) (b : BitVec 7) (px : Option Pfx) (s : State) : Host.Outcome State Fault Refusal :=
  .next (issue (.vfmaxScalar d a b px) (semVfmaxScalar d a b px) s)

/-- VFMA: fused multiply-add with one rounding (R129). -/
def semVfma (d : BitVec 7) (a : BitVec 7) (b : BitVec 7) (px : Option Pfx) : VSem :=
  semFp .vec d a b px (fun f rm x y z => fmaF f rm false x y z)
/-- Meaning of VFMA. -/
def execVfma (d : BitVec 7) (a : BitVec 7) (b : BitVec 7) (px : Option Pfx) (s : State) : Host.Outcome State Fault Refusal :=
  .next (issue (.vfma d a b px) (semVfma d a b px) s)

/-- VFMA with a scalar second source: fused multiply-add with one rounding (R129). -/
def semVfmaScalar (d : BitVec 7) (a : BitVec 7) (b : BitVec 7) (px : Option Pfx) : VSem :=
  semFp .scal d a b px (fun f rm x y z => fmaF f rm false x y z)
/-- Meaning of VFMA with a scalar second source. -/
def execVfmaScalar (d : BitVec 7) (a : BitVec 7) (b : BitVec 7) (px : Option Pfx) (s : State) : Host.Outcome State Fault Refusal :=
  .next (issue (.vfmaScalar d a b px) (semVfmaScalar d a b px) s)

/-- VFNMA: fused multiply-add with one rounding (R129). -/
def semVfnma (d : BitVec 7) (a : BitVec 7) (b : BitVec 7) (px : Option Pfx) : VSem :=
  semFp .vec d a b px (fun f rm x y z => fmaF f rm true x y z)
/-- Meaning of VFNMA. -/
def execVfnma (d : BitVec 7) (a : BitVec 7) (b : BitVec 7) (px : Option Pfx) (s : State) : Host.Outcome State Fault Refusal :=
  .next (issue (.vfnma d a b px) (semVfnma d a b px) s)

/-- VFNMA with a scalar second source: fused multiply-add with one rounding (R129). -/
def semVfnmaScalar (d : BitVec 7) (a : BitVec 7) (b : BitVec 7) (px : Option Pfx) : VSem :=
  semFp .scal d a b px (fun f rm x y z => fmaF f rm true x y z)
/-- Meaning of VFNMA with a scalar second source. -/
def execVfnmaScalar (d : BitVec 7) (a : BitVec 7) (b : BitVec 7) (px : Option Pfx) (s : State) : Host.Outcome State Fault Refusal :=
  .next (issue (.vfnmaScalar d a b px) (semVfnmaScalar d a b px) s)

/-- VFSQRT: square root (R129). -/
def semVfsqrt (d : BitVec 7) (a : BitVec 7) (px : Option Pfx) : VSem :=
  { semFp .scal d a 0 px (fun f rm x _ _ => sqrtV f rm (decodeF f x)) with b := 0 }
/-- Meaning of VFSQRT. -/
def execVfsqrt (d : BitVec 7) (a : BitVec 7) (px : Option Pfx) (s : State) : Host.Outcome State Fault Refusal :=
  .next (issue (.vfsqrt d a px) (semVfsqrt d a px) s)

/-- VFCLASS: class mask (R129). -/
def semVfclass (d : BitVec 7) (a : BitVec 7) (px : Option Pfx) : VSem :=
  { semFp .scal d a 0 px (fun f _ x _ _ => (classF f x, 0)) with flags := false }
/-- Meaning of VFCLASS. -/
def execVfclass (d : BitVec 7) (a : BitVec 7) (px : Option Pfx) (s : State) : Host.Outcome State Fault Refusal :=
  .next (issue (.vfclass d a px) (semVfclass d a px) s)

/-- VCMP: integer compare into a mask (R130). -/
def semVcmp (d : BitVec 7) (a : BitVec 7) (b : BitVec 7) (c : BitVec 4) (px : Option Pfx) : VSem :=
  semCmp 2 false d a b px (fun t x y => (icond c.toNat (intOf t x) (intOf t y), 0))
/-- Meaning of VCMP. -/
def execVcmp (d : BitVec 7) (a : BitVec 7) (b : BitVec 7) (c : BitVec 4) (px : Option Pfx) (s : State) : Host.Outcome State Fault Refusal :=
  .next (issue (.vcmp d a b c px) (semVcmp d a b c px) s)

/-- VFCMP eq: float compare into a mask (R130). -/
def semVfcmpEq (d : BitVec 7) (a : BitVec 7) (b : BitVec 7) (px : Option Pfx) : VSem :=
  semCmp 10 true d a b px (fun t x y => cmpF (fmtOf t) .eq x y)
/-- Meaning of VFCMP eq. -/
def execVfcmpEq (d : BitVec 7) (a : BitVec 7) (b : BitVec 7) (px : Option Pfx) (s : State) : Host.Outcome State Fault Refusal :=
  .next (issue (.vfcmpEq d a b px) (semVfcmpEq d a b px) s)

/-- VFCMP ne: float compare into a mask (R130). -/
def semVfcmpNe (d : BitVec 7) (a : BitVec 7) (b : BitVec 7) (px : Option Pfx) : VSem :=
  semCmp 10 true d a b px (fun t x y => cmpF (fmtOf t) .ne x y)
/-- Meaning of VFCMP ne. -/
def execVfcmpNe (d : BitVec 7) (a : BitVec 7) (b : BitVec 7) (px : Option Pfx) (s : State) : Host.Outcome State Fault Refusal :=
  .next (issue (.vfcmpNe d a b px) (semVfcmpNe d a b px) s)

/-- VFCMP lt: float compare into a mask (R130). -/
def semVfcmpLt (d : BitVec 7) (a : BitVec 7) (b : BitVec 7) (px : Option Pfx) : VSem :=
  semCmp 10 true d a b px (fun t x y => cmpF (fmtOf t) .lt x y)
/-- Meaning of VFCMP lt. -/
def execVfcmpLt (d : BitVec 7) (a : BitVec 7) (b : BitVec 7) (px : Option Pfx) (s : State) : Host.Outcome State Fault Refusal :=
  .next (issue (.vfcmpLt d a b px) (semVfcmpLt d a b px) s)

/-- VFCMP le: float compare into a mask (R130). -/
def semVfcmpLe (d : BitVec 7) (a : BitVec 7) (b : BitVec 7) (px : Option Pfx) : VSem :=
  semCmp 10 true d a b px (fun t x y => cmpF (fmtOf t) .le x y)
/-- Meaning of VFCMP le. -/
def execVfcmpLe (d : BitVec 7) (a : BitVec 7) (b : BitVec 7) (px : Option Pfx) (s : State) : Host.Outcome State Fault Refusal :=
  .next (issue (.vfcmpLe d a b px) (semVfcmpLe d a b px) s)

/-- VFCMP un: float compare into a mask (R130). -/
def semVfcmpUn (d : BitVec 7) (a : BitVec 7) (b : BitVec 7) (px : Option Pfx) : VSem :=
  semCmp 10 true d a b px (fun t x y => cmpF (fmtOf t) .un x y)
/-- Meaning of VFCMP un. -/
def execVfcmpUn (d : BitVec 7) (a : BitVec 7) (b : BitVec 7) (px : Option Pfx) (s : State) : Host.Outcome State Fault Refusal :=
  .next (issue (.vfcmpUn d a b px) (semVfcmpUn d a b px) s)

/-- MAND: mask logic (R131). -/
def semMand (d : BitVec 7) (a : BitVec 7) (b : BitVec 7) (_px : Option Pfx) : VSem :=
  semMask d a b (fun x y => x &&& y)
/-- Meaning of MAND. -/
def execMand (d : BitVec 7) (a : BitVec 7) (b : BitVec 7) (px : Option Pfx) (s : State) : Host.Outcome State Fault Refusal :=
  .next (issue (.mand d a b px) (semMand d a b px) s)

/-- MOR: mask logic (R131). -/
def semMor (d : BitVec 7) (a : BitVec 7) (b : BitVec 7) (_px : Option Pfx) : VSem :=
  semMask d a b (fun x y => x ||| y)
/-- Meaning of MOR. -/
def execMor (d : BitVec 7) (a : BitVec 7) (b : BitVec 7) (px : Option Pfx) (s : State) : Host.Outcome State Fault Refusal :=
  .next (issue (.mor d a b px) (semMor d a b px) s)

/-- MXOR: mask logic (R131). -/
def semMxor (d : BitVec 7) (a : BitVec 7) (b : BitVec 7) (_px : Option Pfx) : VSem :=
  semMask d a b (fun x y => x ^^^ y)
/-- Meaning of MXOR. -/
def execMxor (d : BitVec 7) (a : BitVec 7) (b : BitVec 7) (px : Option Pfx) (s : State) : Host.Outcome State Fault Refusal :=
  .next (issue (.mxor d a b px) (semMxor d a b px) s)

/-- MANDN: mask logic (R131). -/
def semMandn (d : BitVec 7) (a : BitVec 7) (b : BitVec 7) (_px : Option Pfx) : VSem :=
  semMask d a b (fun x y => x &&& ~~~y)
/-- Meaning of MANDN. -/
def execMandn (d : BitVec 7) (a : BitVec 7) (b : BitVec 7) (px : Option Pfx) (s : State) : Host.Outcome State Fault Refusal :=
  .next (issue (.mandn d a b px) (semMandn d a b px) s)

/-- MPOPC: number of set mask bits (R131). -/
def semMpopc (d : BitVec 7) (a : BitVec 7) (_px : Option Pfx) : VSem :=
  semMaskS d a fMpopc
/-- Meaning of MPOPC. -/
def execMpopc (d : BitVec 7) (a : BitVec 7) (px : Option Pfx) (s : State) : Host.Outcome State Fault Refusal :=
  .next (issue (.mpopc d a px) (semMpopc d a px) s)

/-- MFIRST: lowest set mask bit (R131). -/
def semMfirst (d : BitVec 7) (a : BitVec 7) (_px : Option Pfx) : VSem :=
  semMaskS d a fMfirst
/-- Meaning of MFIRST. -/
def execMfirst (d : BitVec 7) (a : BitVec 7) (px : Option Pfx) (s : State) : Host.Outcome State Fault Refusal :=
  .next (issue (.mfirst d a px) (semMfirst d a px) s)

/-- MSET: the first bits of a mask (R131). -/
def semMset (d : BitVec 7) (a : BitVec 7) (_px : Option Pfx) : VSem :=
  semMaskSet d a
/-- Meaning of MSET. -/
def execMset (d : BitVec 7) (a : BitVec 7) (px : Option Pfx) (s : State) : Host.Outcome State Fault Refusal :=
  .next (issue (.mset d a px) (semMset d a px) s)

end Sys2Proof.Machine
end

