-- ==== Sys2Proof/Machine/VectorConv.lean ====
section
/-! DEFINITION. Conversions, block scaling and reductions: majors 0x48 to 0x4A (R132 to R139, R34 to R40). -/

namespace Sys2Proof.Machine

/-- The target of VWIDEN for a source type (R133 Table 8). -/
def widenTo : Ty → Ty
  | .s8 => .s16 | .s16 => .s32 | .s32 => .s64 | .n8 => .n16 | .n16 => .n32 | .n32 => .n64
  | .f16 => .f32 | .b16 => .f32 | .f32 => .f64
  | t => t

/-- The integer type of half the width and the same signedness (R134). -/
def narrowTo : Ty → Ty
  | .s16 => .s8 | .s32 => .s16 | .s64 => .s32 | .n16 => .n8 | .n32 => .n16 | .n64 => .n32
  | t => t

/-- A divisible conversion of one source into another type; VLe is that of the wider (R45). -/
def semConv (d a : BitVec 7) (px : Option Pfx) (src dst : Ty) (flags : Bool) (f : Ctx → Entry → Nat → Nat → Nat → Nat × Nat) :
    VSem :=
  { w := max (tyW src) (tyW dst), sw := tyW src, dw := tyW dst, d := d.toNat, a := a.toNat, swept := [d.toNat, a.toNat], flags := flags,
    elem := elementwise (pfxOf px) (tyW dst) (fun c e r i _ => f c e r i (c.vel (e.physA + r) (tyW src) i)) }

/-- Narrow of R134: q = x / 2^k rounded in rm, then clamped or cut. -/
def narrow (src : Ty) (rm : Nat) (sat : Bool) (k x : Nat) : Nat × Nat :=
  let q := intOf src x
  let (n, _) := roundInt rm (q < 0) q.natAbs (-(k : Int))
  let dst := narrowTo src
  if sat && !(intMin dst ≤ n && n ≤ intMax dst) then (patOf (tyW dst) (clampTo dst n), fSA)
  else (patOf (tyW dst) n, 0)

/-- Elements in a block of scale code b (R135). -/
def blockLen (b : Nat) : Nat := 2 ^ (b + 3)
/-- Blocks of one row (R135). -/
def blocksOf (e : Entry) (b : Nat) : Nat := cdiv e.vle (blockLen b)
/-- Too many blocks for a scale register (R135). -/
def badBlocks (b : Nat) (e : Entry) : Bool := 2048 < e.rows * blocksOf e b
/-- Entry of a scale register for element i of row r (R135, R136). -/
def blockEntry (e : Entry) (b r i : Nat) : Nat := r * blocksOf e b + i / blockLen b

/-- floor(log2 |x|) of a finite nonzero value m · 2^e. -/
def floorLog2 (m : Nat) (e : Int) : Int := e + blen m - 1

/-- The contribution of one element to its block exponent, and whether it is infinite (R37, R135). -/
def expOf (x : FVal) : Int × Bool :=
  match x with
  | .nan _ => (-128, false)
  | .inf _ => (127, true)
  | .fin _ m e => if m = 0 then (-128, false) else (min 127 (max (-127) (floorLog2 m e)), false)

/-- Smaxe of R135: one block of a row. The exponent, and the index of its first infinite element. -/
def blockExp (c : Ctx) (e : Entry) (t : Ty) (m r j len : Nat) : Int × Option Nat :=
  (List.range (min len (e.vle - j * len))).foldl (fun (x : Int × Option Nat) k =>
    let i := j * len + k
    let p := r * e.vle + i
    if c.mbit m p then
      let (v, inf) := expOf (valOf t (c.vel (e.physA + r) (tyW t) i))
      (max x.1 v, if inf then (match x.2 with | none => some p | some q => some q) else x.2)
    else x) (-128, none)

/-- Quant of R136. -/
def quant (dst : Ty) (rm : Nat) (e : Int) (x : FVal) : Nat × Nat :=
  let ex := if e = -128 then 0 else e
  let k : Int := match dst with
    | .s8 => 6
    | .s4 => 2
    | _ => 0
  let y := x.scale (k - ex)
  if tyTaper dst then roundT (taperN dst) y
  else
    let h : Int := (2 ^ (tyW dst - 1) : Nat) - 1
    match y with
    | .nan _ => (0, fCN)
    | .inf s => (patOf (tyW dst) (if s then -h else h), fSA + fNX)
    | .fin s m ex2 =>
      let (n, ix) := roundInt rm s m ex2
      let nx := if ix then fNX else 0
      if h < n || n < -h then (patOf (tyW dst) (if s then -h else h), nx + fSA)
      else (patOf (tyW dst) n, nx)

/-- Scacc of R138. It can raise OF, UF and NX alone: what else its sum meets, a signalling NaN or infinities of opposite sign, leaves
no flag. -/
def scacc (rm : Nat) (k : Int) (x d : Nat) : Nat × Nat :=
  let f := fmtOf .f32
  let v := sInt x 32
  let (t, fl) := roundF f rm (v < 0) v.natAbs k false
  let (r, fl2) := addV f rm (decodeF f d) (decodeF f t)
  (r, (fl ||| fl2) &&& (fOF ||| fUF ||| fNX))

/-- The active elements of the vs1 sweep in ascending index (R139). -/
def redEls (c : Ctx) (e : Entry) (m w : Nat) : List Nat :=
  ((List.range (e.rows * e.vle)).filter (fun p => c.mbit m p)).map (fun p => c.vel (e.physA + e.row p) w (e.pos p))

/-- A reduction into element 0 of a single-row register (R139). f gives the result and the flags from the start value. -/
def semRed (base : Nat) (flags : Bool) (d a b : BitVec 7) (px : Option Pfx)
    (f : Ty → Ctx → Entry → Nat → Nat × Nat) : VSem :=
  let t := elTy base px
  let w := tyW t
  { w := w, d := d.toNat, a := a.toNat, b := b.toNat, swept := [a.toNat], kind := .whole, flags := flags,
    whole := fun h e => do
      let c := (← get).ctx h
      let (v, fl) := f t c e (c.vel e.physB w 0)
      modify (fun s => s.modCtx h (fun c => c.setVel e.physD w 0 v))
      pure ([(fl, 0)], []) }

/-- Fold of an integer reduction. (DEDUCED, log entry 28) -/
def redInt (px : Option Pfx) (g : Ty → Nat → Nat → Nat) (t : Ty) (c : Ctx) (e : Entry) (start : Nat) : Nat × Nat :=
  ((redEls c e (pfxOf px).m.toNat (tyW t)).foldl (g t) start, 0)

/-- Fold of a float reduction in ascending index (R40). (DEDUCED, log entry 28) -/
def redFp (px : Option Pfx) (g : FFmt → Nat → Nat → Nat → Nat × Nat) (t : Ty) (c : Ctx) (e : Entry) (start : Nat) :
    Nat × Nat :=
  (redEls c e (pfxOf px).m.toNat (tyW t)).foldl (fun (x : Nat × Nat) y =>
    let (v, fl) := g (fmtOf t) e.rm x.1 y
    (v, x.2 ||| fl)) (start, 0)

/-- VFREDMAX (R139): with no active element its result is that of the start value alone, and a NaN gives the default NaN (R21).
(DEDUCED, log entry 28) -/
def redMax (px : Option Pfx) (t : Ty) (c : Ctx) (e : Entry) (start : Nat) : Nat × Nat :=
  match redEls c e (pfxOf px).m.toNat (tyW t), decodeF (fmtOf t) start with
  | [], .nan sig => nanRes (fmtOf t) sig
  | _, _ => redFp px (fun f rm x y => opF f rm .max x y) t c e start

/-- One level of the pairwise tree (R40). -/
def treeLevel (f : FFmt) (rm : Nat) : List Nat → List Nat × Nat
  | x :: y :: t =>
    let (v, fl) := opF f rm .add x y
    let (vs, fls) := treeLevel f rm t
    (v :: vs, fl ||| fls)
  | l => (l, 0)

/-- The pairwise tree of R40 over at most n levels. -/
def treeSum (f : FFmt) (rm : Nat) : Nat → List Nat → List Nat × Nat
  | 0, l => (l, 0)
  | n + 1, l =>
    let (l1, fl) := treeLevel f rm l
    let (l2, fl2) := treeSum f rm n l1
    (l2, fl ||| fl2)

/-- The smallest power of two that is at least n: its exponent. -/
def ceilLog2 (n : Nat) : Nat := if n ≤ 1 then 0 else Nat.log2 (n - 1) + 1

/-- VFREDSUMT: the tree over leaves, inactive and absent ones −0.0, then the start value (R40, R139). -/
def redTree (px : Option Pfx) (t : Ty) (c : Ctx) (e : Entry) (start : Nat) : Nat × Nat :=
  let f := fmtOf t
  let n := e.rows * e.vle
  let k := ceilLog2 n
  let leaves := (List.range (2 ^ k)).map (fun p =>
    if p < n && c.mbit (pfxOf px).m.toNat p then c.vel (e.physA + e.row p) (tyW t) (e.pos p) else f.zero true)
  let (l, fl) := treeSum f e.rm k leaves
  let (v, fl2) := opF f e.rm .add start (nth l 0)
  (v, fl ||| fl2)

/-- VCVT vd, vs1: Table 7 of R35 from the source code to the type of the prefix (R132). -/
def semVcvt (d : BitVec 7) (a : BitVec 7) (s : BitVec 4) (px : Option Pfx) : VSem :=
  let p := pfxOf px
  let t := elTy 10 px
  { semConv d a px (tyOf s) t true (fun _ e _ _ x => convert (tyOf s) t e.rm (p.sat == 1) x) with
    records := tyTaper t, ranges := fun _ h e => ([], if tyTaper t then listRange h e else []) }
/-- Meaning of VCVT: it issues to the vector queue. -/
def execVcvt (d : BitVec 7) (a : BitVec 7) (s : BitVec 4) (px : Option Pfx) (st : State) : Host.Outcome State Fault Refusal :=
  .next (issue (.vcvt d a s px) (semVcvt d a s px) st)

/-- VWIDEN vd, vs1: exact conversion to the wider type of Table 8 (R133). -/
def semVwiden (d : BitVec 7) (a : BitVec 7) (px : Option Pfx) : VSem :=
  let t := elTy 1 px
  semConv d a px t (widenTo t) true (fun _ e _ _ x => convert t (widenTo t) e.rm false x)
/-- Meaning of VWIDEN: it issues to the vector queue. -/
def execVwiden (d : BitVec 7) (a : BitVec 7) (px : Option Pfx) (s : State) : Host.Outcome State Fault Refusal :=
  .next (issue (.vwiden d a px) (semVwiden d a px) s)

/-- VNARROW vd, vs1, rs2: shift right by k with rounding, to half the width (R134). -/
def semVnarrow (d : BitVec 7) (a : BitVec 7) (b : BitVec 7) (px : Option Pfx) : VSem :=
  let p := pfxOf px
  let t := elTy 2 px
  { semConv d a px t (narrowTo t) true (fun _ e _ _ x => narrow t e.rm (p.sat == 1) (e.opB.toNat % 64) x) with
    b := b.toNat, bad := fun e => tyW t ≤ e.opB.toNat % 64 }
/-- Meaning of VNARROW: it issues to the vector queue. -/
def execVnarrow (d : BitVec 7) (a : BitVec 7) (b : BitVec 7) (px : Option Pfx) (s : State) : Host.Outcome State Fault Refusal :=
  .next (issue (.vnarrow d a b px) (semVnarrow d a b px) s)

/-- SMAXE cd, vs1, b: block exponents into a scale register (R135). -/
def semSmaxe (d : BitVec 7) (a : BitVec 7) (b : BitVec 3) (px : Option Pfx) : VSem :=
  let p := pfxOf px
  let t := elTy 10 px
  { w := tyW t, d := d.toNat, a := a.toNat, swept := [a.toNat], bad := badBlocks b.toNat, kind := .whole, flags := true,
    whole := fun h e => do
      let c := (← get).ctx h
      let nb := blocksOf e b.toNat
      let es := (List.range (e.rows * nb)).map (fun k =>
        (k, blockExp c e t p.m.toNat (k / nb) (k % nb) (blockLen b.toNat)))
      modify (fun s => s.modCtx h (fun c => es.foldl (fun c x => c.setScale d.toNat x.1 x.2.1) c))
      pure (es.filterMap (fun x => x.2.2.map (fun q => (fSA, q))), []) }
/-- Meaning of SMAXE: it issues to the vector queue. -/
def execSmaxe (d : BitVec 7) (a : BitVec 7) (b : BitVec 3) (px : Option Pfx) (s : State) : Host.Outcome State Fault Refusal :=
  .next (issue (.smaxe d a b px) (semSmaxe d a b px) s)

/-- VQUANT vd, vs1, c, b: quantise by block exponents (R136). x selects BF16 as the source. -/
def semVquant (d : BitVec 7) (a : BitVec 7) (b : BitVec 3) (c : BitVec 3) (x : BitVec 1) (px : Option Pfx) : VSem :=
  let t := elTy 12 px
  let src : Ty := if x = 1 then .b16 else .f32
  { semConv d a px src t true (fun k e r i y =>
      quant t e.rm (k.scale c.toNat (blockEntry e b.toNat r i)) (valOf src y)) with
    bad := badBlocks b.toNat, records := true, ranges := fun _ h e => ([], listRange h e) }
/-- Meaning of VQUANT: it issues to the vector queue. -/
def execVquant (d : BitVec 7) (a : BitVec 7) (b : BitVec 3) (c : BitVec 3) (x : BitVec 1) (px : Option Pfx) (s : State) : Host.Outcome State Fault Refusal :=
  .next (issue (.vquant d a b c x px) (semVquant d a b c x px) s)

/-- VSCALE vd, vs1, c, b, dir: multiply by a block power of two (R137). x is dir. -/
def semVscale (d : BitVec 7) (a : BitVec 7) (b : BitVec 3) (c : BitVec 3) (x : BitVec 1) (px : Option Pfx) : VSem :=
  let t := elTy 10 px
  { semConv d a px t t true (fun k e r i y =>
      let ex := k.scale c.toNat (blockEntry e b.toNat r i)
      let v := (valOf t y).scale (if x = 1 then -ex else ex)
      match v with
      | .nan sig => nanRes (fmtOf t) sig
      | .inf s => ((fmtOf t).inf s, 0)
      | .fin s m ee => roundF (fmtOf t) e.rm s m ee false) with bad := badBlocks b.toNat }
/-- Meaning of VSCALE: it issues to the vector queue. -/
def execVscale (d : BitVec 7) (a : BitVec 7) (b : BitVec 3) (c : BitVec 3) (x : BitVec 1) (px : Option Pfx) (s : State) : Host.Outcome State Fault Refusal :=
  .next (issue (.vscale d a b c x px) (semVscale d a b c x px) s)

/-- VSCACC vd, vs1, ca, cb: scale S32 sums into F32 accumulators (R138). c is ca, e is cb. -/
def semVscacc (d : BitVec 7) (a : BitVec 7) (e : BitVec 3) (c : BitVec 3) (px : Option Pfx) : VSem :=
  { semConv d a px .s32 .f32 true (fun k en r i y =>
      scacc en.rm (k.scale c.toNat r + k.scale e.toNat i - 14) y (k.vel (en.physD + r) 32 i)) with
    bad := fun en => 2048 < en.rows || 2048 < en.vle }
/-- Meaning of VSCACC: it issues to the vector queue. -/
def execVscacc (d : BitVec 7) (a : BitVec 7) (e : BitVec 3) (c : BitVec 3) (px : Option Pfx) (s : State) : Host.Outcome State Fault Refusal :=
  .next (issue (.vscacc d a e c px) (semVscacc d a e c px) s)

/-- VREDSUM: (start + Σ active) mod 2^w (R139). -/
def semVredsum (d : BitVec 7) (a : BitVec 7) (b : BitVec 7) (px : Option Pfx) : VSem :=
  semRed 2 false d a b px (redInt px (fun t x y => (x + y) % 2 ^ tyW t))
/-- Meaning of VREDSUM: it issues to the vector queue. -/
def execVredsum (d : BitVec 7) (a : BitVec 7) (b : BitVec 7) (px : Option Pfx) (s : State) : Host.Outcome State Fault Refusal :=
  .next (issue (.vredsum d a b px) (semVredsum d a b px) s)

/-- VREDMIN: the smallest by Int (R139). -/
def semVredmin (d : BitVec 7) (a : BitVec 7) (b : BitVec 7) (px : Option Pfx) : VSem :=
  semRed 2 false d a b px (redInt px (fun t x y => if intOf t y < intOf t x then y else x))
/-- Meaning of VREDMIN: it issues to the vector queue. -/
def execVredmin (d : BitVec 7) (a : BitVec 7) (b : BitVec 7) (px : Option Pfx) (s : State) : Host.Outcome State Fault Refusal :=
  .next (issue (.vredmin d a b px) (semVredmin d a b px) s)

/-- VREDMAX: the largest by Int (R139). -/
def semVredmax (d : BitVec 7) (a : BitVec 7) (b : BitVec 7) (px : Option Pfx) : VSem :=
  semRed 2 false d a b px (redInt px (fun t x y => if intOf t x < intOf t y then y else x))
/-- Meaning of VREDMAX: it issues to the vector queue. -/
def execVredmax (d : BitVec 7) (a : BitVec 7) (b : BitVec 7) (px : Option Pfx) (s : State) : Host.Outcome State Fault Refusal :=
  .next (issue (.vredmax d a b px) (semVredmax d a b px) s)

/-- VFREDSUM: start, then the active elements in ascending index, each sum rounded in rm (R40) (R139). -/
def semVfredsum (d : BitVec 7) (a : BitVec 7) (b : BitVec 7) (px : Option Pfx) : VSem :=
  semRed 10 true d a b px (redFp px (fun f rm x y => opF f rm .add x y))
/-- Meaning of VFREDSUM: it issues to the vector queue. -/
def execVfredsum (d : BitVec 7) (a : BitVec 7) (b : BitVec 7) (px : Option Pfx) (s : State) : Host.Outcome State Fault Refusal :=
  .next (issue (.vfredsum d a b px) (semVfredsum d a b px) s)

/-- VFREDSUMT: pairwise tree (R40) (R139). -/
def semVfredsumt (d : BitVec 7) (a : BitVec 7) (b : BitVec 7) (px : Option Pfx) : VSem :=
  semRed 10 true d a b px (redTree px)
/-- Meaning of VFREDSUMT: it issues to the vector queue. -/
def execVfredsumt (d : BitVec 7) (a : BitVec 7) (b : BitVec 7) (px : Option Pfx) (s : State) : Host.Outcome State Fault Refusal :=
  .next (issue (.vfredsumt d a b px) (semVfredsumt d a b px) s)

/-- VFREDMAX: maximumNumber in ascending index (R139). -/
def semVfredmax (d : BitVec 7) (a : BitVec 7) (b : BitVec 7) (px : Option Pfx) : VSem :=
  semRed 10 true d a b px (redMax px)
/-- Meaning of VFREDMAX: it issues to the vector queue. -/
def execVfredmax (d : BitVec 7) (a : BitVec 7) (b : BitVec 7) (px : Option Pfx) (s : State) : Host.Outcome State Fault Refusal :=
  .next (issue (.vfredmax d a b px) (semVfredmax d a b px) s)

end Sys2Proof.Machine
end

