-- ==== Sys2Proof/Machine/VectorPerm.lean ====
section
/-! DEFINITION. Permutations, queue access, and SETVL: majors 0x4B to 0x4F (R126, R140 to R145). -/

namespace Sys2Proof.Machine

/-- Overlap of the destination sweep with the first source, and with the second where there is one (R122). -/
def badPerm (two : Bool) (e : Entry) : Bool :=
  regOverlap e.physD e.rows e.physA e.rows || (two && regOverlap e.physD e.rows e.physB e.rows)

/-- A permutation through Elementwise (R140): f gives the value of element i of row r, or none where it is not written. -/
def permute (p : Pfx) (w : Nat) (f : Ctx → Entry → Nat → Nat → Nat → Option Nat) (h : Nat) (e : Entry) :
    M (List (Nat × Nat) × List Nat) := do
  let c0 := (← get).ctx h
  let c1 := (List.range (e.rows * e.vle)).foldl (fun (c : Ctx) k =>
    let r := e.row k
    let i := e.pos k
    match if c0.mbit p.m.toNat k then f c0 e r i k else none with
    | some v => c.setVel (e.physD + r) w i v
    | none => if p.pol = 1 then c.setVel (e.physD + r) w i 0 else c) c0
  modify (fun s => s.setCtx h c1)
  pure ([], [])

/-- A permutation of one vector source. -/
def semPerm (d a b : BitVec 7) (px : Option Pfx) (swept : List Nat) (bad : Entry → Bool)
    (f : Nat → Ctx → Entry → Nat → Nat → Nat → Option Nat) : VSem :=
  let w := tyW (elTy 6 px)
  { w := w, d := d.toNat, a := a.toNat, b := b.toNat, swept := swept, bad := bad, kind := .whole,
    whole := permute (pfxOf px) w (f w) }

/-- Number of active elements of row r below element i (R140, R143). -/
def activeBelow (c : Ctx) (e : Entry) (m r i : Nat) : Nat :=
  (List.range i).countP (fun j => c.mbit m (r * e.vle + j))

/-- Reshape of R141: the sweep as a sequence, transposed with row length l. -/
def reshape (c : Ctx) (e : Entry) (w l : Nat) : Ctx :=
  let n := e.rows * e.vle
  let m := n / l
  (List.range n).foldl (fun (k : Ctx) x =>
    let a := x / l
    let b := x % l
    let q := b * m + a
    k.setVel (e.physD + q / e.vle) w (q % e.vle) (c.vel (e.physA + x / e.vle) w (x % e.vle))) c

/-- One element of Compress of R142. -/
def compressStep (p : Pfx) (w : Nat) (h : Nat) (e : Entry) : M (Entry × List (Nat × Nat) × Bool) := do
  let c := (← get).ctx h
  let a := e.progA.toNat
  let k := e.progB.toNat
  let n := e.rows * e.vle
  if n ≤ a then pure (e, [], true)
  else
    let r := e.row a
    let act := c.mbit p.m.toNat a
    let c := if act then c.setVel (e.physD + r) w k (c.vel (e.physA + r) w (e.pos a)) else c
    let k := if act then k + 1 else k
    let last := (a + 1) % e.vle == 0
    let c := if last && p.pol = 1 then
        (List.range (e.vle - k)).foldl (fun (c : Ctx) j => c.setVel (e.physD + r) w (k + j) 0) c
      else c
    modify (fun s => s.setCtx h c)
    pure ({ e with progA := w64 (a + 1), progB := w64 (if last then 0 else k), estart := min 0xFFFF (a + 1) },
      [], n ≤ a + 1)

/-- SetVL of R126. -/
def setVl (req rq : Nat) (code : BitVec 4) (d len : Nat) (h : Nat) (s : State) : State :=
  let vl := min req (s.maxvl (coreOf h) * 8 / tyW (tyOf code))
  let rows := if 8 ≤ rq then 8 else if 4 ≤ rq then 4 else if 2 ≤ rq then 2 else 1
  (s.modCtx h (fun c => { c with vl := vl, rows := rows }.setS d (w64 vl))).finish h len

/-- VPERM vd, vs1, vs2 (R140). -/
def semVperm (d : BitVec 7) (a : BitVec 7) (b : BitVec 7) (px : Option Pfx) : VSem :=
  semPerm d a b px [d.toNat, a.toNat, b.toNat] (badPerm true) (fun w c e r i _ =>
    let j := bsrc .vec c (pfxOf px) e w r i
    some (if j < e.vle then c.vel (e.physA + r) w j else 0))
/-- Meaning of VPERM: it issues to the vector queue. -/
def execVperm (d : BitVec 7) (a : BitVec 7) (b : BitVec 7) (px : Option Pfx) (s : State) : Host.Outcome State Fault Refusal :=
  .next (issue (.vperm d a b px) (semVperm d a b px) s)

/-- VSLIDEUP vd, vs1, rs2 (R140). -/
def semVslideup (d : BitVec 7) (a : BitVec 7) (b : BitVec 7) (px : Option Pfx) : VSem :=
  semPerm d a b px [d.toNat, a.toNat] (badPerm false) (fun w c e r i _ =>
    if e.opB.toNat ≤ i then some (c.vel (e.physA + r) w (i - e.opB.toNat)) else none)
/-- Meaning of VSLIDEUP: it issues to the vector queue. -/
def execVslideup (d : BitVec 7) (a : BitVec 7) (b : BitVec 7) (px : Option Pfx) (s : State) : Host.Outcome State Fault Refusal :=
  .next (issue (.vslideup d a b px) (semVslideup d a b px) s)

/-- VSLIDEDN vd, vs1, rs2 (R140). -/
def semVslidedn (d : BitVec 7) (a : BitVec 7) (b : BitVec 7) (px : Option Pfx) : VSem :=
  semPerm d a b px [d.toNat, a.toNat] (badPerm false) (fun w c e r i _ =>
    some (if i + e.opB.toNat < e.vle then c.vel (e.physA + r) w (i + e.opB.toNat) else 0))
/-- Meaning of VSLIDEDN: it issues to the vector queue. -/
def execVslidedn (d : BitVec 7) (a : BitVec 7) (b : BitVec 7) (px : Option Pfx) (s : State) : Host.Outcome State Fault Refusal :=
  .next (issue (.vslidedn d a b px) (semVslidedn d a b px) s)

/-- VREV vd, vs1 (R140). -/
def semVrev (d : BitVec 7) (a : BitVec 7) (px : Option Pfx) : VSem :=
  semPerm d a 0 px [d.toNat, a.toNat] (badPerm false) (fun w c e r i _ =>
    some (c.vel (e.physA + r) w (e.vle - 1 - i)))
/-- Meaning of VREV: it issues to the vector queue. -/
def execVrev (d : BitVec 7) (a : BitVec 7) (px : Option Pfx) (s : State) : Host.Outcome State Fault Refusal :=
  .next (issue (.vrev d a px) (semVrev d a px) s)

/-- VBCAST vd, rs1 (R140). -/
def semVbcast (d : BitVec 7) (a : BitVec 7) (px : Option Pfx) : VSem :=
  semPerm d a 0 px [d.toNat] (fun _ => false) (fun w _ e _ _ _ => some (e.opA.toNat % 2 ^ w))
/-- Meaning of VBCAST: it issues to the vector queue. -/
def execVbcast (d : BitVec 7) (a : BitVec 7) (px : Option Pfx) (s : State) : Host.Outcome State Fault Refusal :=
  .next (issue (.vbcast d a px) (semVbcast d a px) s)

/-- VIOTA vd: number of active elements below i in its row (R140). -/
def semViota (d : BitVec 7) (px : Option Pfx) : VSem :=
  semPerm d 0 0 px [d.toNat] (fun _ => false) (fun w c e r i _ =>
    some (activeBelow c e (pfxOf px).m.toNat r i % 2 ^ w))
/-- Meaning of VIOTA: it issues to the vector queue. -/
def execViota (d : BitVec 7) (px : Option Pfx) (s : State) : Host.Outcome State Fault Refusal :=
  .next (issue (.viota d px) (semViota d px) s)

/-- VMERGE vd, vs1, vs2: every element is written, from vs2 where the mask bit is set (R140). -/
def mergeAll (p : Pfx) (w : Nat) (h : Nat) (e : Entry) : M (List (Nat × Nat) × List Nat) := do
  let c0 := (← get).ctx h
  let c1 := (List.range (e.rows * e.vle)).foldl (fun (c : Ctx) k =>
    let r := e.row k
    let i := e.pos k
    c.setVel (e.physD + r) w i (c0.vel ((if c0.mbit p.m.toNat k then e.physB else e.physA) + r) w i)) c0
  modify (fun s => s.setCtx h c1)
  pure ([], [])

/-- VMERGE vd, vs1, vs2 (R140). -/
def semVmerge (d : BitVec 7) (a : BitVec 7) (b : BitVec 7) (px : Option Pfx) : VSem :=
  let w := tyW (elTy 6 px)
  { w := w, d := d.toNat, a := a.toNat, b := b.toNat, swept := [d.toNat, a.toNat, b.toNat], kind := .whole,
    whole := mergeAll (pfxOf px) w }
/-- Meaning of VMERGE: it issues to the vector queue. -/
def execVmerge (d : BitVec 7) (a : BitVec 7) (b : BitVec 7) (px : Option Pfx) (s : State) : Host.Outcome State Fault Refusal :=
  .next (issue (.vmerge d a b px) (semVmerge d a b px) s)

/-- VRESHAPE vd, vs1, rs2: transpose the sweep; NV when the length does not divide it (R141). -/
def semVreshape (d : BitVec 7) (a : BitVec 7) (b : BitVec 7) (px : Option Pfx) : VSem :=
  let w := tyW (elTy 6 px)
  { w := w, d := d.toNat, a := a.toNat, b := b.toNat, swept := [d.toNat, a.toNat], bad := badPerm false,
    kind := .whole, flags := true,
    whole := fun h e => do
      let l := e.opB.toNat
      if l = 0 || e.rows * e.vle % l ≠ 0 then pure ([(fNV, 0)], [])
      else do
        modify (fun s => s.setCtx h (reshape (s.ctx h) e w l))
        pure ([], []) }
/-- Meaning of VRESHAPE: it issues to the vector queue. -/
def execVreshape (d : BitVec 7) (a : BitVec 7) (b : BitVec 7) (px : Option Pfx) (s : State) : Host.Outcome State Fault Refusal :=
  .next (issue (.vreshape d a b px) (semVreshape d a b px) s)

/-- VCOMPRESS vd, vs1: pack the active elements of each row (R142). -/
def semVcompress (d : BitVec 7) (a : BitVec 7) (px : Option Pfx) : VSem :=
  let w := tyW (elTy 6 px)
  { w := w, d := d.toNat, a := a.toNat, swept := [d.toNat, a.toNat], bad := badPerm false, kind := .progress,
    prog := compressStep (pfxOf px) w }
/-- Meaning of VCOMPRESS: it issues to the vector queue. -/
def execVcompress (d : BitVec 7) (a : BitVec 7) (px : Option Pfx) (s : State) : Host.Outcome State Fault Refusal :=
  .next (issue (.vcompress d a px) (semVcompress d a px) s)

/-- VEXPAND vd, vs1: the n-th active element of a row receives element n (R143). -/
def semVexpand (d : BitVec 7) (a : BitVec 7) (px : Option Pfx) : VSem :=
  semPerm d a 0 px [d.toNat, a.toNat] (badPerm false) (fun w c e r i _ =>
    some (c.vel (e.physA + r) w (activeBelow c e (pfxOf px).m.toNat r i)))
/-- Meaning of VEXPAND: it issues to the vector queue. -/
def execVexpand (d : BitVec 7) (a : BitVec 7) (px : Option Pfx) (s : State) : Host.Outcome State Fault Refusal :=
  .next (issue (.vexpand d a px) (semVexpand d a px) s)

/-- VEXTRACT sd, vs1, rs2 (R143). -/
def semVextract (d : BitVec 7) (a : BitVec 7) (b : BitVec 7) (px : Option Pfx) : VSem :=
  let t := elTy 6 px
  { w := tyW t, d := d.toNat, a := a.toNat, b := b.toNat, sdst := true, kind := .whole,
    whole := fun h e => do
      let c := (← get).ctx h
      let x := if e.opB.toNat < e.vle then c.vel e.physA (tyW t) e.opB.toNat else 0
      modify (fun s => s.modCtx h (fun c => c.setP e.physD (if tySigned t then sext64 x (tyW t) else w64 x)))
      pure ([], []) }
/-- Meaning of VEXTRACT: it issues to the vector queue. -/
def execVextract (d : BitVec 7) (a : BitVec 7) (b : BitVec 7) (px : Option Pfx) (s : State) : Host.Outcome State Fault Refusal :=
  .next (issue (.vextract d a b px) (semVextract d a b px) s)

/-- VINSERT vd, rs1, rs2 (R143). -/
def semVinsert (d : BitVec 7) (a : BitVec 7) (b : BitVec 7) (px : Option Pfx) : VSem :=
  let w := tyW (elTy 6 px)
  { w := w, d := d.toNat, a := a.toNat, b := b.toNat, kind := .whole,
    whole := fun h e => do
      if e.opB.toNat < e.vle then
        modify (fun s => s.modCtx h (fun c => c.setVel e.physD w e.opB.toNat (e.opA.toNat % 2 ^ w)))
      pure ([], []) }
/-- Meaning of VINSERT: it issues to the vector queue. -/
def execVinsert (d : BitVec 7) (a : BitVec 7) (b : BitVec 7) (px : Option Pfx) (s : State) : Host.Outcome State Fault Refusal :=
  .next (issue (.vinsert d a b px) (semVinsert d a b px) s)

/-- VQPOP vd, q: whole rows from a queue register (R144, R145). An element that begins a queue entry takes it with the rest of its elements;
of a row whose VLe is no multiple of the entry's elements, ESTART is the first element of an entry (DESIGN CHOICE, log entry 67). -/
def semVqpop (d : BitVec 7) (q : BitVec 7) (px : Option Pfx) : VSem :=
  let p := pfxOf px
  let w := tyW (elTy 7 px)
  { w := w, d := d.toNat, swept := [d.toNat], queues := [q.toNat],
    elem := fun h e k => do
      let n := 64 / w
      let i := e.pos k
      if i % n ≠ 0 then pure 0
      else do
        let v ← popQueue h q.toNat
        modify (fun s => s.modCtx h (fun c => (List.range (min n (e.vle - i))).foldl (fun (c : Ctx) j =>
          if c.mbit p.m.toNat (k + j) then c.setVel (e.physD + e.row k) w (i + j) (bits v.toNat (w * j + w - 1) (w * j))
          else if p.pol = 1 then c.setVel (e.physD + e.row k) w (i + j) 0 else c) c))
        pure 0 }
/-- Meaning of VQPOP: it issues to the vector queue. -/
def execVqpop (d : BitVec 7) (q : BitVec 7) (px : Option Pfx) (s : State) : Host.Outcome State Fault Refusal :=
  .next (issue (.vqpop d q px) (semVqpop d q px) s)

/-- VQPUSH q, vs1: whole rows to a queue register (R144, R145); ESTART as for VQPOP (DESIGN CHOICE, log entry 67). -/
def semVqpush (q : BitVec 7) (a : BitVec 7) (px : Option Pfx) : VSem :=
  let w := tyW (elTy 7 px)
  { w := w, a := a.toNat, swept := [a.toNat], queues := [q.toNat],
    elem := fun h e k => do
      let n := 64 / w
      let i := e.pos k
      if i % n ≠ 0 then pure 0
      else do
        let c := (← get).ctx h
        let v := (List.range (min n (e.vle - i))).foldl (fun x j =>
          x + c.vel (e.physA + e.row k) w (i + j) * 2 ^ (w * j)) 0
        pushQueue h q.toNat (w64 v)
        pure 0 }
/-- Meaning of VQPUSH: it issues to the vector queue. -/
def execVqpush (q : BitVec 7) (a : BitVec 7) (px : Option Pfx) (s : State) : Host.Outcome State Fault Refusal :=
  .next (issue (.vqpush q a px) (semVqpush q a px) s)

/-- Meaning of SETVL rd, rs1, rs2, type (R126): at the scalar unit. A P word before it, with every field at its unused value,
makes the pair 8 bytes long. -/
def execSetvl (d : BitVec 7) (a : BitVec 7) (b : BitVec 7) (t : BitVec 4) (px : Option Pfx) (s : State) :
    Host.Outcome State Fault Refusal :=
  let c := s.ctx s.cur
  .next (setVl (c.getS a.toNat).toNat (c.getS b.toNat).toNat t d.toNat (pxLen px) s.cur s)

/-- Meaning of SETVLI rd, rs1, type, rows (R126). -/
def execSetvli (d : BitVec 7) (a : BitVec 7) (r : BitVec 2) (t : BitVec 4) (px : Option Pfx) (s : State) :
    Host.Outcome State Fault Refusal :=
  .next (setVl ((s.ctx s.cur).getS a.toNat).toNat (2 ^ r.toNat) t d.toNat (pxLen px) s.cur s)

end Sys2Proof.Machine
end

