-- ==== Sys2Proof/Machine/Sequencer.lean ====
section
/-! DEFINITION. The chaining sequencer: what a queue entry does, read back from its word (R47, R70), the beats of the lane
groups (R49 to R51), and the stops of a hart that holds queued work (R59, R64). -/

namespace Sys2Proof.Machine

/-- How an instruction of the vector queue runs. -/
def semOf (i : Instr) : VSem :=
  match i with
  | .vadd d a b px => semVadd d a b px
  | .vsub d a b px => semVsub d a b px
  | .vand d a b px => semVand d a b px
  | .vor d a b px => semVor d a b px
  | .vxor d a b px => semVxor d a b px
  | .vmin d a b px => semVmin d a b px
  | .vmax d a b px => semVmax d a b px
  | .vsadd d a b px => semVsadd d a b px
  | .vssub d a b px => semVssub d a b px
  | .vaddScalar d a b px => semVaddScalar d a b px
  | .vsubScalar d a b px => semVsubScalar d a b px
  | .vandScalar d a b px => semVandScalar d a b px
  | .vorScalar d a b px => semVorScalar d a b px
  | .vxorScalar d a b px => semVxorScalar d a b px
  | .vminScalar d a b px => semVminScalar d a b px
  | .vmaxScalar d a b px => semVmaxScalar d a b px
  | .vsaddScalar d a b px => semVsaddScalar d a b px
  | .vssubScalar d a b px => semVssubScalar d a b px
  | .vmul d a b px => semVmul d a b px
  | .vmulh d a b px => semVmulh d a b px
  | .vmacc d a b px => semVmacc d a b px
  | .vsll d a b px => semVsll d a b px
  | .vsrl d a b px => semVsrl d a b px
  | .vsra d a b px => semVsra d a b px
  | .vclz d a px => semVclz d a px
  | .vpopc d a px => semVpopc d a px
  | .vmulScalar d a b px => semVmulScalar d a b px
  | .vmulhScalar d a b px => semVmulhScalar d a b px
  | .vmaccScalar d a b px => semVmaccScalar d a b px
  | .vsllScalar d a b px => semVsllScalar d a b px
  | .vsrlScalar d a b px => semVsrlScalar d a b px
  | .vsraScalar d a b px => semVsraScalar d a b px
  | .vfadd d a b px => semVfadd d a b px
  | .vfsub d a b px => semVfsub d a b px
  | .vfmul d a b px => semVfmul d a b px
  | .vfma d a b px => semVfma d a b px
  | .vfnma d a b px => semVfnma d a b px
  | .vfdiv d a b px => semVfdiv d a b px
  | .vfsqrt d a px => semVfsqrt d a px
  | .vfmin d a b px => semVfmin d a b px
  | .vfmax d a b px => semVfmax d a b px
  | .vfclass d a px => semVfclass d a px
  | .vfaddScalar d a b px => semVfaddScalar d a b px
  | .vfsubScalar d a b px => semVfsubScalar d a b px
  | .vfmulScalar d a b px => semVfmulScalar d a b px
  | .vfmaScalar d a b px => semVfmaScalar d a b px
  | .vfnmaScalar d a b px => semVfnmaScalar d a b px
  | .vfdivScalar d a b px => semVfdivScalar d a b px
  | .vfminScalar d a b px => semVfminScalar d a b px
  | .vfmaxScalar d a b px => semVfmaxScalar d a b px
  | .vcmp d a b c px => semVcmp d a b c px
  | .vfcmpEq d a b px => semVfcmpEq d a b px
  | .vfcmpNe d a b px => semVfcmpNe d a b px
  | .vfcmpLt d a b px => semVfcmpLt d a b px
  | .vfcmpLe d a b px => semVfcmpLe d a b px
  | .vfcmpUn d a b px => semVfcmpUn d a b px
  | .mand d a b px => semMand d a b px
  | .mor d a b px => semMor d a b px
  | .mxor d a b px => semMxor d a b px
  | .mandn d a b px => semMandn d a b px
  | .mpopc d a px => semMpopc d a px
  | .mfirst d a px => semMfirst d a px
  | .mset d a px => semMset d a px
  | .vcvt d a s px => semVcvt d a s px
  | .vwiden d a px => semVwiden d a px
  | .vnarrow d a b px => semVnarrow d a b px
  | .vquant d a b c x px => semVquant d a b c x px
  | .smaxe d a b px => semSmaxe d a b px
  | .vscacc d a e c px => semVscacc d a e c px
  | .vscale d a b c x px => semVscale d a b c x px
  | .vredsum d a b px => semVredsum d a b px
  | .vredmin d a b px => semVredmin d a b px
  | .vredmax d a b px => semVredmax d a b px
  | .vfredsum d a b px => semVfredsum d a b px
  | .vfredsumt d a b px => semVfredsumt d a b px
  | .vfredmax d a b px => semVfredmax d a b px
  | .vperm d a b px => semVperm d a b px
  | .vslideup d a b px => semVslideup d a b px
  | .vslidedn d a b px => semVslidedn d a b px
  | .vrev d a px => semVrev d a px
  | .vbcast d a px => semVbcast d a px
  | .viota d px => semViota d px
  | .vmerge d a b px => semVmerge d a b px
  | .vreshape d a b px => semVreshape d a b px
  | .vcompress d a px => semVcompress d a px
  | .vexpand d a px => semVexpand d a px
  | .vextract d a b px => semVextract d a b px
  | .vinsert d a b px => semVinsert d a b px
  | .vqpop d q px => semVqpop d q px
  | .vqpush q a px => semVqpush q a px
  | .vld d a i px => semVld d a i px
  | .vlds d a b px => semVlds d a b px
  | .vldx d a b m px => semVldx d a b m px
  | .vst s a i px => semVst s a i px
  | .vsts s a b px => semVsts s a b px
  | .vstx s a b m px => semVstx s a b m px
  | .vldw d a k px => semVldw d a k px
  | .vamo d a b o px => semVamo d a b o px
  | .cpy c a => semCpy c a
  | .sstr q a b s => semSstr q a b s
  | .sclose s => semSclose s
  | .istr k a => semIstr k a
  | .est v a b => semEst v a b
  | .eaddS32 v a b => semEaddS32 v a b
  | .eaddF32 v a b => semEaddF32 v a b
  | .fld d a b px => semFld d a b px
  | .fst d a px => semFst d a px
  | .fwalk d a b px => semFwalk d a b px
  | .fsort d a o px => semFsort d a o px
  | .fisect d a b o px => semFisect d a b o px
  | .fisectc d a b px => semFisectc d a b px
  | .funion d a b o px => semFunion d a b o px
  | .fmerge d a k o px => semFmerge d a k o px
  | .fcompact d a px => semFcompact d a px
  | .fexpand d a b px => semFexpand d a b px
  | .fgather d a b px => semFgather d a b px
  | .fslice d a b px => semFslice d a b px
  | .fmap d a b o px => semFmap d a b o px
  | .fcfg f a px => semFcfg f a px
  | .fclr f px => semFclr f px
  | .flenr d f px => semFlenr d f px
  | .mtload c a b t px => semMtload c a b t px
  | .mtzero t px => semMtzero t px
  | .mrow v a c t px => semMrow v a c t px
  | .mrowg f a c t px => semMrowg f a c t px
  | .mdrain d a px => semDrain false d a px
  | .mdrainKeep d a px => semDrain true d a px
  | .mclr a px => semMclr a px
  | .mstatRow d a px => semMstatRow d a px
  | .mstatSlot d a px => semMstatSlot d a px
  | .fence s o _ => semFenceVV s.toNat o.toNat
  | _ => { w := 8, kind := .whole }

/-- How a row of majors 0x7A and 0x7B runs. -/
def semLate (pre : Option (BitVec 32)) (w : BitVec 32) : VSem :=
  let px := pre.map pfxFields
  let d : BitVec 7 := BitVec.ofNat 7 (bits w.toNat 13 7)
  let a : BitVec 7 := BitVec.ofNat 7 (bits w.toNat 20 14)
  match w.toNat % 128, w.toNat / 2 ^ 28 with
  | 0x7A, 0 => semDrain false d a px
  | 0x7A, 1 => semDrain true d a px
  | 0x7A, _ => semMclr a px
  | _, 0 => semMstatRow d a px
  | _, _ => semMstatSlot d a px

/-- How a queue entry runs, from its word and its P word (R70). -/
def Entry.sem (e : Entry) : VSem :=
  if isLate e.word then semLate e.pre e.word
  else match decodePairEarly e.pre e.word with
    | some i => semOf i
    | none => { w := 8, kind := .whole }

/-- Queue registers an entry names (R101, R145, R213). An SCLOSE names the destination of the stream it closes. -/
def State.entryQueues (s : State) (h : Nat) (e : Entry) : List Nat :=
  if e.major = 0x6D && 4 ≤ e.func4 then
    match ((s.ctx h).vq.filter (fun x => x.id < e.id && x.major == 0x6D && x.func4 + 4 == e.func4)).getLast? with
    | some x => [x.fieldD]
    | none =>
      let st := (s.core (coreOf h)).stream (e.func4 - 4)
      if st.owner.any (fun o => o.1 == h && some o.2 == (s.hart h).task) then [st.q] else []
  else e.sem.queues

/-- The scalar register an entry writes when it completes (R48). -/
def Entry.sdest (e : Entry) : Option Nat := if e.sem.sdst then some e.physD else none

/-! ### Stops -/

/-- At a freeze each lane group commits what it has computed of one entry (R64). (DEDUCED, log entry 52) -/
def State.flushEntry (s : State) (h : Nat) (e : Entry) : State :=
  if e.kind ≠ .elem || !e.begun then s
  else
    let els := e.left.filter (fun p => p < e.laneReach (e.lane p))
    let (done, e, s) := runFlush e.sem h ((s.ctx h).vq.takeWhile (·.id ≠ e.id)) els [] e s
    let left := e.left.filter (fun p => !done.contains p)
    s.putEntry h { e with estart := left.headD e.total, hard := e.pointers left }

/-- Commit the held-back elements of every entry of a hart but that of the access that caused the freeze, oldest first (R64). -/
def State.flush (s : State) (h : Nat) (but : Option Nat) : State :=
  (s.ctx h).vq.foldl (fun s e => if but = some e.id then s else s.flushEntry h e) s

/-- The stop of a hart at one of its entries: a freeze commits what the lane groups hold of the others (R64, R197). -/
def State.stopAt (s : State) (h : Nat) (e : Entry) (st : Stop) : State :=
  match st with
  | .freeze _ _ _ => (s.flush h (some e.id)).stopEntry h e st
  | _ => s.stopEntry h e st

/-! ### The oldest entry -/

/-- Run the oldest entry of a hart as far as it goes. -/
def State.runOldest (s : State) (h : Nat) : State :=
  match (s.ctx h).vq with
  | [] => s
  | e :: _ =>
    match runFirst e.sem h e s with
    | (s, none) => s
    | (s, some st) => s.stopAt h e st

/-! ### Beats (R49 to R51) -/

/-- Does an entry that has begun go on with commits of its own as its sweep is read: VCOMPRESS (R142). -/
def Entry.stepwise (e : Entry) : Bool := e.kind == .progress && e.sweeps

/-- The oldest entries of a hart complete, n at most: divisible ones with no element left, and those whose sweep the lane groups have
read; instructions complete in program order (R67). -/
def State.retireDone (s : State) (h : Nat) : Nat → State
  | 0 => s
  | n + 1 =>
    match (s.ctx h).vq with
    | [] => s
    | e :: _ =>
      if !e.begun then s
      else if e.kind = .elem then
        if e.estart = e.total then (s.retire h e.sem e).retireDone h n else s
      else if e.stepwise then
        (match runProg e.sem h (if e.positions.isEmpty then 1 else e.computed.length) e s with
        | (e, s, none, true) => (s.retire h e.sem e).retireDone h n
        | (e, s, none, false) => s.putEntry h e
        | (e, s, some st, _) => (s.putEntry h e).stopAt h e st)
      else if (e.maskOp || e.sweeps || e.major == 0x7A || e.major == 0x7B) && e.taken then
        (match finishWhole e.sem h e s with
        | (s, none) => s.retireDone h n
        | (s, some st) => s.stopAt h e st)
      else s

/-- After commits of an entry: it is put back, and its hart stops, or its oldest entries retire. -/
def State.afterBeat (s : State) (h : Nat) (e : Entry) (st : Option Stop) : State :=
  let s := s.putEntry h e
  match st with
  | none => s.retireDone h (s.ctx h).vq.length
  | some .block => s.retireDone h (s.ctx h).vq.length
  | some r => s.stopAt h e r

/-- What a beat has done, and whether a lane group has served the hart: FENCE and the matrix instructions without element groups take
none (R51, R253). -/
structure Grant where
  state : State
  served : Bool

/-- Elements of a fibre instruction that one grant of all lane groups carries: 4W pairs (R274). -/
def Entry.pairRate (e : Entry) : Nat := 4 * e.width

/-- One grant of every working lane group for the oldest entry, an instruction of the fibre unit (R274); and the turn of a FENCE, which
takes no lane group. -/
def State.beatAlone (s : State) (h : Nat) (e0 : Entry) : Option Grant :=
  let sem := e0.sem
  match beginEntry sem h e0 s with
  | (_, _, some .block) => none
  | (e, s1, some st) => some ⟨s1.stopAt h e st, e.fibre⟩
  | (e, s1, none) =>
    match sem.kind with
    | .elem =>
      let (e2, s2, st) := runElems sem h (((List.range (e.total - e.estart)).map (· + e.estart)).take e.pairRate) e s1
      if st = some .block && e2.estart = e.estart then none else some ⟨s2.afterBeat h e2 st, e.fibre⟩
    | .progress =>
      (match runProg sem h 1 e s1 with
      | (e, s2, none, true) => some ⟨s2.retire h sem e, e.fibre⟩
      | (e, s2, none, false) => some ⟨s2.putEntry h e, e.fibre⟩
      | (_, _, some .block, _) => none
      | (e, s2, some r, _) => some ⟨(s2.putEntry h e).stopAt h e r, e.fibre⟩)
    | .whole =>
      (match finishWhole sem h e s1 with
      | (s2, none) => some ⟨s2, e.fibre⟩
      | (_, some .block) => none
      | (s2, some r) => some ⟨s2.stopAt h e r, e.fibre⟩)

/-- Does an entry take an interlock entry, at least with some operands (R174 Table 2). -/
def Entry.ranged (e : Entry) : Bool := e.accesses && e.major < 0x7A && !(e.major == 0x78 && 4 ≤ e.func4)

/-- The tile slot that an entry names in its word: a load, an MTZERO, a row operation. -/
def Entry.slotNo (e : Entry) : Nat := e.func4 % 4

/-- Matrix instructions of one hart begin in program order. MTZERO and MCLR begin as the oldest entry, MSTAT once every earlier matrix
instruction has taken effect (R251), and a load once every earlier row operation on its slot has committed, which then never begins
again, and every earlier MSTAT has read its slot (R46, R234, R252). -/
def Entry.inTurn (older : List Entry) (e : Entry) : Bool :=
  let ms := older.filter (·.matrix)
  !e.matrix ||
  (if (e.major = 0x78 && 4 ≤ e.func4) || (e.major = 0x7A && 2 ≤ e.func4) then older.isEmpty
   else if e.major = 0x7B then ms.isEmpty
   else ms.all (fun o => o.begun &&
     !(e.major == 0x78 && ((o.major == 0x79 && o.slotNo == e.slotNo) || (o.major == 0x7B && o.func4 == 1)))))

/-- May an entry begin beside the earlier entries of its hart: one that accesses memory or matrix state does after every earlier FENCE of
the queue, and after earlier accesses have taken their interlock entries, and once its mask and its index register hold the values its
ranges are computed from (R174, R184). -/
def Entry.mayBegin (older : List Entry) (e : Entry) : Bool :=
  e.begun ||
  ((!e.accesses || older.all (fun o => !o.fence && (o.begun || !o.ranged))) && e.clearOf false older e.rangeUses 0 && e.inTurn older)

/-- The turn of the matrix unit for an entry that has no element groups: MTLOAD and MROWG begin while earlier entries go on (R50); MTZERO
and MCLR complete in the one move (R246, R250). -/
def State.beatMatrix (s : State) (h : Nat) (e0 : Entry) : Option Grant :=
  let sem := e0.sem
  match beginEntry sem h e0 s with
  | (_, _, some .block) => none
  | (e, s1, some st) => some ⟨s1.stopAt h e st, false⟩
  | (e, s1, none) =>
    if (e0.major = 0x78 && e0.func4 < 4) || e0.major = 0x79 then some ⟨s1, false⟩
    else
      match finishWhole sem h e s1 with
      | (s2, none) => some ⟨s2, false⟩
      | (_, some .block) => none
      | (s2, some r) => some ⟨s2.stopAt h e r, false⟩

/-- A lane group takes the positions from p up to q of an entry that has begun (R49). Under delayIssue what it computes is left for a
later commit (R59); a group of an entry that may block at an element commits at once, as far as it goes. -/
def State.takeGroup (s : State) (h j : Nat) (older : List Entry) (e : Entry) (p q : Nat) : Option Grant :=
  let sem := e.sem
  let els := (List.range (q - p)).map (· + p)
  if e.inOrder sem && (e.undone (!e.blocking) (.el 1)).any (· < p) then none
  else if !els.all (e.clear true older) then none
  else if e.blocking then
    let (e2, s2, st) := runClear sem h older els e s
    if st = some .block && e2.estart = e.estart then none
    else some ⟨(s2.countGroups h (s.ctx h) e (els.filter (· < e2.estart))).afterBeat h e2 st, true⟩
  else
    let s := s.countGroups h (s.ctx h) e els
    let (e, s) := readAhead sem h older els { e with reach := (List.range 8).map (fun k => if k = j then q else nth e.reach k) } s
    if s.move.delayIssue then some ⟨s.putEntry h e, true⟩
    else if e.kind ≠ .elem then some ⟨s.afterBeat h e none, true⟩
    else
      let (e2, s2, st) := runClear sem h older e.computed e s
      some ⟨s2.afterBeat h e2 st, true⟩

/-- A beat of lane group j for the first of a hart's entries that has an element group left for it (R49): none when that group
is not ready (R50, R51). Engine commands, and matrix instructions without element groups, hold no lane group. (DEDUCED, log entry 16) -/
def State.beatFrom (s : State) (h j : Nat) : List Entry → List Entry → Option Grant
  | _, [] => none
  | older, e0 :: rest =>
    if e0.fibre then (if older.isEmpty && j = 0 then s.beatAlone h e0 else none)
    else if e0.fence then
      (match if older.isEmpty && j = 0 then s.beatAlone h e0 else none with
      | some g => some g
      | none => s.beatFrom h j (older ++ [e0]) rest)
    else if e0.engine then s.beatFrom h j (older ++ [e0]) rest
    else if e0.matrix && e0.matrixGroups = 0 then
      (match if e0.begun || j ≠ 0 || !e0.mayBegin older then none else s.beatMatrix h e0 with
      | some g => some g
      | none => s.beatFrom h j (older ++ [e0]) rest)
    else if !e0.begun && !e0.positions.isEmpty && e0.positions.all (e0.lane · != j) then s.beatFrom h j (older ++ [e0]) rest
    else if e0.width ≤ j || !e0.mayBegin older then none
    else
      match beginEntry e0.sem h e0 s with
      | (_, _, some .block) => none
      | (e, s1, some st) => some ⟨s1.stopAt h e st, true⟩
      | (e, s1, none) =>
        match e.nextGroup j with
        | some (p, q) => s1.takeGroup h j older e p q
        | none => if older.isEmpty && e.positions.isEmpty then some ⟨s1.afterBeat h e none, true⟩
                  else s1.beatFrom h j (older ++ [e]) rest

/-- Is the oldest entry of a hart blocked (R51): it waits for the interlock table, for an empty or full queue register, for a watermark,
for its engine, for a tile slot that is being loaded or for Billon room (R234, R240). -/
def State.headBlocked (s : State) (h : Nat) : Bool :=
  match (s.ctx h).vq with
  | [] => false
  | e0 :: _ =>
    let sem := e0.sem
    let waits (o : Option Stop) : Bool := o = some .block
    if e0.fence || !e0.begun && s.entryGated h e0 then false
    else
      match beginEntry sem h e0 s with
      | (_, _, some st) => waits (some st)
      | (e, s1, none) =>
        if e.blocking then
          e.estart < e.total && (match (sem.elem h e e.estart).run s1 with
            | .ok _ _ => false
            | .error st _ => waits (some st))
        else if e.engine then waits (finishWhole sem h e s1).2
        else e.stallSince.isSome

/-- One beat of lane group j for hart h: none when the hart has no ready element group for it, or when its oldest entry is blocked
(R51). -/
def State.beatHart (s : State) (h j : Nat) : Option Grant :=
  if !s.canMove h || s.headBlocked h then none else s.beatFrom h j [] (s.ctx h).vq

/-- Commits that a hart's entries have left for later: those of the first entry that can commit something. -/
def State.commitFrom (s : State) (h : Nat) : List Entry → List Entry → Option State
  | _, [] => none
  | older, e :: rest =>
    if e.engine || e.fence then s.commitFrom h (older ++ [e]) rest
    else if !e.begun then none
    else if e.kind ≠ .elem then
      let t := if older.isEmpty then s.retireDone h (s.ctx h).vq.length else s
      if (t.ctx h).vq = (s.ctx h).vq then s.commitFrom h (older ++ [e]) rest else some t
    else
      let (e2, s2, st) := runClear e.sem h older e.computed e s
      if e2.estart = e.estart && (st.isNone || st = some .block) then s.commitFrom h (older ++ [e]) rest
      else some (s2.afterBeat h e2 st)

/-- Commits left for later, at a hart. -/
def State.commitHart (s : State) (h : Nat) : Option State := if !s.canMove h then none else s.commitFrom h [] (s.ctx h).vq

/-- The harts of a core in round-robin order after hart r. -/
def rrOrder (core r : Nat) : List Nat := (List.range 4).map (fun k => 4 * core + (r + 1 + k) % 4)

/-- Is the oldest entry of a hart an instruction of the fibre unit. -/
def State.fibreHead (s : State) (h : Nat) : Bool := (s.ctx h).vq.head?.any Entry.fibre

/-- The next hart in round-robin order with a ready element group for lane group j of a core, and its grant (R51). An instruction of the
fibre unit becomes ready for the other lane groups once it is next at lane group 0: fib is the hart of that one, if it is one. -/
def State.nextAt (s : State) (core : Nat) (fib : Option Nat) (j : Nat) : Option (Nat × Grant) :=
  (rrOrder core (nth (s.core core).rr j)).findSome? (fun h =>
    if j ≠ 0 && s.fibreHead h then (if fib = some h then (s.beatHart h 0).map (fun g => (h, g)) else none)
    else (s.beatHart h j).map (fun g => (h, g)))

/-- Working lane groups of a core (R15). -/
def State.laneCount (s : State) (core : Nat) : Nat := s.maxvl core / 256

/-- VECTOR_BEAT: a lane group serves the next hart with a ready element group (R51); with none, computed elements whose commit
was left for later commit. A lane group whose turn is that of an instruction of the fibre unit waits until it is the turn of that
instruction at every working lane group: one grant of them all (R274). -/
def State.beat (s : State) (core lane : Nat) : State :=
  let fib := ((s.nextAt core none 0).map (·.1)).filter s.fibreHead
  match s.nextAt core fib lane with
  | some (h, g) =>
    if fib = some h then
      if (List.range (s.laneCount core)).all (fun j => (s.nextAt core fib j).any (·.1 == h)) then
        g.state.modCore core (fun k => { k with rr := k.rr.map (fun _ => h % 4) })
      else s
    else if g.served then g.state.modCore core (fun k => { k with rr := setAt k.rr lane (h % 4) })
    else g.state
  | none => ((rrOrder core (nth (s.core core).rr lane)).findSome? (fun h => s.commitHart h)).getD s

/-- A hart freezes at an access of the scalar unit's, made by the instruction at an address, with the queue stopped in place (R64,
R291). -/
def State.freezeScalarAt (s : State) (h code va acc pc : Nat) : State := (s.flush h none).freezeHart h code va acc pc

/-- A hart freezes at its scalar unit, at the program counter. -/
def State.freezeScalar (s : State) (h code va acc : Nat) : State := s.freezeScalarAt h code va acc (s.ctx h).pc.toNat

/-- The elements of an entry below the consuming one are performed, as far as they go; of FLD and FWALK a pair is one element
(R197, R266, R292): the entry after them, and what stopped them. -/
def State.performBelow (s : State) (h : Nat) (e : Entry) (elem : Nat) : Entry × State × Option Stop :=
  match beginEntry e.sem h e s with
  | (_, s, some _) => (e, s, none)
  | (e, s, none) =>
    if e.kind = .elem then
      runClear e.sem h ((s.ctx h).vq.takeWhile (·.id ≠ e.id)) ((List.range (min elem e.total - e.estart)).map (· + e.estart)) e s
    else if e.fibre && e.kind = .progress then
      (match runProg e.sem h (elem - e.progA.toNat) e s with
      | (e, s, st, false) => (e, s, st)
      | _ => (e, s, none))
    else (e, s, none)

/-- Hart h freezes at an access of one of its entries, for an element: those below it are performed (R197, R292). -/
def State.freezeEntry (s : State) (h : Nat) (e : Entry) (elem code va acc : Nat) : State :=
  let (e, s, st) := s.performBelow h e elem
  let s := s.putEntry h e
  match st with
  | none => s.stopAt h e (.freeze code va acc)
  | some .block => s.stopAt h e (.freeze code va acc)
  | some r => s.stopAt h e r

/-- A freeze of hart h takes effect: at the entry whose access it is for, or at the scalar unit. -/
def State.freezeDue (s : State) (h : Nat) (d : DueStop) : State :=
  match d.entry.bind (fun k => (s.ctx h).vq.find? (·.id = k)) with
  | some e => s.freezeEntry h e d.elem d.code d.va d.acc
  | none => s.freezeScalarAt h d.code d.va d.acc d.pc

/-- A freeze that was raised while the task of hart h was not on its hart takes effect (R294). -/
def State.takeDue (s : State) (h : Nat) : State :=
  match (s.hart h).run, (s.ctx h).dueStop with
  | .running, some d => (s.modCtx h (fun c => { c with dueStop := none })).freezeDue h d
  | _, _ => s

/-- The outcome of a stopped computation at the scalar unit of hart h: a fault swaps the task out with the program counter
at the instruction (R282); a violation freezes the hart; a trap enters the handler; a wait leaves it at the instruction. -/
def State.stopScalar (s : State) (h : Nat) (prefixed : Bool) (w : Wait) (st : Stop) : State :=
  match st with
  | .fault lvl va acc => s.faultHart h lvl va acc (s.ctx h).pc.toNat
  | .freeze code va acc => s.freezeScalar h code va acc
  | .trap c v => s.takeTrap h c v prefixed
  | .block => s.waitOn h w

/-- Run a computation at the scalar unit of hart h, waiting with w. -/
def State.scalar (s : State) (h : Nat) (w : Wait) (m : M Unit) : State :=
  match m.run s with
  | .ok _ s' => s'
  | .error st s' => s'.stopScalar h false w st

/-- VECTOR_BEAT (R51). -/
def execVectorBeat (core lane : Nat) (s : State) : Host.Outcome State Fault Refusal := .next (s.beat core lane)

/-- Complete the oldest entry of a hart when it is of a kind. -/
def State.complete (s : State) (h : Nat) (ok : Entry → Bool) : State :=
  match (s.ctx h).vq with
  | [] => s
  | e :: _ => if ok e && s.canMove h then s.runOldest h else s

/-- ENGINE_DISPATCH: an engine command at the head of its queue passes to its engine (R207). -/
def execEngineDispatch (h : Nat) (s : State) : Host.Outcome State Fault Refusal :=
  .next (s.complete h (fun e => e.major == 0x6C || e.major == 0x6D || e.major == 0x6E))
/-- SCLOSE_COMPLETE: the stream has stopped and the SCLOSE retires (R213). -/
def execScloseComplete (h : Nat) (s : State) : Host.Outcome State Fault Refusal :=
  .next (s.complete h (fun e => e.major == 0x6D && 4 ≤ e.func4))
/-- VLDW_ELEMENT_READY: a waiting VLDW goes on once its word allows (R198). -/
def execVldwElementReady (h : Nat) (s : State) : Host.Outcome State Fault Refusal :=
  .next (s.complete h (fun e => e.major == 0x66))
/-- TILE_LOAD_COMPLETE: an MTLOAD finishes (R245). -/
def execTileLoadComplete (h : Nat) (s : State) : Host.Outcome State Fault Refusal :=
  .next (s.complete h (fun e => e.major == 0x78 && e.func4 < 4))
/-- ROW_OPERATION_COMMIT: a row operation attempts its first commit (R238, R240). -/
def execRowOperationCommit (h : Nat) (s : State) : Host.Outcome State Fault Refusal :=
  .next (s.complete h (fun e => e.major == 0x79 && e.stallSince.isNone))
/-- BILLON_COMMIT_RETRY: once USED of the hart's launch on its core has fallen, its waiting row operations there attempt their commits
again, in the order in which they first failed (R240). The fall is kept while the core issues nothing (R230, R323). -/
def execBillonCommitRetry (h : Nat) (s : State) : Host.Outcome State Fault Refusal :=
  match s.taskOf h with
  | none => .next s
  | some t =>
    let k := s.core (coreOf h)
    if !k.fell.contains t.launch || s.coreHeld (coreOf h) then .next s
    else
      .next (k.failed.foldl (fun (s : State) x =>
          if (s.taskOf x).any (fun u => u.launch == t.launch) then s.complete x (fun e => e.major == 0x79) else s)
        (s.setCore (coreOf h) { k with fell := k.fell.filter (· != t.launch) }))
/-- BILLON_STALL_TIMEOUT: a row operation that has waited MCTL.TMO cycles freezes its hart with cause 1 (R240). -/
def execBillonStallTimeout (h : Nat) (s : State) : Host.Outcome State Fault Refusal :=
  match (s.ctx h).vq with
  | e :: _ =>
    (match e.stallSince with
    | some t =>
      if (s.hart h).run = .running && (s.ctx h).tmo ≤ s.time - t then
        .next ((s.modHart h (fun x => { x with bcause := 1, barow := e.opA.toNat % 2 ^ 14 })).stopAt h e (.freeze 0x27 0 0))
      else .next s
    | none => .next s)
  | [] => .next s
/-- INTERLOCK_RELEASE: entries of a hart whose last access has been performed leave its table (R174, R224). k is the number of
entries looked at. -/
def execInterlockRelease (h k : Nat) (s : State) : Host.Outcome State Fault Refusal :=
  .next (s.modCtx h (fun (c : Ctx) => { c with
    ilocks := (c.ilocks.take k).filter (fun l => (s.liveIlocks h).contains l) ++ c.ilocks.drop k }))

end Sys2Proof.Machine
end

