-- ==== Sys2Proof/Machine/ScalarMem.lean ====
section
/-! DEFINITION. Accesses of the scalar agent (R84, R92, R161, R163, R166, R171): through the scalar data cache, at the slice, in
a window, or to a DEVICE location; accesses left in flight (R161, R172). -/

namespace Sys2Proof.Machine

/-- Is a line held by a scalar data cache. -/
def State.dcHas (s : State) (core line : Nat) : Bool := s.dcOf core line != .I

/-- Bring the line of an access of hart h into its core's cache, as one transaction (R160, R161). -/
def State.dcFill (s : State) (h loc : Nat) (ptr write : Bool) : State :=
  let (s, miss) := s.fillDc (coreOf h) (loc / 64) ptr write
  s.countMiss (some (s.ownerOf h)) miss

/-- Does hart h have a store in flight to the line of a location (R161). -/
def State.pendOn (s : State) (h loc : Nat) : Bool := (s.hart h).pend.any (fun p => p.loc / 64 == loc / 64)

/-- Must an access of the scalar agent of hart h wait: for its load in flight (R172), or for an order that a fence or a
synchronising operation keeps (R182, R186). -/
def State.scalarBlocked (s : State) (h : Nat) (k : AccKind) : Bool :=
  (s.hart h).load.isSome || s.gated h true (k != .read) (s.ctx h).nextId

/-- Would an access miss: it goes to a slice or a target memory, or its cache does not hold the line as needed. -/
def State.scalarMisses (s : State) (h : Nat) (p : Piece) (write : Bool) : Bool :=
  !p.device && (p.window || p.slice ||
    (let st := s.dcOf (coreOf h) (p.loc / 64); if write then st != .M && st != .E else st == .I))

/-- Has a core a request for a line on its way to the home bank. -/
def State.asksFor (s : State) (core line : Nat) : Bool :=
  s.toBank.any (fun p => p.core == core && p.line == line && (p.msg == .getS || p.msg == .getX || p.msg == .upg))

/-- Has another hart of the core of hart h an access to a line on its way to the slice. -/
def State.slicesOn (s : State) (h line : Nat) : Bool :=
  [4 * coreOf h, 4 * coreOf h + 1, 4 * coreOf h + 2, 4 * coreOf h + 3].any (fun k =>
    let on (a : Pend) : Bool := a.slice && a.loc / 64 == line
    k != h && ((s.hart k).pend.any on || (s.hart k).load.any (fun x => on x.2.2) ||
      (match (s.hart k).wait with
       | some (.amo _ _ _ _ _ _ a) => on a
       | _ => false)))

/-- Must a message for an access of hart h wait for one that its core has on its way about the line: the messages of one cache and one
port about a line reach the bank in the order sent (R159). A request for the line may follow another. -/
def State.portBusy (s : State) (h : Nat) (p : Piece) (k : AccKind) : Bool :=
  s.cacheable p.loc && (k == .atomic || s.scalarMisses h p (k == .write)) &&
  (s.slicesOn h (p.loc / 64) || (s.asksFor (coreOf h) (p.loc / 64) && (k == .atomic || p.slice || !s.move.delayMiss)))

/-- Resolve a naturally aligned scalar access: its one piece (R197's tests; R84). -/
def spiece (h va n : Nat) (k : AccKind) : M Piece := do
  match ← resolve h (coreOf h) va n k .scalar with
  | p :: _ =>
    if (← get).pendOn h p.loc || (← get).scalarBlocked h k || (← get).portBusy h p k then throw .block
    pure p
  | [] => throw .block

/-- Perform a scalar read at its piece; a DEVICE location has no tag (R193). -/
def State.readPiece (s : State) (h va : Nat) (p : Piece) : State × Nat :=
  if p.device then
    (s.noteRead h true [] va, if pkgOf p.loc = s.pkg && regBase ≤ offOf p.loc then s.regRead (offOf p.loc - regBase) else s.rd p.loc p.n)
  else
    let s :=
      if p.window then s
      else if p.slice then s.bankFor (some h) false p
      else if s.dcHas (coreOf h) (p.loc / 64) then s else s.dcFill h p.loc p.pointer false
    (s.noteRead h true [(p.loc, p.n)] va, s.rd p.loc p.n)

/-- Perform a scalar write at its piece; register space is written by the caller (Machine/System.lean). -/
def State.writePiece (s : State) (h : Nat) (p : Piece) (v : Nat) : State :=
  if p.device then (s.devWriteBytes p.loc (leBytes p.n v)).noteWrite h none []
  else
    let s :=
      if p.window then s
      else if p.slice then s.bankFor (some h) true p
      else match s.dcOf (coreOf h) (p.loc / 64) with
        | .M => s
        | .E => s.setDc (coreOf h) (p.loc / 64) .M
        | _ => s.dcFill h p.loc p.pointer true
    (s.wr p.loc p.n v).noteWrite h none [(p.loc, p.n)]

/-- A read of n bytes by the scalar agent of hart h, performed now (R171). -/
def sread (h va n : Nat) : M Nat := do
  let p ← spiece h va n .read
  let (s, v) := (← get).readPiece h va p
  set s
  pure v

/-! ### Accesses in flight -/

/-- The access of hart h's instruction to a piece, with data for a write, as it leaves on its way. -/
def State.accessOf (s : State) (h : Nat) (p : Piece) (va v : Nat) : Pend :=
  { loc := p.loc, size := p.n, va := va, data := v, slice := p.slice || p.window, pointer := p.pointer, root := s.rootOf h,
    ins := (s.ctx h).pc.toNat, task := (s.hart h).task, own := s.ownerOf h, rel := none }

/-- Leave a load in flight: its hart goes on to the next instruction, and waits where one names the destination (R46, R161,
R172). d is the physical destination. -/
def State.sendLoad (s : State) (h d : Nat) (sgn : Bool) (a : Pend) : State :=
  ((s.count h 2 1).modHart h (fun x =>
    { x with wait := none, load := some (d, sgn, a), ctx := x.ctx.advanceOver true 4 })).askFor h a false

/-- Leave a store in flight: its hart goes on (R161, R172). The first write after a release is so in program order (R192). -/
def State.sendStore (s : State) (h : Nat) (a : Pend) : State :=
  let rel := if s.dbgOf h then ((s.ctx h).takeRel none).1 else none
  (s.modHart h (fun x => { x with pend := x.pend ++ [{ a with rel := rel }],
                                  ctx := if rel.isSome then (x.ctx.takeRel none).2 else x.ctx })).askFor h a true

/-- The piece of an access in flight. -/
def Pend.piece (a : Pend) : Piece :=
  { loc := a.loc, n := a.size, slice := a.slice && a.loc < 2 ^ 56, pointer := a.pointer, device := false,
    window := 2 ^ 56 ≤ a.loc }

/-- An access in flight is performed at its home bank, unless it lies in a window; a miss counts for its own task (R160, R335). -/
def State.bankIn (s : State) (write : Bool) (a : Pend) : State :=
  if 2 ^ 56 ≤ a.loc then s else s.bankDo (some a.own) write a.loc a.size a.pointer

/-- The load that hart h has in flight to a slice or a target memory is performed and returns. -/
def State.finishLoad (s : State) (h : Nat) (a : Pend) : State := (s.bankIn false a).loadIn h a

/-- A store in flight to a slice or a target memory is performed. -/
def State.finishStore (s : State) (h : Nat) (a : Pend) : State := (s.bankIn true a).storeIn h a

/-! ### Scalar atomics (R201) -/

/-- The new value of an atomic: op 15 is a compare-and-swap of b by c, and writes nothing when it fails (R201). -/
def amoNew (op n old : Nat) (b c : Word) : Option Nat :=
  if op = 15 then (if old = b.toNat % 2 ^ (8 * n) then some (c.toNat % 2 ^ (8 * n)) else none)
  else some (atomicOp op n old (b.toNat % 2 ^ (8 * n)))

/-- Does an AMO order hold a release part (R200). -/
def amoRel (order : Nat) : Bool := 2 ≤ order
/-- Does an AMO order hold an acquire part (R200). -/
def amoAcq (order : Nat) : Bool := order == 1 || 3 ≤ order

/-- Perform an atomic of the scalar agent at its piece, with the tags and the acquire part of its order: the old value (R167, R181,
R186, R192, R201). -/
def State.amoPiece (s : State) (h op order scope va : Nat) (b c : Word) (p : Piece) : State × Nat :=
  let s := (s.bankFor (some h) true p).count h 10 1
  let old := s.rd p.loc p.n
  let s := s.noteRead h true [(p.loc, p.n)] va
  let s := if amoAcq order then s.tagRead h scope 0 0 (s.ctx h).pc.toNat [p] va else s
  let s := match amoNew op p.n old b c with
    | some v =>
      let s := (s.wr p.loc p.n v).noteWrite h none [(p.loc, p.n)]
      if amoRel order then s.tagWrite h scope [p] else s
    | none => s
  (if amoAcq order then s.acquireGate h else s, old)

/-- An atomic in flight is performed, and its instruction completes. -/
def State.finishAmo (s : State) (h d op : Nat) (b c : Word) (order scope : Nat) (a : Pend) : State :=
  let (s, old) := s.amoPiece h op order scope a.va b c a.piece
  s.finishRd h d (w64 old)

end Sys2Proof.Machine
end

