-- ==== Sys2Proof/Machine/Control.lean ====
section
/-! DEFINITION. Branches and jumps (R93, R94), the loop nest (R95 to R98), windows (R99), traps and returns (R104 to R106),
and words that are not instructions (R82). -/

namespace Sys2Proof.Machine

/-- A conditional branch: to PC + 4 × SExt(off11, 11) when the condition holds, else to NextPC (R93). -/
def branch (taken : Word → Word → Bool) (b a : BitVec 7) (o : BitVec 11) (s : State) : State :=
  if taken (s.getS64 s.cur a.toNat) (s.getS64 s.cur b.toNat) then
    s.jump s.cur ((s.ctx s.cur).pc + o.signExtend 56 * 4#56)
  else s.finish s.cur 4

/-- BEQ: Branches when equal (R93). -/
def execBeq (b : BitVec 7) (a : BitVec 7) (o : BitVec 11) (s : State) : Host.Outcome State Fault Refusal :=
  .next (branch (fun x y => x == y) b a o s)

/-- BNE: Branches when not equal (R93). -/
def execBne (b : BitVec 7) (a : BitVec 7) (o : BitVec 11) (s : State) : Host.Outcome State Fault Refusal :=
  .next (branch (fun x y => x != y) b a o s)

/-- BLT: Branches when signed less (R93). -/
def execBlt (b : BitVec 7) (a : BitVec 7) (o : BitVec 11) (s : State) : Host.Outcome State Fault Refusal :=
  .next (branch (fun x y => x.slt y) b a o s)

/-- BGE: Branches when signed greater or equal (R93). -/
def execBge (b : BitVec 7) (a : BitVec 7) (o : BitVec 11) (s : State) : Host.Outcome State Fault Refusal :=
  .next (branch (fun x y => !x.slt y) b a o s)

/-- BLTU: Branches when unsigned less (R93). -/
def execBltu (b : BitVec 7) (a : BitVec 7) (o : BitVec 11) (s : State) : Host.Outcome State Fault Refusal :=
  .next (branch (fun x y => x.ult y) b a o s)

/-- BGEU: Branches when unsigned greater or equal (R93). -/
def execBgeu (b : BitVec 7) (a : BitVec 7) (o : BitVec 11) (s : State) : Host.Outcome State Fault Refusal :=
  .next (branch (fun x y => !x.ult y) b a o s)

/-- NextPC, as rd receives it (R83, R94). -/
def nextPc (c : Ctx) : Word := (c.pc + 4#56).setWidth 64

/-- JAL rd, label (R94). -/
def execJal (d : BitVec 7) (o : BitVec 18) (s : State) : Host.Outcome State Fault Refusal :=
  let c := s.ctx s.cur
  .next ((s.setS64 s.cur d.toNat (nextPc c)).jump s.cur (c.pc + o.signExtend 56 * 4#56))

/-- JALR rd, imm(rs1): a target whose bits [1:0] are not zero traps with cause 2 and writes nothing (R94). -/
def execJalr (d : BitVec 7) (a : BitVec 7) (i : BitVec 11) (s : State) : Host.Outcome State Fault Refusal :=
  let c := s.ctx s.cur
  let t : BitVec 56 := (c.getS a.toNat + i.signExtend 64).setWidth 56
  if t.toNat % 4 ≠ 0 then .next (s.takeTrap s.cur 2 (t.setWidth 64) false)
  else .next ((s.setS64 s.cur d.toNat (nextPc c)).jump s.cur t)

/-! ### The loop nest -/

/-- May a base word stand in a nest's body (R97). -/
def nestAllowed (pre : Option (BitVec 32)) (w : BitVec 32) : Bool :=
  let m := w.toNat % 128
  pairLegal pre w && !(0x19 ≤ m && m ≤ 0x1E) && !(0x30 ≤ m && m ≤ 0x33) &&
  !(m == 0x35 && (w.toNat / 2 ^ 28 == 2 || w.toNat / 2 ^ 28 == 4))

/-- The first offending word of a body (R97). An illegal pair offends at its P word (DEDUCED, log entry 22). -/
def nestOffender : List (BitVec 32) → Option (BitVec 32)
  | [] => none
  | w :: t =>
    if w.toNat % 128 = 0x7C then
      match t with
      | [] => some w
      | b :: u => if nestAllowed (some w) b then nestOffender u else some w
    else if nestAllowed none w then nestOffender t else some w

/-- Is a nest descriptor invalid (R95, R96). -/
def nestBad (w : List Word) : Bool :=
  let w0 := wnth w 0
  let nd := w0 % 8
  nd == 0 || nd == 7 || 4 < bits w0 6 4 || bits w0 63 39 != 0 || w0.testBit 31 || w0.testBit 23 || w0.testBit 15 ||
  w0.testBit 7 || w0.testBit 3 || (List.range nd).any (fun d => 2 ^ 32 ≤ wnth w (1 + d))

/-- The nest that a valid descriptor starts, with its names resolved now (R96). -/
def mkNest (c : Ctx) (body : List (BitVec 32)) (w : List Word) : Nest :=
  let nd := wnth w 0 % 8
  let na := bits (wnth w 0) 6 4
  { suspended := false, start := c.pc.toNat, body := body,
    trips := (List.range nd).map (fun d => wnth w (1 + d)), ctrs := List.replicate nd 0,
    regs := (List.range na).map (fun a => physS c (bits (wnth w 0) (14 + 8 * a) (8 + 8 * a))),
    steps := (List.range na).map (fun a => (List.range nd).map (fun d => w64 (wnth w (7 + 6 * a + d)))) }

/-- NEST in the order of its checks (R97): the body's fetch, the body check, the descriptor's alignment, its read, its
validity; then the nest begins, or its body is passed over when a trip count is 0 (R96). -/
def nestRun (h : Nat) (a : Word) (len : Nat) : M Unit := do
  let c := (← get).ctx h
  let body ← (List.range len).mapM (fun k => fetchWord h (wrap56 (c.pc.toNat + 4 + 4 * k)))
  match nestOffender body with
  | some w => throw (.trap 1 (w64 w.toNat))
  | none => pure ()
  if a.toNat % 8 ≠ 0 then throw (.trap 2 a)
  let w ← (List.range 31).mapM (fun k => do
    let x ← sread h (a + w64 (8 * k)).toNat 8
    pure (w64 x))
  if nestBad w then throw (.trap 6 a)
  let n := mkNest c body w
  if n.trips.contains 0 then
    modify (fun s => s.jump h (c.pc + BitVec.ofNat 56 (4 + 4 * len)))
  else
    modify (fun s => (s.modCtx h (fun c => { c with nest := some n })).jump h (c.pc + 4#56))

/-- NEST rs1, n (R95 to R98); field n holds the body length less 1. -/
def execNest (a : BitVec 7) (n : BitVec 5) (s : State) : Host.Outcome State Fault Refusal :=
  let h := s.cur
  if (s.ctx h).nest.isSome then .next (s.takeTrap h 1 (illegalVal none (encBase (.nest a n))) false)
  else .next (s.scalar h .access (nestRun h (s.getS64 h a.toNat) (n.toNat + 1)))

/-! ### Windows and traps -/

/-- WIN ds, dv (R99). -/
def execWin (s : BitVec 4) (v : BitVec 4) (st : State) : Host.Outcome State Fault Refusal :=
  let h := st.cur
  let c := st.ctx h
  let ns : Int := c.swb + s.toInt
  let nv : Int := c.vwb + v.toInt
  if ns < 0 || 14 < ns || nv < 0 || 6 < nv then
    .next (st.takeTrap h 5 (BitVec.ofInt 64 (s.toInt + 16 * v.toInt)) false)
  else .next ((st.modCtx h (fun c => { c with swb := ns.toNat, vwb := nv.toNat })).finish h 4)

/-- TRAP code: the scalar-side trap with cause 3 (R105). -/
def execTrap (c : BitVec 14) (s : State) : Host.Outcome State Fault Refusal :=
  .next (s.takeTrap s.cur 3 (c.setWidth 64) false)
/-- BRK code: the scalar-side trap with cause 4 (R105). -/
def execBrk (c : BitVec 14) (s : State) : Host.Outcome State Fault Refusal :=
  .next (s.takeTrap s.cur 4 (c.setWidth 64) false)
/-- TRET: return from a handler (R106, R98). -/
def execTret (s : State) : Host.Outcome State Fault Refusal := .next (s.returnTrap s.cur)

/-- ILLEGAL_ENCODING: a word or pair that is not an instruction takes the trap with cause 1 (R82, R104). -/
def execIllegalEncoding (pre : Option (BitVec 32)) (base : BitVec 32) (s : State) : Host.Outcome State Fault Refusal :=
  .next (s.takeTrap s.cur 1 (illegalVal pre base) pre.isSome)

/-- TRAP_ENTRY: a hart whose queue has drained enters its handler, or freezes (R104). -/
def execTrapEntry (h : Nat) (s : State) : Host.Outcome State Fault Refusal :=
  .next (match (s.hart h).run, (s.hart h).wait with
  | .running, some (.trap c v p) => s.takeTrap h c v p
  | _, _ => s)

end Sys2Proof.Machine
end

