-- ==== Sys2Proof/Machine/Hazards.lean ====
section
/-! DEFINITION. The wait of the scalar unit for scalar registers that queued vector instructions and loads in flight write (R46, R48). -/

namespace Sys2Proof.Machine

/-- Scalar register names that a base word reads or writes at the scalar unit, by its major opcode and func4: the operands of
scalar instructions, and those a vector instruction captures at issue (R47). Fields that hold zero name s0. -/
def scalarRegs (w : Nat) : List Nat :=
  let m := w % 128
  let f := w / 2 ^ 28
  let d := bits w 13 7
  let a := bits w 20 14
  let b := bits w 27 21
  if m = 0x01 || m = 0x02 || m = 0x20 || m = 0x21 || m = 0x4E then [d, a, b]
  else if m = 0x0C || m = 0x0D || m = 0x30 || m = 0x36 then [d]
  else if m ≤ 0x31 || m = 0x4F || m = 0x6B then [d, a]
  else if m = 0x32 || m = 0x37 then [a]
  else if m = 0x34 then (if f = 0 || f = 3 then [a] else [d])
  else if m = 0x35 then (if 5 ≤ f then [a, b] else if f = 2 then [32] else [])
  else if m = 0x41 || m = 0x43 || m = 0x45 || m = 0x75 then [b]
  else if m = 0x48 then (if f = 2 then [b] else [])
  else if m = 0x47 then (if f = 6 then [a] else [])
  else if m = 0x4B then (if f = 1 || f = 2 then [b] else if f = 4 then [a] else [])
  else if m = 0x4C then (if f = 0 || f = 3 then [b] else if f = 4 then [a, b] else [])
  else if m = 0x61 || m = 0x64 || m = 0x6A || m = 0x71 || m = 0x78 then [a, b]
  else if (0x60 ≤ m && m ≤ 0x67) || m = 0x79 || m = 0x7A || m = 0x7B then [a]
  else if m = 0x68 then (if bits w 24 21 = 15 then [d, a, d + 1] else [d, a])
  else if m = 0x6C then (if f = 0 then [a] else if f = 1 then [d, b] else [d])
  else if m = 0x6D then (if f < 4 then [a, b] else [])
  else if m = 0x6E then (if f = 0 then [a] else [d])
  else if m = 0x6F then (if f = 3 then [d] else [a, b])
  else if m = 0x70 then [a, (a + 1) % 128, if f = 0 then b else a]
  else if m = 0x76 then (if f = 0 then [a] else [])
  else []

/-- The scalar register name that a vector instruction word writes when it completes: MPOPC, MFFS, reductions and the like,
FLENR, MSTAT (R48). -/
def vectorDest (w : Nat) : List Nat :=
  let m := w % 128
  let f := w / 2 ^ 28
  if (m = 0x47 && (f = 4 || f = 5)) || (m = 0x4C && f = 3) || (m = 0x73 && f = 6) || (m = 0x76 && f = 2) || m = 0x7B then [bits w 13 7] else []

/-- Physical scalar registers of hart h that are yet to be written: by queued vector instructions, and by its load in flight (R46,
R48, R172). -/
def State.dueRegs (s : State) (h : Nat) : List Nat := (s.ctx h).vq.filterMap Entry.sdest ++ ((s.hart h).load.map (·.1)).toList

/-- Does an instruction name a scalar register that an earlier vector instruction in the queue, or the load in flight, writes (R46,
R48). Within a running nest the registers that the end of a pass adds to count as named by each instruction of the body (R96).
Queued instructions write in order, so that only a load in flight holds back the destination of another (R67).
(DEDUCED, log entry 17) -/
def State.scalarHazard (s : State) (h : Nat) (w : BitVec 32) : Bool :=
  let c := s.ctx h
  let ds := s.dueRegs h
  if ds.isEmpty then false
  else
    let nest := match c.nest with
      | some n => if n.suspended then [] else n.regs
      | none => []
    ((scalarRegs w.toNat).map (physS c) ++ nest).any (fun p => p != 0 && ds.contains p) ||
    (vectorDest w.toNat).any (fun r => (s.hart h).load.any (fun l => l.1 == physS c r && l.1 != 0))

/-- Does a queued instruction, or the load in flight, still write an address register of the running nest (R48, R96). -/
def State.passHazard (s : State) (h : Nat) : Bool :=
  (s.ctx h).nest.any (fun n => (s.dueRegs h).any (fun p => p != 0 && n.regs.contains p))

end Sys2Proof.Machine
end

