-- ==== Sys2Proof/Machine/Fetch.lean ====
section
/-! DEFINITION. Fetching the words of the next instruction (R72, R97), and instructions of majors 0x7A and 0x7B, which Decode.lean
keeps apart. -/

namespace Sys2Proof.Machine

/-- The word at an address for hart h: from the loop buffer while a nest runs its body (R97), else from memory. -/
def instrWord (h a : Nat) : M (BitVec 32) := do
  match ((← get).ctx h).nest with
  | some n =>
    let k := (a + 2 ^ 56 - (n.start + 4) % 2 ^ 56) % 2 ^ 56
    (match n.suspended, n.body[k / 4]? with
    | false, some w => pure w
    | _, _ => fetchWord h a)
  | none => fetchWord h a

/-- The words of the instruction at the program counter of hart h: its P word, if any, and its base word (R72, R75). -/
def fetchInstr (h : Nat) : M (Option (BitVec 32) × BitVec 32) := do
  let pc := ((← get).ctx h).pc.toNat
  let w ← instrWord h pc
  if isPfxWord w then
    let b ← instrWord h (wrap56 (pc + 4))
    pure (some w, b)
  else pure (none, w)

/-- Run a legal word of major 0x7A or 0x7B: MDRAIN, MDRAIN_KEEP, MCLR, MSTAT_ROW or MSTAT_SLOT. -/
def runLate (pre : Option (BitVec 32)) (w : BitVec 32) (s : State) : Host.Outcome State Fault Refusal :=
  let px := pre.map pfxFields
  if majorOf w == 0x7A then
    if tst w 28 4 2 then execMclr (fld w 14 7) px s
    else if tst w 28 4 0 then execMdrain (fld w 7 7) (fld w 14 7) px s
    else execMdrainKeep (fld w 7 7) (fld w 14 7) px s
  else if tst w 28 4 0 then execMstatRow (fld w 7 7) (fld w 14 7) px s
  else execMstatSlot (fld w 7 7) (fld w 14 7) px s

end Sys2Proof.Machine
end

