-- ==== Sys2Proof/Machine/SystemRegs.lean ====
section
/-! DEFINITION. System registers: SRR and SRW of each register of Table 14 (R102), with the waits of R29, R241 and R258. -/

namespace Sys2Proof.Machine

/-- HID of a hart (R12). -/
def State.hid (s : State) (h : Nat) : Nat :=
  let c := coreOf h
  s.pkg % 2 ^ 16 * 2 ^ 32 + s.logical c % 256 * 2 ^ 16 + towerOf c * 2 ^ 14 + columnOf c * 2 ^ 11 + s.cidx c * 2 ^ 8 + h % 4

/-- LMAP with a column selected (R13). FIRST keeps 8 bits (DEDUCED, log entry 25). -/
def State.lmap (s : State) (sel : Nat) : Nat :=
  let sel := sel % 32
  let base := sel * 8
  let pres := s.coreMask / 2 ^ base % 256
  s.ncore * 2 ^ 32 + pres * 2 ^ 24 + popc s.coreMask base % 256 * 2 ^ 16 + popc pres 8 * 2 ^ 12 + sel

/-- Does a row operation of a hart wait for Billon room (R240, R242). -/
def State.stalled (s : State) (h : Nat) : Bool :=
  match (s.ctx h).vq with
  | e :: _ => e.stallSince.isSome
  | [] => false

/-- BSTAT of a hart (R242). (DEDUCED, log entry 44) -/
def State.bstat (s : State) (h : Nat) : Nat :=
  let x := s.hart h
  x.bcause % 2 ^ 4 * 2 ^ 60 + x.barow % 2 ^ 14 * 2 ^ 46 + s.quota h % 2 ^ 10 * 2 ^ 32 + s.used h % 2 ^ 10 * 2 ^ 16 +
    b2n (s.stalled h) * 2 ^ 10 + (s.quota h - s.used h) % 2 ^ 10

/-- Registers whose SRR and SRW wait until every earlier vector instruction has completed (R29, R61, R241, R258). -/
def drainRegs : List Nat := [0x003, 0x010, 0x011, 0x012, 0x013, 0x014, 0x015, 0x016, 0x020]

/-- The value of a system register (R102 Table 14). -/
def State.sysReg (s : State) (h n : Nat) : Option Nat :=
  let c := s.ctx h
  match n with
  | 0x000 => some c.vl
  | 0x001 => some c.rows
  | 0x002 => some (s.maxvl (coreOf h))
  | 0x003 => some 0
  | 0x004 => some (c.swb * 32)
  | 0x005 => some (c.vwb * 32)
  | 0x010 => some c.fflags.toNat
  | 0x011 => some c.fctl
  | 0x012 => some c.fexca
  | 0x013 => some c.fexcb
  | 0x014 => some c.fprogA.toNat
  | 0x015 => some c.fprogB.toNat
  | 0x016 => some c.fstat
  | 0x020 => some c.mctl
  | 0x021 => some (s.bstat h)
  | 0x030 => some (s.eseq h)
  | 0x040 => some (s.hid h)
  | 0x041 => some (s.lmap c.lmapSel)
  | 0x042 => some (s.time % 2 ^ 64)
  | _ => none

/-- SRR rd, NAME (R102). -/
def execSrr (d : BitVec 7) (n : BitVec 11) (s : State) : Host.Outcome State Fault Refusal :=
  let h := s.cur
  match s.sysReg h n.toNat with
  | none => .next (s.takeTrap h 1 (illegalVal none (encBase (.srr d n))) false)
  | some v =>
    if drainRegs.contains n.toNat then
      let s := s.beginScalar h
      if (s.ctx h).vq.isEmpty then .next ((s.setS64 h d.toNat (w64 v)).endScalar h)
      else .next (s.waitOn h .sysreg)
    else .next (s.finishRd h d.toNat (w64 v))

/-- An SRW that waits for the earlier vector instructions, then writes (R29). -/
def srwDrain (f : Word → Ctx → Ctx) (a : BitVec 7) (s : State) : State :=
  let h := s.cur
  if (s.ctx h).vq.isEmpty then (s.modCtx h (f (s.getS64 h a.toNat))).finish h 4
  else s.waitOn h .sysreg

/-- The fields of FCTL, each by its own rule (R28). -/
def writeFctl (v : Word) (c : Ctx) : Ctx :=
  let x := v.toNat
  { c with xsz := bits x 63 60, xbase := bits x 55 12, xlovf := c.xlovf && x.testBit 5, xle := x.testBit 4,
           rm := if x % 8 ≤ 4 then x % 8 else c.rm }
/-- FEXCA (R66). -/
def writeFexca (v : Word) (c : Ctx) : Ctx :=
  let x := v.toNat
  { c with fexc := [bits x 15 0, bits x 31 16, bits x 47 32, bits x 63 48, nth c.fexc 4, nth c.fexc 5, nth c.fexc 6] }
/-- FEXCB (R66). -/
def writeFexcb (v : Word) (c : Ctx) : Ctx :=
  let x := v.toNat
  { c with fexc := [nth c.fexc 0, nth c.fexc 1, nth c.fexc 2, nth c.fexc 3, bits x 15 0, bits x 31 16, bits x 47 32] }
/-- FSTAT: RNG is cleared only by a 0 (R258). -/
def writeFstat (v : Word) (c : Ctx) : Ctx :=
  { c with rng := c.rng && v.toNat.testBit 2, ord := v.toNat.testBit 1, ovf := v.toNat.testBit 0 }
/-- MCTL: a MODE of 2 or 3 is discarded, TMO is written (R241). -/
def writeMctl (v : Word) (c : Ctx) : Ctx :=
  { c with mode := if bits v.toNat 33 32 ≤ 1 then bits v.toNat 33 32 else c.mode, tmo := v.toNat % 2 ^ 32 }

/-- SRW FFLAGS, rs1 (R27, R29). -/
def execSrwFflags (a : BitVec 7) (s : State) : Host.Outcome State Fault Refusal :=
  .next (srwDrain (fun v c => { c with fflags := v.setWidth 7 }) a s)
/-- SRW FCTL, rs1 (R28, R29). -/
def execSrwFctl (a : BitVec 7) (s : State) : Host.Outcome State Fault Refusal := .next (srwDrain writeFctl a s)
/-- SRW FEXCA, rs1 (R67). -/
def execSrwFexca (a : BitVec 7) (s : State) : Host.Outcome State Fault Refusal := .next (srwDrain writeFexca a s)
/-- SRW FEXCB, rs1 (R67). -/
def execSrwFexcb (a : BitVec 7) (s : State) : Host.Outcome State Fault Refusal := .next (srwDrain writeFexcb a s)
/-- SRW FPROGA, rs1 (R258). -/
def execSrwFproga (a : BitVec 7) (s : State) : Host.Outcome State Fault Refusal :=
  .next (srwDrain (fun v c => { c with fprogA := v }) a s)
/-- SRW FPROGB, rs1 (R258). -/
def execSrwFprogb (a : BitVec 7) (s : State) : Host.Outcome State Fault Refusal :=
  .next (srwDrain (fun v c => { c with fprogB := v }) a s)
/-- SRW FSTAT, rs1 (R258). -/
def execSrwFstat (a : BitVec 7) (s : State) : Host.Outcome State Fault Refusal := .next (srwDrain writeFstat a s)
/-- SRW MCTL, rs1 (R241). -/
def execSrwMctl (a : BitVec 7) (s : State) : Host.Outcome State Fault Refusal := .next (srwDrain writeMctl a s)
/-- SRW LMAP, rs1: writes SEL at execution (R14). -/
def execSrwLmap (a : BitVec 7) (s : State) : Host.Outcome State Fault Refusal :=
  let h := s.cur
  .next ((s.modCtx h (fun c => { c with lmapSel := (s.getS64 h a.toNat).toNat % 32 })).finish h 4)

end Sys2Proof.Machine
end

