-- ==== Sys2Proof/Machine/Frame.lean ====
section
/-! DEFINITION. The hart frame: 768 KiB of memory that hold a task's context (R68 to R71, R254). Areas whose layout R68 does not
give hold free bytes (DESIGN CHOICE, log entry 5). -/

namespace Sys2Proof.Machine

/-- Size of a frame. -/
def frameSize : Nat := 768 * 1024

/-- Free bytes at an offset of the frame of a save (DESIGN CHOICE, log entry 5). -/
def freeBytes (stamp off n : Nat) : List Byte := (List.range n).map (fun k => Config.freeByte (stamp * 2 ^ 20 + off + k))

/-- Little-endian words. -/
def numBytes (l : List Nat) : List Byte := l.flatMap (leBytes 8)

/-- Bytes of a bit string. -/
def bitBytes {n : Nat} (r : BitVec n) (k : Nat) : List Byte := leBytes k r.toNat

/-- The cause and class word of the header (R69). -/
def headWord (code cls : Nat) : Nat := 2 ^ 48 + code * 2 ^ 16 + cls * 16

/-- ESTART of an entry as a frame holds it, in 16 bits: while records of an indivisible entry are pending, the number of those appended (R70,
R336). An MTLOAD may append more than 65,535; of their number the frame holds the low 16 bits (DESIGN CHOICE, log entry 66). -/
def Entry.savedEstart (e : Entry) : Nat := (if e.pendRec.isSome then e.recDone else e.estart) % 2 ^ 16

/-- The address of the next scalar instruction: at a pass of a nest left open, the word at which the next pass, or what follows the nest,
begins (R69, R96). -/
def Ctx.nextPc (c : Ctx) : Nat := (if c.passOpen then c.closePass else c).pc.toNat

/-- The header words 0x000 to 0x088 (R69 Table 10). -/
def headWords (c : Ctx) (maxb code cls : Nat) : List Nat :=
  [headWord code cls, c.nextPc, c.vl, c.rows, c.swb * 32, c.vwb * 32,
   c.fflags.toNat, c.fctl, c.fexca, c.fexcb, c.fprogA.toNat, c.fprogB.toNat, c.fstat, c.mctl,
   c.lmapSel, maxb,
   (c.vq.head?.map Entry.savedEstart).getD 0,
   c.vq.length]

/-- The capacity and length words of the fibres, then HEAD and COUNT of the queues (R69). -/
def fileWords (c : Ctx) : List Nat :=
  (List.range 16).map (fun f => (c.fibre f).cap * 2 ^ 32 + (c.fibre f).pairs.length) ++
  (List.range 16).map (fun q => (c.queue q).ents.length * 2 ^ 8 + (c.queue q).head)

/-- A snapshot entry (R70 Table 11). The restart vector is meaningful in a frozen context (class 3). (DEDUCED, log entry 45) -/
def entryBytes (cls stamp off : Nat) (e : Entry) : List Byte :=
  numBytes
    [e.word.toNat + (e.pre.map BitVec.toNat).getD 0 * 2 ^ 32, e.opA.toNat, e.opB.toNat, e.opC.toNat,
     e.vle + e.rows * 2 ^ 16 + e.rm * 2 ^ 20 + e.maxb * 2 ^ 32,
     e.physD % 256 + e.physA % 256 * 2 ^ 8 + e.physB % 256 * 2 ^ 16 + e.physC % 256 * 2 ^ 24,
     e.xsz * 2 ^ 60 + e.xbase * 2 ^ 12 + b2n e.xle * 2 ^ 4,
     e.savedEstart + b2n e.begun * 2 ^ 16 + b2n e.pendRec.isSome * 2 ^ 17] ++
  (List.range 7).flatMap (fun i => leBytes 2 (nth e.mins i)) ++ freeBytes stamp (off + 0x4E) 2 ++
  numBytes [e.progA.toNat, e.progB.toNat] ++
  (if cls = 3 then numBytes (ptrWords e.restart) else freeBytes stamp (off + 0x60) 16) ++
  numBytes [e.addr] ++ freeBytes stamp (off + 0x78) 8

/-- The entry slots of a queue register, in slot order (R68). -/
def queueBytes (stamp off : Nat) (q : Queue) : List Byte :=
  (List.range 64).flatMap (fun k =>
    match q.ents[(k + 64 - q.head) % 64]? with
    | some w => leBytes 8 w.toNat
    | none => freeBytes stamp (off + 8 * k) 8)

/-- First pair slot of a fibre (R254). -/
def fibreBase (c : Ctx) (f : Nat) : Nat := (List.range f).foldl (fun a g => a + (c.fibre g).cap) 0

/-- The areas of a frame that are not zero: offset and bytes, ascending (R68 Table 9). Slots of the fibre pool that belong to no fibre are
zero, as those beyond a fibre's length are (R254; DESIGN CHOICE, log entry 66). -/
def frameAreas (c : Ctx) (maxb code cls stamp : Nat) : List (Nat × List Byte) :=
  [(0, numBytes (headWords c maxb code cls)), (0x100, numBytes (fileWords c))] ++
  c.regs.map (fun e => (0x1000 + 8 * e.1, leBytes 8 e.2.toNat)) ++
  (List.range 32).map (fun k => (0x2000 + 128 * k,
    match c.vq[k]? with
    | some e => entryBytes cls stamp (0x2000 + 128 * k) e
    | none => freeBytes stamp (0x2000 + 128 * k) 128)) ++
  [(0x3000, freeBytes stamp 0x3000 0x5000)] ++
  (List.range 16).map (fun q => (0x8000 + 512 * q, queueBytes stamp (0x8000 + 512 * q) (c.queue q))) ++
  (List.range 8).map (fun r => (0xA000 + 2048 * r, bitBytes (sget c.scales scaleInit r) 2048)) ++
  [(0x10000, List.replicate 4096 255)] ++
  (c.masks.filter (fun e => e.1 != 0)).map (fun e => (0x10000 + 4096 * e.1, bitBytes e.2 4096)) ++
  (List.range 16).map (fun f => (0x20000 + 8 * fibreBase c f,
    (c.fibre f).pairs.flatMap (fun p => leBytes 4 p.1 ++ leBytes 4 p.2))) ++
  c.vregs.map (fun e => (0x40000 + 2048 * e.1, bitBytes e.2 maxb))

/-- The cells of a frame at an address. -/
def frameCells (base : Nat) (c : Ctx) (maxb code cls stamp : Nat) : List Host.Cell :=
  wrAreas [] base (frameAreas c maxb code cls stamp)

/-- The cells of memory in a range. -/
def cellsIn (m : List Host.Cell) (a n : Nat) : List Host.Cell := m.filter (fun c => a ≤ c.1 && c.1 < a + n)

/-- Lines of the package's banks that lie in a range. -/
def State.linesIn (s : State) (a n : Nat) : List Nat :=
  (s.llc.flatMap (fun e => (s.sbLines e.1).filter (fun l => e.2.2.testBit (l % 4)))).filter
    (fun l => a < l * 64 + 64 && l * 64 < a + n)

/-- The scheduler writes a range of memory whole, at its home banks (R171, R288): the areas' bytes, and zeros elsewhere. -/
def State.devReplace (s : State) (a n : Nat) (areas : List (Nat × List Byte)) : State :=
  let s := (s.linesIn a n).foldl (fun s l => s.evictLine l) s
  { s with mem := wrAreas (s.mem.filter (fun c => c.1 < a || a + n ≤ c.1)) a areas }

/-- Write a context to a frame. -/
def State.writeFrame (s : State) (base : Nat) (c : Ctx) (maxb code cls stamp : Nat) : State :=
  s.devReplace base frameSize (frameAreas c maxb code cls stamp)

/-- Does a frame hold what a save wrote to it (R71). (DESIGN CHOICE, log entry 30) -/
def State.frameIntact (s : State) (base : Nat) (c : Ctx) (maxb code cls stamp : Nat) : Bool :=
  cellsIn s.mem base frameSize == frameCells base c maxb code cls stamp

end Sys2Proof.Machine
end

