-- ==== Sys2Proof/Machine/Placement.lean ====
section
/-! DEFINITION. Where the scheduler can place groups and in what order: the entries of a queue (R297), priorities (R303), free
resources and slots (R57, R108, R301, R302). -/

namespace Sys2Proof.Machine

/-! ### Queues -/

/-- Is an entry taken from a ring a wait. -/
def WqWork.isWait : WqWork → Bool
  | .wait _ _ _ => true
  | _ => false

/-- A queue whose doorbell has not rung. -/
def Wq.init : Wq := { tail := 0, bells := [], items := [], ahead := 0 }

/-- The scheduler's view of a queue. -/
def State.wq (s : State) (q : Nat) : Wq := sget s.sched.wqs Wq.init q
/-- Change it. -/
def State.modWq (s : State) (q : Nat) (f : Wq → Wq) : State :=
  { s with sched := { s.sched with wqs := sset s.sched.wqs Wq.init q (f (s.wq q)) } }

/-- Has an entry of a queue started (R297): a launch when a group of it has, a graph when a node of it has, a wait when it has
made its first read. -/
def State.itemStarted (s : State) (x : WqItem) : Bool :=
  match x.work with
  | .launch n => (sfind s.sched.launches n).all (fun l => 0 < l.started)
  | .graph n => (sfind s.sched.graphs n).all (fun g => g.nodes.any (fun d => match d.state with
      | .waiting => false
      | .ready => false
      | .run k => (sfind s.sched.launches k).all (fun l => 0 < l.started)
      | .done => true))
  | .wait _ _ b => b

/-- May an entry of a queue start (R297): SER 1 once every earlier one has completed, SER 0 once every earlier one has started. -/
def State.itemMayStart (s : State) (q idx : Nat) : Bool :=
  let l := (s.wq q).items
  let before := l.takeWhile (fun x => x.idx != idx)
  match l.find? (fun x => x.idx == idx) with
  | none => true
  | some x => if x.ser then before.isEmpty else before.all s.itemStarted

/-- The entry of a queue that is a launch or graph with a SEQ. -/
def State.itemOf (s : State) (q seq : Nat) : Option WqItem :=
  (s.wq q).items.find? (fun x => match x.work with
    | .launch n => n == seq
    | .graph n => n == seq
    | .wait _ _ _ => false)

/-- May a launch start by the order of its queue (R297); one made by LAUNCH may at once. -/
def State.mayStart (s : State) (seq : Nat) (l : Launch) : Bool :=
  match l.src with
  | .queue q => (s.itemOf q seq).all (fun x => s.itemMayStart q x.idx)
  | .node g _ => (sfind s.sched.graphs g).all (fun x => (s.itemOf x.wq g).all (fun i => s.itemMayStart x.wq i.idx))
  | .device => true

/-! ### Priorities -/

/-- The launch of a task. -/
def State.launchOfTask (s : State) (t : Nat) : Option Launch :=
  (sfind s.sched.tasks t).bind (fun k => sfind s.sched.launches k.launch)

/-- Steps of ageing since a time, of which some may be recorded (R303). -/
def State.agedSince (s : State) (since recorded : Nat) : Nat := max recorded ((s.time - since) / 2 ^ 20)
/-- Effective priority of a saved task (R303). -/
def State.savedPrio (s : State) (t : Nat) : Nat :=
  min 7 (((s.launchOfTask t).map (·.prio)).getD 0 +
    ((sfind s.sched.tasks t).bind (fun k => k.saved.map (fun v => s.agedSince v.since v.aged))).getD 0)
/-- Effective priority of a launch's next group (R303). -/
def State.groupPrio (s : State) (l : Launch) : Nat := min 7 (l.prio + s.agedSince l.since l.aged)
/-- Priority of the task running on a hart (R304). -/
def State.runPrio (s : State) (h : Nat) : Nat := ((s.launchOf h).map (·.prio)).getD 0

/-! ### Where a group can be placed -/

/-- Do two ranges of n and m units overlap. -/
def spanMeet (a n b m : Nat) : Bool := n != 0 && m != 0 && a < b + m && b < a + n

/-- Launches other than seq that hold a core (R302). -/
def State.holders (s : State) (seq c : Nat) : List Launch :=
  (s.sched.launches.filter (fun e => e.1 != seq && e.2.hasCore c)).map (·.2)
/-- Launches other than seq that hold a vault: those with a core in its column. -/
def State.vaultHolders (s : State) (seq v : Nat) : List Launch :=
  (s.sched.launches.filter (fun e => e.1 != seq && e.2.rows.any (fun r => r.1 / 8 == v))).map (·.2)
/-- Launches other than seq that hold Electrum slots in a tower. -/
def State.towerHolders (s : State) (seq t : Nat) : List (LParams × ESlots) :=
  s.sched.launches.filterMap (fun e => if e.1 = seq then none else (sfind e.2.towers t).map (fun x => (e.2.par, x)))

/-- The first row of the lowest free block of n consecutive accumulator rows of a core (R236, R301). (DESIGN CHOICE, log entry 34) -/
def State.rowFirst (s : State) (seq c n : Nat) : Option Nat :=
  let bs := (s.holders seq c).map (fun q => ((sfind q.rows c).getD 0, q.par.acnt))
  let ok (x : Nat) : Bool := x + n ≤ 12288 && bs.all (fun b => !spanMeet x n b.1 b.2)
  ((0 :: bs.map (fun b => b.1 + b.2)).filter ok).foldl (fun m x => some (min x (m.getD x))) none

/-- Are the resources of a core free for a launch (R301). -/
def State.coreFits (s : State) (seq : Nat) (l : Launch) (c : Nat) : Bool :=
  l.hasCore c ||
  (let hs := (s.holders seq c).map (·.par)
   let p := l.par
   hs.all (fun q => !spanMeet p.spoff p.spsz q.spoff q.spsz && p.tslot &&& q.tslot == 0 && p.chan &&& q.chan == 0 &&
     p.strm &&& q.strm == 0) &&
   (s.rowFirst seq c p.acnt).isSome && hs.foldl (fun n q => n + q.quota) p.quota ≤ 512)
/-- Is the vault range free for a launch (R301). -/
def State.vaultFits (s : State) (seq : Nat) (l : Launch) (v : Nat) : Bool :=
  (s.vaultHolders seq v).all (fun o => !spanMeet l.par.voff l.par.vsz o.par.voff o.par.vsz)
/-- Are the Electrum slots and range of a tower free for a launch (R301, R222). -/
def State.towerFits (s : State) (seq : Nat) (l : Launch) (t : Nat) : Bool :=
  (sfind l.towers t).isSome ||
  (let hs := s.towerHolders seq t
   hs.all (fun q => !spanMeet l.par.eoff l.par.esz q.1.eoff q.1.esz) &&
   hs.foldl (fun n q => n + q.2.slots.length) l.par.eslot ≤ 64)

/-- May new groups be placed on a core: the package has booted, its layer is active, no lane group of it is to be retired, and it is not to
be tested (R17, R231, R318, R325). A core that is to be retired itself still takes groups, of launches that have started. -/
def State.coreOpen (s : State) (c : Nat) : Bool :=
  s.boot.done && (s.tower (towerOf c)).activeAt (layerOf c) &&
  (s.core c).retire.isEmpty && !(s.core c).test && (s.core c).testing.isNone

/-- Is a hart slot free. -/
def State.slotFree (s : State) (h : Nat) : Bool := (s.hart h).task.isNone
/-- Has a hart stopped in place on its way to the shadow bank (R290). -/
def Run.leaving : Run → Bool
  | .stopped _ => true
  | _ => false
/-- Is a hart slot free, or can a group of effective priority p free it (R304), or is it about to be free. -/
def State.slotFreeable (s : State) (p h : Nat) : Bool :=
  s.slotFree h || (s.eventOpen h && ((s.hart h).run == .running && s.runPrio h < p || (s.hart h).run.leaving))

/-- Does a launch's next group go before a saved task for a slot: the higher effective priority, and, against a task that has yielded
with the same priority, the earlier arrival (R57, R108, R303). -/
def State.groupBefore (s : State) (l : Launch) (t : Nat) (v : Saved) : Bool :=
  s.savedPrio t < s.groupPrio l || (v.yielded && s.savedPrio t == s.groupPrio l && l.subm ≤ v.since)

/-- No saved task that is ready to be restored has a claim on a slot against a launch's next group (R57, R108). -/
def State.unclaimed (s : State) (l : Launch) (h : Nat) : Bool :=
  s.sched.tasks.all (fun e => e.2.hart != h || e.2.saved.all (fun v => !v.ready || s.groupBefore l e.1 v))

/-- Frames of the pool in use (R288: one a task). -/
def State.freeFrames (s : State) : List Nat :=
  (List.range s.sched.nfr).filter (fun n => !s.sched.tasks.any (fun e => e.2.frame == n))

/-- Can the next group of a launch be placed on a group of its level, with slots that pass a test (R301). -/
def State.canPlace (s : State) (seq : Nat) (l : Launch) (place : Nat) (slot : Nat → Bool) : Bool :=
  let ms := s.members l.par.level place
  let cs := (ms.map coreOf).dedup
  !ms.isEmpty && ms.all (fun h => slot h && s.unclaimed l h) && ms.length ≤ s.freeFrames.length &&
  cs.all (fun c => s.coreOpen c && s.coreFits seq l c) &&
  ((cs.map (· / 8)).dedup).all (s.vaultFits seq l) && ((cs.map towerOf).dedup).all (s.towerFits seq l)

/-- Places of a level that hold a working hart. -/
def State.places (s : State) (level : Nat) : List Nat :=
  ((s.workers.flatMap (fun c => [4 * c, 4 * c + 1, 4 * c + 2, 4 * c + 3])).map (placeOf level)).dedup

/-- Can a launch never be placed: no group of its level has harts within the frame pool (R301). (DEDUCED, log entry 38) -/
def State.neverFits (s : State) (l : Launch) : Bool :=
  (s.places l.par.level).all (fun p => s.sched.nfr < (s.members l.par.level p).length)

/-- Is a core retirement decided: launches that have not started wait for it (R17). -/
def State.retiring (s : State) : Bool := s.workers.any (fun c => (s.core c).retireCore)

/-- Has a launch a group that may start by the order of its queue and R17. -/
def State.wants (s : State) (seq : Nat) (l : Launch) : Bool :=
  l.abort.isNone && l.next < l.par.groups && s.mayStart seq l && !(l.started == 0 && s.retiring)

/-- Does a launch go before another: the higher effective priority, then the earlier submission (R303). -/
def State.ahead (s : State) (l : Launch) (seq : Nat) (k : Launch) (kseq : Nat) : Bool :=
  s.groupPrio k < s.groupPrio l || (s.groupPrio k == s.groupPrio l && (l.subm < k.subm || (l.subm == k.subm && seq < kseq)))

/-- Is there a launch that goes first and could take a slot of the place (R303). -/
def State.outranked (s : State) (seq : Nat) (l : Launch) (place : Nat) : Bool :=
  let ms := s.members l.par.level place
  s.sched.launches.any (fun e => e.1 != seq && s.ahead e.2 e.1 l seq && s.wants e.1 e.2 &&
    ((ms.map (placeOf e.2.par.level)).dedup).any (fun p => s.canPlace e.1 e.2 p s.slotFree))

/-- Is a launch's next group about to take the slot of hart h before a saved task: it wants to start, goes first, and its place there is
free or can be freed (R301, R303, R304). -/
def State.slotWanted (s : State) (h t : Nat) (v : Saved) : Bool :=
  s.sched.launches.any (fun e => s.wants e.1 e.2 && s.groupBefore e.2 t v &&
    s.canPlace e.1 e.2 (placeOf e.2.par.level h) (s.slotFreeable (s.groupPrio e.2)))

end Sys2Proof.Machine
end

