-- ==== Sys2Proof/Machine/ScalarQueue.lean ====
section
/-! DEFINITION. Queue registers from the scalar unit (R100, R101) and links (R218). Each instruction first waits until every
earlier vector instruction that names its queue has completed. -/

namespace Sys2Proof.Machine

/-- Does a queued vector instruction of a hart name queue q (R101). -/
def State.queueNamed (s : State) (h q : Nat) : Bool := (s.ctx h).vq.any (fun e => (s.entryQueues h e).contains q)

/-- QPUSH at hart h: append v to queue q, or wait for room (R100, R101). -/
def State.tryQpush (s : State) (h q : Nat) (v : Word) : State :=
  let s := s.beginScalar h
  if s.queueNamed h q then s.waitOn h .queueOrder
  else s.scalar h (.qpush q v) (do
    pushQueue h q v
    modify (fun s => s.endScalar h))

/-- QPOP at hart h: the head of queue q to rd, or wait for an entry (R100, R101). -/
def State.tryQpop (s : State) (h d q : Nat) : State :=
  let s := s.beginScalar h
  if s.queueNamed h q then s.waitOn h .queueOrder
  else s.scalar h (.qpop d q) (do
    let v ← popQueue h q
    modify (fun s => (s.setS64 h d v).endScalar h))

/-- Entries of queue q of hart h. A producer's linked queue counts the one FIFO (R218). (DEDUCED, log entry 48) -/
def State.queueCount (s : State) (h q : Nat) : Nat :=
  match s.linkFrom h q with
  | some l => if (s.hart l.ch).task = some l.ct then ((s.ctx l.ch).queue l.cq).ents.length else ((s.ctx h).queue q).ents.length
  | none => ((s.ctx h).queue q).ents.length

/-- QCNT at hart h (R100). -/
def State.tryQcnt (s : State) (h d q : Nat) : State :=
  let s := s.beginScalar h
  if s.queueNamed h q then s.waitOn h .queueOrder
  else (s.setS64 h d (w64 (s.queueCount h q))).endScalar h

/-- QPUSH q, rs1 (R100). -/
def execQpush (a : BitVec 7) (q : BitVec 7) (s : State) : Host.Outcome State Fault Refusal :=
  .next (s.tryQpush s.cur q.toNat (s.getS64 s.cur a.toNat))
/-- QPOP rd, q (R100). -/
def execQpop (d : BitVec 7) (q : BitVec 7) (s : State) : Host.Outcome State Fault Refusal :=
  .next (s.tryQpop s.cur d.toNat q.toNat)
/-- QCNT rd, q (R100). -/
def execQcnt (d : BitVec 7) (q : BitVec 7) (s : State) : Host.Outcome State Fault Refusal :=
  .next (s.tryQcnt s.cur d.toNat q.toNat)

/-- QPOP_ENTRY_ARRIVAL: a waiting QPOP completes when an entry has arrived (R101). -/
def execQpopEntryArrival (h : Nat) (s : State) : Host.Outcome State Fault Refusal :=
  .next (match (s.hart h).run, (s.hart h).wait with
  | .running, some (.qpop d q) => s.tryQpop h d q
  | _, _ => s)
/-- QPUSH_ROOM: a waiting QPUSH completes when its queue has room (R101). -/
def execQpushRoom (h : Nat) (s : State) : Host.Outcome State Fault Refusal :=
  .next (match (s.hart h).run, (s.hart h).wait with
  | .running, some (.qpush q v) => s.tryQpush h q v
  | _, _ => s)

/-! ### Links (R218) -/

/-- The task of a launch on a hart, or saved from it (R218). -/
def State.memberTask (s : State) (launch h : Nat) : Option Nat :=
  match (s.hart h).task with
  | some t => if (sfind s.sched.tasks t).any (fun k => k.launch == launch) then some t
    else (s.sched.tasks.find? (fun e => e.2.launch == launch && e.2.hart == h)).map (·.1)
  | none => (s.sched.tasks.find? (fun e => e.2.launch == launch && e.2.hart == h)).map (·.1)

/-- The link a QLINK operand asks for (R218 Table 10); none when it is a violation. Entries that PQ holds when the link is made stay in the
producer's own register. (DESIGN CHOICE, log entry 60) -/
def State.newLink (s : State) (h q v : Nat) : Option Link :=
  let pq := v % 16
  match s.physical (bits v 23 16), (s.hart h).task with
  | some core, some t =>
    let ph := 4 * core + bits v 5 4
    (match s.memberTask (s.seqOf h) ph with
    | some u =>
      if towerOf core = towerOf (coreOf h) && ((s.ctx h).queue q).ents.isEmpty && !s.streamDst h q && (s.linkTo h q).isNone &&
          (s.linkFrom h q).isNone && !s.links.any (fun l => l.ph == ph && l.pq == pq && l.pt == u) then
        some { ch := h, cq := q, ph := ph, pq := pq, ct := t, pt := u }
      else none
    | none => none)
  | _, _ => none

/-- Unlinking at hart h: it waits until the FIFO is empty (R218); a q that has no link is left as it is. (DESIGN CHOICE, log entry 60) -/
def State.tryUnlink (s : State) (h q : Nat) : State :=
  let s := s.beginScalar h
  if s.queueNamed h q then s.waitOn h .queueOrder
  else if ((s.ctx h).queue q).ents.isEmpty then
    ({ s with links := s.links.filter (fun l => !(l.ch == h && l.cq == q && some l.ct == (s.hart h).task)) } : State).endScalar h
  else if (s.linkTo h q).isNone then s.endScalar h
  else s.waitOn h (.unlink q)

/-- QLINK q, rs1: links or unlinks a queue register (R218). -/
def execQlink (q : BitVec 7) (a : BitVec 7) (s : State) : Host.Outcome State Fault Refusal :=
  let h := s.cur
  let v := (s.getS64 h a.toNat).toNat
  if s.queueNamed h q.toNat then .next ((s.beginScalar h).waitOn h .queueOrder)
  else if bits v 62 24 ≠ 0 || bits v 15 6 ≠ 0 then .next (s.freezeScalar h 0x26 0 0)
  else if v.testBit 63 then
    match s.newLink h q.toNat v with
    | some l => .next (({ s.beginScalar h with links := s.links ++ [l] } : State).endScalar h)
    | none => .next (s.freezeScalar h 0x26 0 0)
  else .next (s.tryUnlink h q.toNat)

end Sys2Proof.Machine
end

