-- ==== Sys2Proof/Machine/Sync.lean ====
section
/-! DEFINITION. Scalar atomics (R200, R201), fences (R202), barriers and progress words (R203 to R205), waits on engines and on
Electrum (R212, R217, R228, R229), cache and translation maintenance (R110, R111, R280). -/

namespace Sys2Proof.Machine

/-- Have all earlier accesses of both agents been performed: a fence of an order, direction all (R182, R184).
(DEDUCED, log entry 33) -/
def State.fenceAll (s : State) (h order : Nat) : Bool := s.fenceReady h order 3 (s.ctx h).vq

/-! ### AMO and AMOCAS -/

/-- An atomic at hart h (R201): alignment, the address, the release part, the access, the acquire part. -/
def amoAt (h d op n order scope : Nat) (va b c : Word) : M Unit := do
  if va.toNat % n ≠ 0 then throw (.trap 2 va)
  if 2 ^ 56 ≤ va.toNat then throw (.freeze 0x20 va.toNat 8)
  let s ← get
  if amoRel order && !s.fenceAll h (order - 1) then set (s.waitOn h .maint)
  else
    let p ← spiece h va.toNat n .atomic
    let s ← get
    if s.move.delayMiss && !p.window then
      set (s.waitOn h (.amo d op b c order scope (s.accessOf h p va.toNat 0)))
    else
      let (s, old) := s.amoPiece h op order scope va.toNat b c p
      set (s.finishRd h d (w64 old))

/-- AMO rd, rs1, op, order, scope (R200, R201). -/
def execAmo (d : BitVec 7) (a : BitVec 7) (p : BitVec 4) (z : BitVec 1) (o : BitVec 3) (s : BitVec 3) (st : State) :
    Host.Outcome State Fault Refusal :=
  let h := st.cur
  .next (st.scalar h .access
    (amoAt h d.toNat p.toNat (if z = 0 then 8 else 4) o.toNat s.toNat (st.getS64 h a.toNat) (st.getS64 h d.toNat) 0))
/-- AMOCAS rd, rs1, order, scope: compares with rd, writes rd + 1 (R201). -/
def execAmocas (d : BitVec 7) (a : BitVec 7) (z : BitVec 1) (o : BitVec 3) (s : BitVec 3) (st : State) :
    Host.Outcome State Fault Refusal :=
  let h := st.cur
  .next (st.scalar h .access
    (amoAt h d.toNat 15 (if z = 0 then 8 else 4) o.toNat s.toNat (st.getS64 h a.toNat) (st.getS64 h d.toNat)
      (st.getS64 h (d.toNat + 1))))

/-! ### FENCE -/

/-- Has what the copies are to apply for a release whose source set includes the vector agent been applied (R224). -/
def State.elecReleased (s : State) (h dir : Nat) : Bool :=
  !srcVector dir || ((s.ctx h).vq.all (fun e => !(e.major == 0x6F)) && s.elecDone h)

/-- The orders that a fence leaves for later accesses to keep: none, or, as the move chooses, that of its release part, so that a later
read passes an earlier write (R182; DEDUCED from R185, log entry 33). With the vector agent in its source set it waits first for the
Electrum writes it orders (R224). -/
def State.fenceLeaves (s : State) (h order dir id : Nat) : List Gate :=
  if s.move.delayMiss && (order = 1 || order = 2) && s.elecReleased h dir then [releaseOrder dir id] else []

/-- A fence at the scalar unit of hart h (R184). -/
def State.tryFence (s : State) (h scope order dir : Nat) : State :=
  let s := s.beginScalar h
  let gs := s.fenceLeaves h order dir (s.ctx h).nextId
  if (fenceOrders order dir (s.ctx h).nextId).all (fun g => gs.contains g || s.performed h (s.ctx h).vq g) then
    ((s.fenceMarks h scope order dir 0 (s.ctx h).pc.toNat (s.ctx h).nextId).keepOrders h gs).endScalar h
  else s.waitOn h (.fence scope order dir)

/-- FENCE scope, order, dir: vector→vector is a queue entry, the others execute at the scalar unit (R184, R202). -/
def execFence (s : BitVec 3) (o : BitVec 2) (t : BitVec 2) (st : State) : Host.Outcome State Fault Refusal :=
  if t = 2 then .next (issue (.fence s o t) (semFenceVV s.toNat o.toNat) st)
  else .next (st.tryFence st.cur s.toNat o.toNat t.toNat)

/-- FENCE_COMPLETE: a fence completes once the accesses it orders have been performed (R184): at the scalar unit, or as the
oldest entry of the queue. -/
def execFenceComplete (h : Nat) (s : State) : Host.Outcome State Fault Refusal :=
  .next (match (s.hart h).run, (s.hart h).wait with
  | .running, some (.fence scope order dir) => s.tryFence h scope order dir
  | _, _ => s.complete h (fun e => e.major == 0x69))

/-! ### Barriers -/

/-- The context of a task, on its hart or saved. -/
def State.taskCtx (s : State) (t : Nat) : Option Ctx :=
  (sfind s.sched.tasks t).bind (fun k =>
    if (s.hart k.hart).task = some t then some (s.ctx k.hart) else k.saved.map (·.ctx))

/-- Has a context arrived at generation g of a scope, or passed it (R203). -/
def Ctx.arrived (c : Ctx) (scope g : Nat) : Bool :=
  g ≤ sget c.barGen 0 scope || c.bar.any (fun b => b.scope == scope && b.gen == g && b.counted)

/-- Change the context of a task, on its hart or saved. -/
def State.modTaskCtx (s : State) (t : Nat) (f : Ctx → Ctx) : State :=
  match sfind s.sched.tasks t with
  | none => s
  | some k =>
    if (s.hart k.hart).task = some t then s.modCtx k.hart f
    else s.modTask t (fun k => { k with saved := k.saved.map (fun (v : Saved) => { v with ctx := f v.ctx }) })

/-- The tasks of the members of hart h's group at a scope: those of its launch's group, running or saved (R9, R203); none for a member
without one. -/
def State.barTasks (s : State) (h scope : Nat) : List (Option Nat) :=
  match s.taskOf h with
  | none => [none]
  | some me =>
    (s.members scope (placeOf scope h)).map (fun k =>
      (s.sched.tasks.find? (fun e => e.2.launch == me.launch && e.2.group == me.group && e.2.hart == k)).map (·.1))

/-- Has every member of hart h's group at a scope arrived at generation g (R9, R203). -/
def State.allArrived (s : State) (h scope g : Nat) : Bool :=
  (s.barTasks h scope).all (fun o => o.any (fun t => (s.taskCtx t).any (fun c => c.arrived scope g)))

/-- Generation g of hart h's group at a scope completes: every member that waits for it will depart, whether or not the others have
ended by then (R203). -/
def State.barDone (s : State) (h scope g : Nat) : State :=
  (s.barTasks h scope).foldl (fun s o => match o with
    | some t => s.modTaskCtx t (fun c => { c with bar := c.bar.map (fun (b : BarWait) =>
        if b.scope = scope && b.gen = g then { b with complete := true } else b) })
    | none => s) s

/-- Lets the tie of an arrival count: the hart's last copy on the channel has completed, or there is none (R189, R203). -/
def State.tieDone (s : State) (h : Nat) (tie : Option Nat) : Bool :=
  match tie with
  | none => true
  | some ch =>
    !(s.ctx h).vq.any (fun e => e.major == 0x6C && e.func4 == 0 && e.fieldD == ch) &&
    ((sfind (s.ctx h).cpys ch).getD ⟨0, 0⟩).state == 0

/-- A barrier at hart h (R203): the arrival is pending, then counted after its release, then departs with an acquire.
Of a scope and a tie that are both violations the scope is found first (DESIGN CHOICE, log entry 71). -/
def State.tryBar (s : State) (h scope : Nat) (tie : Word) : State :=
  let lvl := ((s.launchOf h).map (·.par.level)).getD 0
  if lvl < scope || 5 ≤ scope then s.freezeScalar h 0x26 0 0
  else if 8 < tie.toNat then s.freezeScalar h 0x25 0 0
  else
    let s := s.beginScalar h
    let c := s.ctx h
    let b : BarWait := c.bar.getD
      { scope := scope, gen := sget c.barGen 0 scope + 1, tie := if tie = 0 then none else some (tie.toNat - 1), counted := false, complete := false }
    let ok := b.counted || (s.fenceAll h 1 && s.tieDone h b.tie)
    let s := s.modCtx h (fun c => { c with bar := some { b with counted := ok } })
    if ok && (scope = 0 || b.complete || s.allArrived h scope b.gen) then
      let s := if scope = 0 || b.complete then s else s.barDone h scope b.gen
      let s := s.modCtx h (fun c => { c with bar := none, barGen := sset c.barGen 0 scope b.gen })
      s.endScalar h
    else s.waitOn h (.bar scope tie)

/-- BAR scope, rs1 (R203). -/
def execBar (s : BitVec 3) (a : BitVec 7) (st : State) : Host.Outcome State Fault Refusal :=
  .next (st.tryBar st.cur s.toNat (st.getS64 st.cur a.toNat))
/-- BARRIER_DEPARTURE: a waiting BAR departs once every member has arrived (R203). -/
def execBarrierDeparture (h : Nat) (s : State) : Host.Outcome State Fault Refusal :=
  .next (match (s.hart h).run, (s.hart h).wait with
  | .running, some (.bar scope tie) => s.tryBar h scope tie
  | _, _ => s)

/-! ### Progress words -/

/-- Address checks of R204 and R205: alignment traps, and the check of R84. -/
def wordCheck (a : Word) (acc : Nat) : M Unit := do
  if a.toNat % 8 ≠ 0 then throw (.trap 2 a)
  if 2 ^ 56 ≤ a.toNat then throw (.freeze 0x20 a.toNat acc)

/-- WAITGE at hart h (R204): one read; when it satisfies the threshold it is an acquire, else the hart waits. -/
def State.tryWaitge (s : State) (h scope : Nat) (a v : Word) : State :=
  (s.beginScalar h).scalar h (.waitge scope a v) (do
    wordCheck a 1
    let p ← spiece h a.toNat 8 .read
    let (s, x) := (← get).readPiece h a.toNat p
    set s
    if x < v.toNat then throw .block
    modify (fun s => ((s.tagRead h scope 0 0 (s.ctx h).pc.toNat [p] a.toNat).acquireGate h).endScalar h))

/-- WAITGE rs1, rs2, scope (R204). -/
def execWaitge (s : BitVec 3) (a : BitVec 7) (b : BitVec 7) (st : State) : Host.Outcome State Fault Refusal :=
  .next (st.tryWaitge st.cur s.toNat (st.getS64 st.cur a.toNat) (st.getS64 st.cur b.toNat))
/-- WAITGE_SATISFIED: a read of a waiting WAITGE (R204). -/
def execWaitgeSatisfied (h : Nat) (s : State) : Host.Outcome State Fault Refusal :=
  .next (match (s.hart h).run, (s.hart h).wait with
  | .running, some (.waitge scope a v) => s.tryWaitge h scope a v
  | _, _ => s)

/-- WMPUB rs1, rs2, scope: a release, then the atomic unsigned maximum (R188, R205). -/
def execWmpub (s : BitVec 3) (a : BitVec 7) (b : BitVec 7) (st : State) : Host.Outcome State Fault Refusal :=
  let h := st.cur
  let va := st.getS64 h a.toNat
  .next (st.scalar h .access (do
    wordCheck va 8
    let s1 ← get
    if !s1.fenceAll h 1 then set (s1.waitOn h .maint)
    else
      let p ← spiece h va.toNat 8 .atomic
      let (s2, _) := (← get).amoPiece h 8 2 s.toNat va.toNat (st.getS64 h b.toNat) 0 p
      set (s2.finish h 4)))

/-- WMBIND k, rs1, rs2, scope (R205). -/
def execWmbind (k : BitVec 2) (s : BitVec 3) (a : BitVec 7) (b : BitVec 7) (st : State) : Host.Outcome State Fault Refusal :=
  let h := st.cur
  let va := st.getS64 h a.toNat
  .next (st.scalar h .access (do
    wordCheck va 1
    modify (fun s1 => (s1.modCtx h (fun c => { c with
      wmarks := sput c.wmarks k.toNat { addr := va.toNat, base := (st.getS64 h b.toNat).toNat, scope := s.toNat } })).finish h 4)))

/-! ### Waits on engines -/

/-- The status word of R212 Table 8. -/
def statusWord (x : CmdStat) : Word := w64 (x.state * 2 ^ 60 + x.count % 2 ^ 48)

/-- Is a CPY on channel ch of hart h still to dispatch (R212). -/
def State.cpyQueued (s : State) (h ch : Nat) : Bool :=
  (s.ctx h).vq.any (fun e => e.major == 0x6C && e.func4 == 0 && e.fieldD == ch)
/-- Is channel ch granted to the task of hart h (R208). -/
def State.hasChan (s : State) (h ch : Nat) : Bool := (s.launchOf h).any (fun l => l.par.chan.testBit ch)

/-- CWAIT at hart h (R212). (DEDUCED, log entry 49) -/
def State.tryCwait (s : State) (h d ch : Nat) (v : Word) : State :=
  if !s.hasChan h ch then s.freezeScalar h 0x24 0 0
  else
    let x := (sfind (s.ctx h).cpys ch).getD ⟨0, 0⟩
    if s.cpyQueued h ch || (x.state == 1 && x.count < v.toNat) then s.waitOn h (.cwait d ch v)
    else s.finishRd h d (statusWord x)

/-- CWAIT rd, ch, rs2 (R212). -/
def execCwait (d : BitVec 7) (c : BitVec 3) (b : BitVec 7) (s : State) : Host.Outcome State Fault Refusal :=
  .next (s.tryCwait s.cur d.toNat c.toNat (s.getS64 s.cur b.toNat))
/-- CWAIT_SATISFIED (R212). -/
def execCwaitSatisfied (h : Nat) (s : State) : Host.Outcome State Fault Refusal :=
  .next (match (s.hart h).run, (s.hart h).wait with
  | .running, some (.cwait d ch v) => s.tryCwait h d ch v
  | _, _ => s)
/-- CWP rd, ch: the status at once, after every earlier CPY on the channel has dispatched (R212). -/
def execCwp (d : BitVec 7) (c : BitVec 3) (s : State) : Host.Outcome State Fault Refusal :=
  .next (s.tryCwait s.cur d.toNat c.toNat 0)

/-- IWAIT at hart h (R217). (DEDUCED, log entry 49) -/
def State.tryIwait (s : State) (h d k : Nat) : State :=
  let x := (sfind (s.ctx h).istrs k).getD ⟨0, 0⟩
  if (s.ctx h).vq.any (fun e => e.major == 0x6E && e.fieldD == k) || x.state == 1 then s.waitOn h (.iwait d k)
  else s.finishRd h d (statusWord x)

/-- IWAIT rd, k (R217). -/
def execIwait (d : BitVec 7) (k : BitVec 2) (s : State) : Host.Outcome State Fault Refusal :=
  .next (s.tryIwait s.cur d.toNat k.toNat)
/-- IWAIT_SATISFIED (R217). -/
def execIwaitSatisfied (h : Nat) (s : State) : Host.Outcome State Fault Refusal :=
  .next (match (s.hart h).run, (s.hart h).wait with
  | .running, some (.iwait d k) => s.tryIwait h d k
  | _, _ => s)

/-! ### Electrum -/

/-- ESEQ rd (R228). -/
def execEseq (d : BitVec 7) (s : State) : Host.Outcome State Fault Refusal :=
  .next (s.finishRd s.cur d.toNat (w64 (s.eseq s.cur)))

/-- Does the condition of an EWAIT hold at the local replica (R229). -/
def ewaitHolds (h mode : Nat) (a v : Word) : M Bool := do
  if mode = 0 then
    let s ← get
    pure (v.toNat ≤ s.eseq h)
  else
    let n := if mode = 1 then 8 else 4
    if a.toNat % n ≠ 0 then throw (.trap 2 a)
    if a.toNat < elecBase || elecBase + elecSize < a.toNat + n then throw (.freeze 0x20 a.toNat 1)
    let x ← sread h a.toNat n
    pure (if mode = 1 then v.toNat ≤ x else sInt v.toNat 32 ≤ sInt x 32)

/-- EWAIT at hart h (R229). -/
def State.tryEwait (s : State) (h mode : Nat) (a v : Word) : State :=
  (s.beginScalar h).scalar h (.ewait mode a v) (do
    let ok ← ewaitHolds h mode a v
    if !ok then throw .block
    modify (fun s => ((if mode = 0 then s.sawElec h v.toNat else s).acquireGate h).endScalar h))

/-- EWAIT rs1, rs2, mode (R229). -/
def execEwait (m : BitVec 2) (a : BitVec 7) (b : BitVec 7) (s : State) : Host.Outcome State Fault Refusal :=
  .next (s.tryEwait s.cur m.toNat (s.getS64 s.cur a.toNat) (s.getS64 s.cur b.toNat))
/-- EWAIT_SATISFIED (R229). -/
def execEwaitSatisfied (h : Nat) (s : State) : Host.Outcome State Fault Refusal :=
  .next (match (s.hart h).run, (s.hart h).wait with
  | .running, some (.ewait m a v) => s.tryEwait h m a v
  | _, _ => s)

/-! ### Maintenance (R110, R111, R280) -/

/-- A valid leaf of an address space: first address, size, page address. -/
structure Leaf where
  va : Nat
  size : Nat
  pa : Nat

/-- Indexes of the table at t that memory lists as non-zero. -/
def tableIndexes (m : List Host.Cell) (t n : Nat) : List Nat :=
  ((m.filter (fun c => t ≤ c.1 && c.1 < t + 8 * n)).map (fun c => (c.1 - t) / 8)).dedup

/-- Cacheable leaves under a table that meet a range (R275, R277); a part of the range that does not translate is passed over
(DEDUCED, log entry 26). -/
def State.leaves (s : State) (lo hi : Nat) : Nat → Nat → Nat → List Leaf
  | lvl, t, va =>
    if !s.cacheable t then []
    else (tableIndexes s.mem t (if lvl = 4 then 255 else 512)).flatMap (fun i =>
      let base := va + i * pageSize lvl
      let p := s.rd (t + 8 * i) 8
      if base + pageSize lvl ≤ lo || hi ≤ base || !p.testBit 0 || pteBad p lvl then []
      else if p.testBit 3 then (if p.testBit 60 then [] else [⟨base, pageSize lvl, bits p 55 12 * 4096⟩])
      else match lvl with
        | 0 => []
        | l + 1 => s.leaves lo hi l (bits p 55 12 * 4096) base)

/-- Is a line of memory in a range of addresses, through some leaf (R110: every line that overlaps the range). -/
def lineIn (ls : List Leaf) (lo hi line : Nat) : Bool :=
  ls.any (fun l =>
    l.pa ≤ line * 64 && line * 64 < l.pa + l.size &&
    (let va := l.va + (line * 64 - l.pa); lo < va + 64 && va < hi))

/-- CLEAN of a line: its dirty copy is written back; a cache that held it in M keeps it in E (R110). (DEDUCED, log entry 46) -/
def State.cleanLine (s : State) (line : Nat) : State :=
  let s := s.writeBack line
  let d := s.dirOf line
  if d.st = 2 && s.dcOf d.own line = .M then s.setDc d.own line .E else s

/-- CDROP of a line: removed from every cache, its dirty data discarded (R110); a transaction of it ends first (R159). -/
def State.cdropLine (s : State) (line : Nat) : State :=
  let s := ((s.quietLine line).recall line).dropLine line
  let sb := sbOf (line * 64)
  match sfind s.llc sb with
  | some (p, v) =>
    let v := v &&& (0xF - 2 ^ (line % 4))
    if v = 0 then s.freeSb sb else { s with llc := sput s.llc sb (p, v) }
  | none => s

/-- Lines resident in the package's banks. -/
def State.residentLines (s : State) : List Nat :=
  s.llc.flatMap (fun e => ((s.sbLines e.1).filter (fun l => e.2.2.testBit (l % 4))))

/-- The effect of CLEAN (drop = false) or CDROP on a range (R110). -/
def State.maintain (s : State) (h lo n : Nat) (drop : Bool) : State :=
  if n = 0 then s
  else
    let root := s.rootOf h
    let ls := s.leaves lo (lo + n) 4 root 0
    if drop then (s.residentLines.filter (lineIn ls lo (lo + n))).foldl State.cdropLine s
    else (s.dirty.filter (lineIn ls lo (lo + n))).foldl State.cleanLine s

/-- CLEAN and CDROP: the fence, the checks, the effect (R110). A CDROP that is misaligned and has upper address bits set traps.
(DESIGN CHOICE, log entry 58) -/
def maintAt (h : Nat) (a n : Word) (drop : Bool) : M Unit := do
  let s ← get
  if !s.fenceAll h 2 then throw .block
  if drop && (a.toNat % 64 ≠ 0 || n.toNat % 64 ≠ 0) then throw (.trap 2 a)
  if 2 ^ 56 ≤ a.toNat then throw (.freeze 0x20 a.toNat 0)
  set ((s.maintain h a.toNat n.toNat drop).finish h 4)

/-- CLEAN or CDROP at hart h, which waits with its operands (R110). -/
def State.tryMaint (s : State) (h : Nat) (drop : Bool) (a n : Word) : State := s.scalar h (.clean drop a n) (maintAt h a n drop)

/-- CLEAN rs1, rs2 (R110). -/
def execClean (a : BitVec 7) (b : BitVec 7) (s : State) : Host.Outcome State Fault Refusal :=
  .next (s.tryMaint s.cur false (s.getS64 s.cur a.toNat) (s.getS64 s.cur b.toNat))
/-- CDROP rs1, rs2 (R110). -/
def execCdrop (a : BitVec 7) (b : BitVec 7) (s : State) : Host.Outcome State Fault Refusal :=
  .next (s.tryMaint s.cur true (s.getS64 s.cur a.toNat) (s.getS64 s.cur b.toNat))

/-- Walkers of the package: one a working core, one an indirect-stream engine, those of the requesters and of the scheduler (R278, R314, R297). -/
def State.walkers (s : State) : List Nat := s.workers ++ (List.range 32).map (· + 256) ++ [512, 513]

/-- Does a cached translation map an address of a range (R279). -/
def Tlb.meets (e : Tlb) (lo n : Nat) : Bool :=
  n != 0 && e.va * pageSize e.lvl < lo + n && lo < (e.va + 1) * pageSize e.lvl

/-- A walker drops the translations of an address space for a range, and acknowledges to hart h (R280). -/
def State.dropTlb (s : State) (w root lo n : Nat) : State :=
  s.setTlb w ((s.tlbOf w).filter (fun e => !(e.root == root && e.meets lo n)))

/-- Does a walker hold a translation of a range. -/
def State.tlbHolds (s : State) (root lo n w : Nat) : Bool := (s.tlbOf w).any (fun e => e.root == root && e.meets lo n)

/-- Does an access in flight use a translation that the invalidation of a range drops at a walker: one of the range itself, or of a
page that meets the range (R279, R280). -/
def State.usesDropped (s : State) (root lo n w : Nat) (a : Pend) : Bool :=
  a.root == root && a.loc < 2 ^ 56 && n != 0 &&
  (a.va < lo + n && lo < a.va + a.size ||
   (s.tlbOf w).any (fun e => e.root == root && e.meets lo n && e.meets a.va a.size))

/-- Is an access in flight that used a translation of a range at a walker, whichever task made it: it is performed before the walker
acknowledges (R280). -/
def State.walkerBusy (s : State) (root lo n w : Nat) : Bool :=
  w < 256 && [0, 1, 2, 3].any (fun k =>
    let x := s.hart (4 * w + k)
    let hit := s.usesDropped root lo n w
    (x.pend.any hit || x.load.any (fun l => hit l.2.2) || (match x.wait with
      | some (.amo _ _ _ _ _ _ a) => hit a
      | _ => false)))

/-- A row in progress that an invalidation makes start over: nothing of it has been appended to a queue (R281). One that has been appended in
part goes on with what it has read (DESIGN CHOICE, log entry 75). -/
def Istr.restarted (x : Istr) : Istr :=
  if x.unit ≠ 0 && (wnth x.words 1).testBit 35 then x else { x with unit := 0, idx := none, buf := [] }

/-- An invalidation of an address space reaches the work in flight at a walker (R281): a vector entry keeps its committed prefix
and discards the work above it, an indirect stream starts its row over; a copy channel and a sparse stream go on with their next
byte or coordinate. -/
def State.discardWork (s : State) (root w : Nat) : State :=
  if w < 256 then
    [4 * w, 4 * w + 1, 4 * w + 2, 4 * w + 3].foldl (fun s h =>
      if s.rootOf h = root && (s.ctx h).vq.any (·.accesses) then
        s.modCtx h (fun c => { c with vq := c.vq.map (fun e => if e.accesses then { e with reach := [], held := [] } else e) })
      else s) s
  else if (s.engine (w - 256)).isEmpty then s
  else
    s.setEngine (w - 256) ((s.engine (w - 256)).map (fun x =>
      if (sfind s.sched.launches x.launch).any (·.root == root) then x.restarted else x))

/-- TLBINV: the right, the fence, the invalidation (R111, R280). When the move leaves it in flight the walkers acknowledge one
by one. -/
def tlbinvAt (h : Nat) (a n : Word) : M Unit := do
  let s ← get
  if !(s.launchOf h).any (·.tlbm) then throw (.freeze 0x24 0 0)
  if !s.fenceAll h 3 then throw .block
  let root := s.rootOf h
  if s.move.delayMiss then
    set ((s.modHart h (fun x => { x with inval := some (a.toNat, n.toNat, s.walkers) })).waitOn h .tlbinv)
  else if s.walkers.any (s.walkerBusy root a.toNat n.toNat) then throw .block
  else
    let s := s.walkers.foldl (fun s w =>
      (if s.tlbHolds root a.toNat n.toNat w then s.dropTlb w root a.toNat n.toNat else s).discardWork root w) s
    set (s.finish h 4)

/-- TLBINV rs1, rs2 (R111, R280). -/
def execTlbinv (a : BitVec 7) (b : BitVec 7) (s : State) : Host.Outcome State Fault Refusal :=
  .next (s.scalar s.cur .maint (tlbinvAt s.cur (s.getS64 s.cur a.toNat) (s.getS64 s.cur b.toNat)))

/-- WALKER_INVALIDATE: a walker serves the invalidations sent to it, and acknowledges them (R280, R281). -/
def execWalkerInvalidate (walker : Nat) (s : State) : Host.Outcome State Fault Refusal :=
  .next ((s.harts.map (·.1)).dedup.foldl (fun s h =>
    match (s.hart h).inval with
    | some (a, n, ws) =>
      if ws.contains walker && !s.walkerBusy (s.rootOf h) a n walker then
        ((s.dropTlb walker (s.rootOf h) a n).discardWork (s.rootOf h) walker).modHart h (fun x => { x with inval := some (a, n, ws.erase walker) })
      else s
    | none => s) s)

/-- TLBINV_COMPLETE: every walker has acknowledged (R280). -/
def execTlbinvComplete (h : Nat) (s : State) : Host.Outcome State Fault Refusal :=
  .next (match (s.hart h).run, (s.hart h).wait, (s.hart h).inval with
  | .running, some .tlbinv, some (_, _, []) =>
    (s.modHart h (fun x => { x with inval := none })).finish h 4
  | _, _, _ => s)

end Sys2Proof.Machine
end

