-- ==== Sys2Proof/Machine/Tasks.lean ====
section
/-! DEFINITION. Tasks: their priorities (R303), their end (R109, R302), their kill (R293, R310), and the use of a core's shadow
bank by spills and restores (R62, R288 to R290). -/

namespace Sys2Proof.Machine

/-! ### Grants -/

/-- Has a launch a task on a core, or an engine command a task of it has issued there (R302). -/
def State.usesCore (s : State) (l core : Nat) : Bool :=
  s.sched.tasks.any (fun e => e.2.launch == l && coreOf e.2.hart == core) ||
  (s.core core).chans.any (fun e => e.2.owner.isSome && e.2.launch == l) ||
  (s.core core).streams.any (fun e => e.2.owner.isSome && e.2.launch == l) ||
  s.engines.any (fun e => e.2.any (fun x => x.launch == l && coreOf x.hart == core))

/-- The end of a launch's grant on a core, and in its tower when that was the last core (R302). -/
def Launch.dropCore (l : Launch) (core : Nat) : Launch :=
  let rows := serase l.rows core
  { l with rows := rows,
           towers := if rows.any (fun e => towerOf e.1 == towerOf core) then l.towers else serase l.towers (towerOf core) }

/-- End a launch's grant on a core once nothing of it is left there (R302). -/
def State.endGrant (s : State) (l core : Nat) : State :=
  if s.usesCore l core then s else s.modLaunch l (fun x => x.dropCore core)

/-! ### The end of a task -/

/-- A task leaves the machine: its hart slot, its place in the shadow bank, its links and its frame are free (R109, R293,
R302). Its stores in flight are performed all the same. -/
def State.removeTask (s : State) (t : Nat) : State :=
  match sfind s.sched.tasks t with
  | none => s
  | some k =>
    let c := coreOf k.hart
    let s := if (s.hart k.hart).task = some t then s.setHart k.hart (s.hart k.hart).vacant else s
    let s := if (s.core c).bank = .outgoing t || (s.core c).bank = .staging t then
        s.modCore c (fun x => { x with bank := .empty }) else s
    let s := { s with links := s.links.filter (fun l => l.ct != t && l.pt != t),
                      sched := { s.sched with tasks := serase s.sched.tasks t } }
    State.endGrant (s.modLaunch k.launch (fun l => { l with ended := l.ended + 1 })) k.launch c

/-- The engine commands of a task stop (R293). -/
def State.stopEngines (s : State) (h t : Nat) : State :=
  let own (o : Option (Nat × Nat)) : Bool := o == some (h, t)
  let s := s.modCore (coreOf h) (fun k => { k with
    chans := k.chans.filter (fun e => !own e.2.owner),
    streams := k.streams.filter (fun e => !own e.2.owner) })
  let l := s.engines.map (fun e => (e.1, e.2.filter (fun x => !(x.hart == h && x.task == t))))
  { s with engines := l.filter (fun e => !e.2.isEmpty) }

/-- The stop request that a kill makes of a running hart: its event 0x0011, of which nothing but the trace and the count remains
(R294). -/
def State.stopForKill (s : State) (h : Nat) : State :=
  if (s.hart h).run = .running then
    ((s.settleLoad h).trace h 4 0 0 0x11 (s.ctx h).pc.toNat (s.headPtrs h)).count h 12 1
  else s

/-- A task is killed: its context is discarded, its engine commands stop, its slot returns to the scheduler (R293, R310).
(DEDUCED, log entry 36) -/
def State.killTask (s : State) (t : Nat) : State :=
  match sfind s.sched.tasks t with
  | none => s
  | some k =>
    let s := if (s.hart k.hart).task = some t then ((s.stopForKill k.hart).partialTile k.hart).unwait k.hart else s
    (s.stopEngines k.hart t).removeTask t

/-! ### The shadow bank -/

/-- Saved tasks of a core that may be staged: their spill is complete, they are ready, the core's layer is active, and their slot is
idle or runs a task of lower effective priority that is not frozen, and no group takes it first (R231, R288, R289, R303, R304). -/
def State.stageable (s : State) (core : Nat) : List Nat :=
  if !(s.tower (towerOf core)).activeAt (layerOf core) then []
  else
    (s.sched.tasks.filter (fun e => coreOf e.2.hart == core &&
      (match e.2.saved with
       | some v => v.ready && v.spilled &&
          ((s.hart e.2.hart).task.isNone ||
           ((s.hart e.2.hart).run == .running && s.runPrio e.2.hart < s.savedPrio e.1 && s.eventOpen e.2.hart)) &&
          !s.slotWanted e.2.hart e.1 v
       | none => false))).map (·.1)

/-- Time at which a task was saved. -/
def State.savedSince (s : State) (t : Nat) : Nat :=
  ((sfind s.sched.tasks t).bind (fun k => k.saved.map (·.since))).getD 0

/-- Does task a go before task b: the higher effective priority, then the earlier arrival (R303). -/
def State.before (s : State) (a b : Nat) : Bool :=
  s.savedPrio b < s.savedPrio a || (s.savedPrio a == s.savedPrio b && s.savedSince a ≤ s.savedSince b)

/-- The first of a list of saved tasks by R303. -/
def State.firstSaved (s : State) (l : List Nat) : Option Nat :=
  match l with
  | [] => none
  | t :: u => some (u.foldl (fun a b => if s.before a b then a else b) t)

/-- Harts of a core that stopped in place while the bank was busy, in the order of their records (R290); one that stopped during a CLEAN or
CDROP stays (R110). -/
def State.stoppedHarts (s : State) (core : Nat) : List Nat :=
  let l := [4 * core, 4 * core + 1, 4 * core + 2, 4 * core + 3].filter (fun h =>
    (s.hart h).run.leaving && s.eventOpen h)
  let key (h : Nat) : Nat := (s.hart h).faultRec.getD 0
  l.foldr (fun h acc => acc.filter (fun k => key k < key h) ++ [h] ++ acc.filter (fun k => key h ≤ key k)) []

/-- A hart that stopped in place swaps out (R290). Only YIELD and an eviction stop a hart in place without a record; a task that
has yielded then waits as such. (DEDUCED, log entry 35) -/
def State.swapStopped (s : State) (h : Nat) : State :=
  match (s.hart h).run with
  | .stopped code => s.bankOut h code (s.hart h).faultRec.isNone (code == 0x10) (s.hart h).faultRec
  | _ => s

/-- An eviction: the context of a frozen hart goes to its frame with class 3; it is not ready to be restored (R293). -/
def State.evictHart (s : State) (h : Nat) : State :=
  match (s.hart h).run, (s.hart h).task with
  | .frozen code, some t =>
    let s := s.dropStaging h
    if (s.core (coreOf h)).bank ≠ .empty then s.modHart h (fun x => { x with evict := true })
    else
      let x := s.hart h
      let sv : Saved :=
        { ctx := x.ctx, code := code, cls := 3, ready := false, onRec := none, yielded := false, since := s.time, aged := 0,
          spilled := false, stamp := 0 }
      let s := (s.count h 12 1).modTask t (fun k => { k with saved := some sv })
      let s := s.setHart h x.vacant
      s.modCore (coreOf h) (fun k => { k with bank := .outgoing t })
  | _, _ => s

/-- An eviction that the debugger has asked for and that can take place: of a frozen hart, or of a running one, which is swapped out
with event 0x0011 (R293, R294). -/
def State.evictNow (s : State) (h : Nat) : State :=
  match (s.hart h).run with
  | .frozen _ => s.evictHart h
  | .running => (s.modHart h (fun x => { x with evict := false })).swapOut h 0x11 true false none
  | _ => s

/-- The bank of a core is free: the next hart that stopped in place swaps out, an eviction that waits takes place, or the next
saved task is staged (R62, R288 to R290, R293). (DEDUCED, log entry 35) -/
def State.kick (s : State) (core : Nat) : State :=
  if (s.core core).bank ≠ .empty then s
  else match s.stoppedHarts core with
    | h :: _ => s.swapStopped h
    | [] =>
      match [4 * core, 4 * core + 1, 4 * core + 2, 4 * core + 3].find? (fun h => (s.hart h).evict && s.eventOpen h) with
      | some h => s.evictNow h
      | none =>
        match s.firstSaved (s.stageable core) with
        | some t => s.modCore core (fun k => { k with bank := .staging t })
        | none => s

/-- The debugger's request to restore the evicted task t: it is staged once its slot allows, and comes back frozen (R293).
(DESIGN CHOICE, log entry 36) -/
def State.dbgRestore (s : State) (t : Nat) : State :=
  match sfind s.sched.tasks t with
  | some k =>
    if k.saved.any (fun v => v.cls == 3) then
      (s.modTask t (fun k => { k with saved := k.saved.map (fun v => { v with ready := true }) })).kick (coreOf k.hart)
    else s
  | none => s

/-- Frame header class and cause of a saved task, its context and the stamp of its spill. -/
def Saved.frame (v : Saved) (maxb : Nat) (s : State) (base : Nat) : State :=
  s.writeFrame base v.ctx maxb v.code v.cls v.stamp

/-- SPILL_COMPLETE: the outgoing context of a core is in its frame, and the bank is free (R288). -/
def State.spillDone (s : State) (core : Nat) : State :=
  match (s.core core).bank with
  | .outgoing t =>
    let s := s.modCore core (fun k => { k with bank := .empty })
    (match sfind s.sched.tasks t with
    | some k =>
      (match k.saved with
      | some v =>
        let v := { v with spilled := true, stamp := s.free }
        let s := v.frame (s.maxvl core) { s with free := s.free + 1 } (s.sched.frBase + frameSize * k.frame)
        s.modTask t (fun k => { k with saved := some v })
      | none => s)
    | none => s).kick core
  | _ => s

/-- The context a restore brings in: the saved one, or any when software has written the frame meanwhile (R71).
(DESIGN CHOICE, log entry 30) -/
def State.restored (s : State) (core : Nat) (k : Task) (v : Saved) : Ctx × State :=
  if s.frameIntact (s.sched.frBase + frameSize * k.frame) v.ctx (s.maxvl core) v.code v.cls v.stamp then (v.ctx, s)
  else (Config.freeContext s.free, { s with free := s.free + 1 })

/-- A staged context swaps in on its hart (R288, R289); one of class 3 comes back frozen (R293). -/
def State.swapIn (s : State) (core t : Nat) (k : Task) (v : Saved) : State :=
  let (c, s) := s.restored core k v
  let s := s.setHart k.hart
    { (s.hart k.hart).vacant with ctx := c, run := if v.cls = 3 then .frozen v.code else .running, task := some t }
  ((s.modTask t (fun k => { k with saved := none })).takeKept k.hart t).takeDue k.hart

/-- STAGING_COMPLETE: the staged context swaps in on its own hart; a task that runs there with a lower priority is exchanged
with it, and a staging that no longer has its slot is abandoned (R288, R289, R304). -/
def State.stagingDone (s : State) (core : Nat) : State :=
  match (s.core core).bank with
  | .staging t =>
    let s := s.modCore core (fun k => { k with bank := .empty })
    (match sfind s.sched.tasks t with
    | some k =>
      (match k.saved with
      | some v =>
        if (s.hart k.hart).task.isNone then (s.swapIn core t k v).kick core
        else if (s.stageable core).contains t then (s.swapOut k.hart 0x10 true false none).swapIn core t k v
        else s.kick core
      | none => s)
    | none => s.kick core)
  | _ => s

/-- SPILL_COMPLETE (R288). -/
def execSpillComplete (core : Nat) (s : State) : Host.Outcome State Fault Refusal := .next (s.spillDone core)
/-- STAGING_COMPLETE (R289). -/
def execStagingComplete (core : Nat) (s : State) : Host.Outcome State Fault Refusal := .next (s.stagingDone core)

end Sys2Proof.Machine
end

