-- ==== Sys2Proof/Machine/Faults.lean ====
section
/-! DEFINITION. Faults after they are raised: harts that wait on a held engine (R207, R294), the fault-buffer control words and
acknowledgements (R283, R286, R287), uncorrectable errors and exhausted links (R292, R317, R324, R326). -/

namespace Sys2Proof.Machine

/-! ### Harts that wait on a held engine -/

/-- The record a held engine waits for. -/
def Hold.heldBy : Hold → Option Nat
  | .fault n => some n
  | _ => none

/-- The record for which the engine that serves an indirect command of hart h waits; with k, the command in slot k (R214). -/
def State.istrHold (s : State) (h : Nat) (k : Option Nat) : Option Nat :=
  s.engines.findSome? (fun e =>
    if e.2.any (fun x => x.hart == h && some x.task == (s.hart h).task && k.all (· == x.k)) then
      e.2.head?.bind (fun x => x.hold.heldBy)
    else none)

/-- The record for which the engine behind an interlock entry of hart h waits. -/
def State.ownerHold (s : State) (h : Nat) : IlOwner → Option Nat
  | .channel c => ((s.core (coreOf h)).chan c).hold.heldBy
  | .stream st => ((s.core (coreOf h)).stream st).hold.heldBy
  | .istr g => if (s.engine g).any (fun x => x.hart == h && some x.task == (s.hart h).task) then
      (s.engine g).head?.bind (fun x => x.hold.heldBy) else none
  | _ => none

/-- Does the task on hart h own a command. -/
def State.owns (s : State) (h : Nat) (o : Option (Nat × Nat)) : Bool :=
  o.any (fun x => x.1 == h && some x.2 == (s.hart h).task)

/-- The record of a held engine that runs a command of hart h (R207). -/
def State.anyHold (s : State) (h : Nat) : Option Nat :=
  let k := s.core (coreOf h)
  (k.chans.findSome? (fun e => if s.owns h e.2.owner then e.2.hold.heldBy else none)).or
    ((k.streams.findSome? (fun e => if s.owns h e.2.owner then e.2.hold.heldBy else none)).or (s.istrHold h none))

/-- The record of a held stream or engine that feeds queue q of hart h. -/
def State.queueHold (s : State) (h q : Nat) : Option Nat :=
  ((s.core (coreOf h)).streams.findSome? (fun e => if e.2.q = q && s.owns h e.2.owner then e.2.hold.heldBy else none)).or
    (s.engines.findSome? (fun e =>
      if e.2.any (fun x => x.hart == h && some x.task == (s.hart h).task && (wnth x.words 1).testBit 35 &&
          bits (wnth x.words 1) 43 40 == q) then
        e.2.head?.bind (fun x => x.hold.heldBy)
      else none))

/-- The record of a held engine on which the oldest entry of a hart waits (R207). -/
def State.entryHold (s : State) (h : Nat) (e : Entry) : Option Nat :=
  let own : Option Nat := match e.major with
    | 0x6C => s.ownerHold h (.channel e.fieldD)
    | 0x6D => s.ownerHold h (.stream (e.func4 % 4))
    | 0x6E => s.istrHold h (some e.fieldD)
    | 0x69 => s.anyHold h
    | _ => none
  let lock : Option Nat :=
    if e.begun && e.sem.command.isNone then none
    else match e.sem.claimNow s h e with
      | none => none
      | some k =>
        let live := s.liveIlocks h
        if !k.some? then none
        else (live.findSome? (fun l => if s.ilockWaits h k l || 16 ≤ live.length then s.ownerHold h l.owner else none)).or
          (match k.owner with
           | .istr g => (s.engine g).head?.bind (fun x => x.hold.heldBy)
           | _ => none)
  let q := (s.entryQueues h e).findSome? (fun q => if ((s.ctx h).queue q).ents.isEmpty then s.queueHold h q else none)
  own.or (lock.or q)

/-- The record of a held engine on which the scalar unit of a hart waits (R207). -/
def State.waitHold (s : State) (h : Nat) : Option Nat :=
  match (s.hart h).wait with
  | some (.cwait _ ch _) => s.ownerHold h (.channel ch)
  | some (.iwait _ k) => s.istrHold h (some k)
  | some (.qpop _ q) => s.queueHold h q
  | some (.unlink q) => s.queueHold h q
  | some (.fence _ _ dir) => if srcVector dir then s.anyHold h else none
  | some (.bar _ _) => s.anyHold h
  | some .maint => s.anyHold h
  | some (.clean _ _ _) => s.anyHold h
  | some .exit => s.anyHold h
  | _ => none

/-- The record of the held engine on which a hart waits: its oldest entry or its scalar unit (R207). -/
def State.heldRec (s : State) (h : Nat) : Option Nat :=
  ((s.ctx h).vq.head?.bind (s.entryHold h)).or (s.waitHold h)

/-- ENGINE_HOLD_SWAP: a hart that waits on a held engine is swapped out; it is ready when the engine's record is acknowledged
(R207, R294). While the hart is frozen the event is held (R65). -/
def execEngineHoldSwap (h : Nat) (s : State) : Host.Outcome State Fault Refusal :=
  .next (match s.heldRec h, (s.hart h).run with
  | some n, .running => if (s.hart h).task.isSome && s.eventOpen h then s.swapOut h 0x14 false false (some n) else s
  | some _, .frozen _ => s.modHart h (fun x => { x with heldEvent := some 0x14 })
  | _, _ => s)

/-! ### The fault buffer -/

/-- Post every held record that now has room (R286). -/
def State.repostAll (s : State) : State := s.repost s.fb.held.length

/-- A write to FBBASE: performed only while HEAD = TAIL and no record is held (R283). -/
def State.writeFbBase (s : State) (v : Word) : State :=
  if s.fb.head = s.fb.tail && s.fb.held.isEmpty then
    { s with fb := { s.fb with base := bits v.toNat 55 12 * 4096, sz := v.toNat % 16 } }
  else s
/-- A write to FBCTL (R283, R286). -/
def State.writeFbCtl (s : State) (v : Word) : State :=
  let x := v.toNat
  ({ s with fb := { s.fb with on := x.testBit 2, ovie := x.testBit 1, pie := x.testBit 0 } } : State).repostAll
/-- A write to FBTAIL: discarded when HEAD − TAIL would exceed the ring (R283, R286). -/
def State.writeFbTail (s : State) (v : Word) : State :=
  let t := v.toNat % 2 ^ 32
  if s.fbSize < (s.fb.head + 2 ^ 32 - t) % 2 ^ 32 then s
  else ({ s with fb := { s.fb with tail := t } } : State).repostAll
/-- A write to FBOVF (R283). -/
def State.writeFbOvf (s : State) : State := { s with fb := { s.fb with ovf := 0 } }

/-- Does a write of value a to FBACK acknowledge the record posted with a SEQ (R287). -/
def acked (a seq : Nat) : Bool :=
  let d := (a + 2 ^ 32 - seq) % 2 ^ 32
  1 ≤ d && d ≤ 2 ^ 31

/-- An engine resumes when its record is among those acknowledged. -/
def Hold.ack (ns : List Nat) (x : Hold) : Hold :=
  match x with
  | .fault n => if ns.contains n then .run else x
  | _ => x

/-- A hart stopped in place resumes there when its record is acknowledged before it has swapped out (R290). -/
def Hart.ack (ns : List Nat) (x : Hart) : Hart :=
  match x.run with
  | .stopped _ => if x.faultRec.any ns.contains then { x with run := .running, faultRec := none } else x
  | _ => x
/-- The held engines of a core resume. -/
def Core.ack (ns : List Nat) (k : Core) : Core :=
  { k with chans := k.chans.map (fun c => (c.1, ({ c.2 with hold := c.2.hold.ack ns } : Channel))),
           streams := k.streams.map (fun c => (c.1, ({ c.2 with hold := c.2.hold.ack ns } : Stream))) }
/-- A saved task becomes ready when its record is acknowledged (R287). -/
def Task.ack (ns : List Nat) (k : Task) : Task :=
  { k with saved := k.saved.map (fun (v : Saved) =>
      if v.onRec.any ns.contains then { v with ready := true, onRec := none } else v) }

/-- The masters of acknowledged records resume: harts stopped in place, saved tasks, engines (R287, R290). A held request of a
requester goes on once its record is no longer outstanding (Machine/System.lean). -/
def State.resume (s : State) (ns : List Nat) : State :=
  let s : State := { s with
    harts := s.harts.map (fun (e : Nat × Hart) => (e.1, e.2.ack ns)),
    cores := s.cores.map (fun (e : Nat × Core) => (e.1, e.2.ack ns)),
    engines := s.engines.map (fun (e : Nat × List Istr) => (e.1, e.2.map (fun x => { x with hold := x.hold.ack ns }))),
    sched := { s.sched with tasks := s.sched.tasks.map (fun (e : Nat × Task) => (e.1, e.2.ack ns)) } }
  let s := s.harts.foldl (fun (s : State) e => s.takeDue e.1) s
  s.workers.foldl State.kick s

/-- A write to FBACK (R287). -/
def State.writeFbAck (s : State) (v : Word) : State :=
  let a := v.toNat % 2 ^ 32
  let (go, stay) := s.fb.out.partition (fun o => o.seq.any (acked a))
  let s := { s with fb := { s.fb with ack := a, out := stay } }
  if go.isEmpty then s else s.resume (go.map (·.num))

/-- FBBASE (R283). -/
def execFbbase (v : Word) (s : State) : Host.Outcome State Fault Refusal := .next (s.registerEvent (·.writeFbBase v))
/-- FBCTL (R283, R286). -/
def execFbctl (v : Word) (s : State) : Host.Outcome State Fault Refusal := .next (s.registerEvent (·.writeFbCtl v))
/-- FBTAIL (R283, R286). -/
def execFbtail (v : Word) (s : State) : Host.Outcome State Fault Refusal := .next (s.registerEvent (·.writeFbTail v))
/-- FBACK (R287). -/
def execFback (v : Word) (s : State) : Host.Outcome State Fault Refusal := .next (s.registerEvent (·.writeFbAck v))
/-- FBOVF: any write sets COUNT to 0 (R283). -/
def execFbovf (_ : Word) (s : State) : Host.Outcome State Fault Refusal := .next (s.registerEvent State.writeFbOvf)

/-! ### Uncorrectable errors and exhausted links -/

/-- An engine freezes with an event code at an access of its own (R207, R291). -/
def State.freezeEngine (s : State) (m : Master) (code va acc : Nat) : State :=
  match m with
  | .channel core c =>
    let x := (s.core core).chan c
    (match x.owner with
    | some (h, t) => if x.state = 1 then s.asTask t (fun s => s.chanStop h core c x (.freeze code va acc)) else s
    | none => s)
  | .stream core st =>
    let x := (s.core core).stream st
    (match x.owner with
    | some (h, t) => if x.hold ≠ .frozen then s.asTask t (fun s => s.streamStop h core st x (.freeze code va acc)) else s
    | none => s)
  | .engine e =>
    (match s.engine e with
    | x :: _ => if x.hold ≠ .frozen then s.asTask x.task (fun s => s.istrPut e x (some (.freeze code va acc))) else s
    | [] => s)
  | _ => s

/-- The entry of the requester table of a requester (R314). -/
def State.rqEntry (s : State) (r : Nat) : Nat := s.port.rqBase + 16 * r
/-- Send a completion to a requester. -/
def State.answer (s : State) (r : Nat) (err : Bool) (data : Nat) : State :=
  { s with port := { s.port with reply := (r, err, data) :: s.port.reply } }

/-- A requester freezes: its record is posted, FRZ is set in its entry, and its request completes with an error status (R314). -/
def State.freezeRequester (s : State) (r code va acc : Nat) : State :=
  let s := s.raiseRec { cause := code, master := .requester r, acc := acc, level := 7, va := va, lh := 0, core := 0, hart := 0, pc := 0 }
  let a := s.rqEntry r + 8
  (s.devWrite a 8 (s.devRead a 8 ||| 2)).answer r true 0

/-- The freeze of hart h at an access of its context c: of an entry of its queue, or of its scalar unit, whose access in flight names the
instruction that made it (R284, R292). -/
def State.dueFor (s : State) (h code : Nat) (a : ErrAccess) (c : Ctx) : DueStop :=
  let acc := accBit a.kind
  match a.entry.bind (fun k => c.vq[k]?) with
  | some e => { code := code, va := a.va, acc := acc, pc := e.addr, entry := some e.id, elem := a.elem }
  | none =>
    let x := s.hart h
    let fl := (if a.kind = .write then x.pend else (x.load.map (·.2.2)).toList).find? (fun p => p.va == a.va)
    { code := code, va := a.va, acc := acc, pc := ((fl.map (·.ins)).getD c.pc.toNat), entry := none, elem := 0 }

/-- The store in flight of hart h that an access in error is. -/
def State.errStore (s : State) (h : Nat) (a : ErrAccess) : Option Pend :=
  if a.kind = .write && a.entry.isNone then (s.hart h).pend.find? (fun p => p.va == a.va) else none
/-- It is not performed (R292). -/
def State.dropStore (s : State) (h : Nat) (a : ErrAccess) : State :=
  match s.errStore h a with
  | some p => s.modHart h (fun x => { x with pend := x.pend.erase p })
  | none => s

/-- The task whose access it is: that of a store in flight, which may have left the hart, else the one on the hart, or in the shadow bank
on its way from or to it. -/
def State.errTask (s : State) (h : Nat) (a : ErrAccess) : Option Nat :=
  match s.errStore h a with
  | some p => p.task
  | none => (s.hart h).task.or ((s.sched.tasks.find? (fun e => e.2.hart == h && e.2.saved.isSome &&
        ((s.core (coreOf h)).bank == .outgoing e.1 || (s.core (coreOf h)).bank == .staging e.1))).map (·.1))

/-- Hart h freezes at the access whose data is in error (R292): at an entry of its queue, with the elements below the consuming one
performed, or at its scalar unit. A load in flight stays so, for the release of the hart to try it again (R330); a store in flight is not
performed. (DEDUCED, log entry 39) -/
def State.freezeHartAt (s : State) (h code : Nat) (a : ErrAccess) : State :=
  let d := s.dueFor h code a (s.ctx h)
  let mine (p : Pend) : Bool := a.entry.isNone && p.va == a.va
  if a.kind = .write then (s.dropStore h a).freezeDue h d
  else if (s.hart h).load.any (fun l => mine l.2.2) then
    ((s.modHart h (fun x => { x with load := none })).freezeDue h d).modHart h (fun x => { x with load := (s.hart h).load })
  else s.freezeDue h d

/-- A freeze of the task whose access of hart h is in error takes effect once that task runs on its hart again (R294); a store is not
performed. -/
def State.deferStop (s : State) (h code : Nat) (a : ErrAccess) : State :=
  let due (c : Ctx) : Ctx := { c with dueStop := some (c.dueStop.getD (s.dueFor h code a c)) }
  let r := s.dropStore h a
  match s.errTask h a with
  | some t =>
    if (s.hart h).task = some t then r.modCtx h due
    else r.modTask t (fun k => { k with saved := k.saved.map (fun (v : Saved) => { v with ctx := due v.ctx }) })
  | none => r

/-- A master freezes with an event code before the data of an access of its own takes effect (R292, R317); a hart that does not run
does so once its task runs on it again (R294). (DEDUCED, log entry 39) -/
def State.freezeMaster (s : State) (m : Master) (code : Nat) (a : ErrAccess) : State :=
  match m with
  | .hart h =>
    if (s.hart h).run = .running && (s.hart h).task.isSome && s.errTask h a == (s.hart h).task then s.freezeHartAt h code a
    else s.deferStop h code a
  | .requester r => s.freezeRequester r code a.va (accBit a.kind)
  | _ => s.freezeEngine m code a.va (accBit a.kind)

/-- A unit is declared lasting (R324): a lane group or core is to be retired, another unit is reported on event vector 3. -/
def State.declareLasting (s : State) (u : ErrUnit) : State :=
  if s.ras.lasting.contains u then s
  else
    let s := { s with ras := { s.ras with lasting := s.ras.lasting ++ [u] } }
    match u with
    | .laneGroup c g => s.modCore c (fun k => { k with retire := k.retire ++ [g] })
    | .core c => s.modCore c (fun k => { k with retireCore := true })
    | _ => ({ s with ras := { s.ras with raslog := Config.unitNumber u } } : State).raiseEvent 3

/-- An error in context data during a swap, spill or restore kills the task in the bank, and its launch is aborted (R292,
R310 cause 4); the PC of its record is the task's saved program counter (DESIGN CHOICE, log entry 74). -/
def State.contextError (s : State) (core : Nat) : State :=
  let t : Option Nat := match (s.core core).bank with
    | .outgoing t => some t
    | .staging t => some t
    | .empty => none
  match t.bind (fun t => (sfind s.sched.tasks t).map (fun k => (t, k))) with
  | none => s
  | some (t, k) =>
    let pc := ((k.saved.map (·.ctx)).getD (s.ctx k.hart)).pc.toNat
    let s := s.raiseRec
      { cause := 0x28, master := .hart k.hart, acc := 0, level := 7, va := 0, lh := k.launch,
        core := s.logical core, hart := k.hart % 4, pc := pc }
    ((s.killTask t).abortLaunch k.launch 4).kick core

/-- The core a master belongs to. -/
def masterCore : Master → Option Nat
  | .hart h => some (coreOf h)
  | .channel c _ => some c
  | .stream c _ => some c
  | _ => none

/-- UNCORRECTABLE_ERROR (R292, R324): the consuming master freezes, or the task in the shadow bank is killed; the unit is lasting
at once. An error that a remote package reports, or a violation there, freezes the issuing master with cause 0x0029 and concerns
no unit of this package (R170, R326). -/
def execUncorrectableError (master : Master) (unit : ErrUnit) (place : ErrPlace) (s : State) : Host.Outcome State Fault Refusal :=
  .next (match place with
  | .remote acc => s.freezeMaster master 0x29 acc
  | .access acc => (s.declareLasting unit).freezeMaster master 0x28 acc
  | .context =>
    let s := s.declareLasting unit
    match masterCore master with
    | some c => s.contextError c
    | none => s)

/-- LINK_REPLAY_EXHAUSTED: an access whose link exhausts its replay freezes its issuing master (R317). -/
def execLinkReplayExhausted (access : LinkAccess) (s : State) : Host.Outcome State Fault Refusal :=
  .next (s.freezeMaster access.master 0x29 access.acc)

end Sys2Proof.Machine
end

