-- ==== Sys2Proof/Machine/Launch.lean ====
section
/-! DEFINITION. Launches: parameter blocks (R298 to R300), work queues (R296, R297), graphs (R305, R306), LAUNCH (R206, R307),
handles (R308). -/

namespace Sys2Proof.Machine

/-! ### Parameter blocks -/

/-- The fields of a parameter block (R298 Table 4). -/
def parseBlock (w : List Word) : LParams :=
  let x (k : Nat) : Nat := wnth w k
  { entry := x 0, handler := x 1, arg := w.getD 2 0, groups := bits (x 3) 63 32, irq := (x 3).testBit 9, dbg := (x 3).testBit 8,
    prio := bits (x 3) 6 4, level := x 3 % 8, spoff := bits (x 4) 46 40, spsz := bits (x 4) 38 32, acnt := bits (x 4) 29 16,
    quota := bits (x 4) 9 0, voff := bits (x 5) 46 40, vsz := bits (x 5) 38 32, tslot := bits (x 5) 19 16,
    chan := bits (x 5) 15 8, strm := bits (x 5) 3 0, esz := bits (x 6) 43 32, eoff := bits (x 6) 26 16, eslot := bits (x 6) 6 0,
    compl := x 7, vec := bits (x 8) 15 0 }

/-- Is a zero field of a parameter block non-zero (R298 Table 4). -/
def blockZero (w : List Word) : Bool :=
  let z (k hi lo : Nat) : Bool := bits (wnth w k) hi lo != 0
  z 0 63 56 || z 1 63 56 || z 3 31 10 || z 3 7 7 || z 3 3 3 || z 4 63 47 || z 4 39 39 || z 4 31 30 || z 4 15 10 ||
  z 5 63 47 || z 5 39 39 || z 5 31 20 || z 5 7 4 || z 6 63 44 || z 6 31 27 || z 6 15 7 || z 7 63 56 || z 7 2 0 || z 8 63 16 ||
  z 9 63 0 || z 10 63 0 || z 11 63 0 || z 12 63 0 || z 13 63 0 || z 14 63 0 || z 15 63 0

/-- Is a parameter block invalid (R299). -/
def blockBad (w : List Word) : Bool :=
  let p := parseBlock w
  blockZero w || 5 ≤ p.level || p.groups == 0 || p.entry % 4 != 0 || p.handler % 4 != 0 ||
  96 < p.spoff + p.spsz || 64 < p.voff + p.vsz || 2048 < p.eoff + p.esz || 12288 < p.acnt || 512 < p.quota ||
  ((p.eslot != 0 || p.esz != 0) && p.level < 3) || (p.esz != 0 && p.eslot == 0) || 64 < p.eslot

/-! ### Reads of the scheduler through an address space (R297) -/

/-- The scheduler's walker. -/
def schedWalker : Nat := 513

/-- The location of an access of the scheduler in an address space; it stops where the access would fault or be a violation. -/
def schedLoc (root va : Nat) (k : AccKind) : M Nat := do
  if 0xFF * 2 ^ 48 ≤ va then throw (.freeze 0x20 va 0)
  let x ← walk none schedWalker root va k 0 4 root
  match (← get).mapProblem x 8 k .engine with
  | some c => throw (.freeze c va 0)
  | none =>
    modify (fun s => s.quietAt x.pa 8)
    pure x.pa

/-- Read an N64 in an address space. -/
def schedRead (root va : Nat) : M Word := do
  let a ← schedLoc root va .read
  modify (fun s => s.bankRead a 8 false)
  pure (w64 ((← get).rd a 8))

/-- Read n words. -/
def schedWords (root va n : Nat) : M (List Word) := (List.range n).mapM (fun k => schedRead root ((va + 8 * k) % 2 ^ 64))

/-- Read the N32 at an address, within an aligned N64. -/
def schedRead32 (root va : Nat) : M Nat := do
  let x ← schedRead root (va / 8 * 8)
  pure (x.toNat / 2 ^ (8 * (va % 8)) % 2 ^ 32)

/-- What the scheduler makes of a read of its own: a value, an invalid entry, or it tries again later. -/
inductive Got (α : Type) where
  | value (x : α)
  | invalid
  | later

/-- Run a computation of the scheduler; an invalid one leaves the machine as it was. -/
def State.sched? {α : Type} (s : State) (m : M α) : Got α × State :=
  match m.run s with
  | .ok x s' => (.value x, s')
  | .error .block _ => (.later, s)
  | .error _ _ => (.invalid, s)

/-! ### Work queues -/

/-- Address of the descriptor of a queue (R296). -/
def State.wqAddr (s : State) (q : Nat) : Nat := s.sched.wqtBase + 32 * q
/-- A word of the descriptor of a queue. -/
def State.wqWord (s : State) (q k : Nat) : Nat := s.devRead (s.wqAddr q + 8 * k) 8
/-- HEAD of a queue. -/
def State.wqHead (s : State) (q : Nat) : Nat := s.wqWord q 2 % 2 ^ 32
/-- Entries the ring of a queue holds. -/
def State.wqSize (s : State) (q : Nat) : Nat := 2 ^ (s.wqWord q 0 % 16 + 4)
/-- EN of a queue. -/
def State.wqOn (s : State) (q : Nat) : Bool := (s.wqWord q 1).testBit 4
/-- ROOT of a queue. -/
def State.wqRoot (s : State) (q : Nat) : Nat := bits (s.wqWord q 1) 55 12 * 4096
/-- Raise HEAD to a value. -/
def State.setHead (s : State) (q n : Nat) : State := s.devWrite (s.wqAddr q + 16) 8 (n % 2 ^ 32)

/-! ### Handles -/

/-- The next SEQ, which skips 0 (R308). -/
def State.nextSeq (s : State) : Nat := if (s.sched.seq + 1) % 2 ^ 32 = 0 then 1 else (s.sched.seq + 1) % 2 ^ 32

/-- The handle of a launch or graph (R308). -/
def handleOf (seq origin : Nat) (device : Bool) : Word := w64 (b2n device * 2 ^ 48 + origin * 2 ^ 32 + seq)

/-- The time of the doorbell that made the entry at HEAD of a queue known (R297). -/
def State.bellTime (s : State) (q : Nat) : Nat :=
  (((s.wq q).bells.find? (fun b => 1 ≤ (b.1 + 2 ^ 32 - s.wqHead q) % 2 ^ 32 && (b.1 + 2 ^ 32 - s.wqHead q) % 2 ^ 32 ≤ 2 ^ 31)).map
    (·.2)).getD s.time

/-- The time of submission of a launch that is being made (R303): the doorbell of its queue entry, also for the node of a graph; the
time of its LAUNCH. (DEDUCED, log entry 38) -/
def State.submTime (s : State) : Source → Nat
  | .queue q => s.bellTime q
  | .node g _ => ((sfind s.sched.graphs g).map (·.subm)).getD s.time
  | .device => s.time

/-- Create a launch from a valid parameter block (R300, R308): its SEQ and the machine. -/
def State.newLaunch (s : State) (w : List Word) (maxp root : Nat) (tlbm : Bool) (src : Source) (origin : Nat) : Nat × State :=
  let seq := s.nextSeq
  let p := parseBlock w
  let l : Launch :=
    { handle := handleOf seq origin (src == .device), par := p, prio := min p.prio maxp, root := root, tlbm := tlbm, src := src,
      origin := origin, next := 0, started := 0, ended := 0, subm := s.submTime src, since := s.submTime src, aged := 0, rows := [], towers := [], abort := none }
  (seq, { s with sched := { s.sched with seq := seq, launches := sput s.sched.launches seq l },
                 port := { s.port with launched := true } })

/-! ### LAUNCH -/

/-- Device-side launches that have been created and not yet completed (R307). -/
def State.deviceLaunches (s : State) : Nat := s.sched.launches.countP (fun e => e.2.src == .device)

/-- LAUNCH at hart h (R206): alignment, the release, the block, the launch. -/
def launchAt (h d : Nat) (a : Word) : M Unit := do
  if a.toNat % 64 ≠ 0 then throw (.trap 2 a)
  let s ← get
  if !s.fenceAll h 1 then set (s.waitOn h .maint)
  else
    let w ← (List.range 16).mapM (fun k => do
      let x ← sread h (a + w64 (8 * k)).toNat 8
      pure (w64 x))
    if blockBad w then throw (.freeze 0x25 a.toNat 0)
    let s ← get
    match s.launchOf h with
    | none => set (s.finishRd h d 0)
    | some me =>
      if 4096 ≤ s.deviceLaunches then set (s.finishRd h d 0)
      else
        let origin := s.logical (coreOf h)
        let (seq, s) := s.newLaunch w me.prio me.root me.tlbm .device origin
        set (s.finishRd h d (handleOf seq origin true))

/-- LAUNCH rd, rs1 (R206, R307). -/
def execLaunch (d : BitVec 7) (a : BitVec 7) (s : State) : Host.Outcome State Fault Refusal :=
  .next (s.scalar s.cur .access (launchAt s.cur d.toNat (s.getS64 s.cur a.toNat)))

/-- A queue stops at entry idx (R297): EN is cleared, HEAD is left there, or where it is when it stands at an earlier entry already, and the
scheduler error interrupt is raised. (DEDUCED, log entry 37) -/
def State.stopQueue (s : State) (q idx : Nat) : State :=
  let a := s.wqAddr q + 8
  let w := s.devRead a 8
  let s := s.devWrite a 8 (if w.testBit 4 then w - 16 else w)
  let past := (s.wqHead q + 2 ^ 32 - idx) % 2 ^ 32
  let s := if past = 0 || 2 ^ 31 < past then s else (s.setHead q idx).modWq q (fun x => { x with ahead := x.ahead + past })
  s.raiseEvent 2

/-- A launch or graph of a queue has completed: its entry is gone. -/
def State.dropItem (s : State) (q seq : Nat) : State :=
  s.modWq q (fun x => { x with items := x.items.filter (fun i => match i.work with
    | .launch n => n != seq
    | .graph n => n != seq
    | .wait _ _ _ => true) })

/-! ### Graphs -/

/-- Is word 0 to 7 of a graph block invalid (R305). -/
def graphBad (w : List Word) : Bool :=
  wnth w 0 == 0 || 4095 < wnth w 0 || bits (wnth w 2) 63 17 != 0 ||
  wnth w 3 != 0 || wnth w 4 != 0 || wnth w 5 != 0 || wnth w 6 != 0 || wnth w 7 != 0

/-- Is a node invalid, its successors apart (R305 Table 6). -/
def nodeBad (w : List Word) : Bool :=
  bits (wnth w 2) 63 28 != 0 || bits (wnth w 2) 15 12 != 0 ||
  wnth w 4 != 0 || wnth w 5 != 0 || wnth w 6 != 0 || wnth w 7 != 0

/-- Read a node and its successor array (R305, R297). -/
def readNode (root a nn : Nat) : M GNode := do
  let w ← schedWords root a 8
  if nodeBad w then throw (.freeze 0x25 a 0)
  let ns := bits (wnth w 2) 27 16
  let sa := wnth w 3
  if ns ≠ 0 && sa % 4 ≠ 0 then throw (.freeze 0x25 a 0)
  let succ ← (List.range ns).mapM (fun k => schedRead32 root ((sa + 4 * k) % 2 ^ 64))
  if succ.any (fun n => nn ≤ n) then throw (.freeze 0x25 a 0)
  pure { block := wnth w 0, pred := wnth w 1, npred := bits (wnth w 2) 11 0, succ := succ, got := 0, state := .waiting }

/-- Read a graph block: words 0 to 2 and the nodes. -/
def readGraph (root a : Nat) : M (List Word × List GNode) := do
  if a % 64 ≠ 0 then throw (.freeze 0x25 a 0)
  let w ← schedWords root a 8
  if graphBad w then throw (.freeze 0x25 a 0)
  let nodes ← (List.range (wnth w 0)).mapM (fun n => readNode root ((a + 64 + 64 * n) % 2 ^ 64) (wnth w 0))
  pure (w, nodes)

/-- Read a parameter block. -/
def readBlock (root a : Nat) : M (List Word) := do
  if a % 64 ≠ 0 then throw (.freeze 0x25 a 0)
  let w ← schedWords root a 16
  if blockBad w then throw (.freeze 0x25 a 0)
  pure w

/-- A node of a graph completes; it counts once toward each successor (R306), for each time that the node lists it (DESIGN CHOICE, log entry
77). -/
def Graph.nodeDone (g : Graph) (n : Nat) : Graph :=
  match g.nodes[n]? with
  | none => g
  | some x =>
    let nodes := g.nodes.set n { x with state := .done }
    { g with nodes := x.succ.foldl (fun l k => match l[k]? with
        | some y => l.set k { y with got := y.got + 1 }
        | none => l) nodes }

/-- Nodes that the completion of a node makes ready, in the order in which it counts toward its successors: the NPRED-th of their
predecessors completes with it (R306). -/
def Graph.becomeReady (g : Graph) (n : Nat) : List Nat :=
  match g.nodes[n]? with
  | none => []
  | some x =>
    (x.succ.foldl (fun (p : List GNode × List Nat) k => match p.1[k]? with
      | some y => (p.1.set k { y with got := y.got + 1 }, if y.state == .waiting && y.got + 1 == y.npred then p.2 ++ [k] else p.2)
      | none => p) (g.nodes.set n { x with state := .done }, [])).2

/-- Change a graph. -/
def State.modGraph (s : State) (g : Nat) (f : Graph → Graph) : State :=
  match sfind s.sched.graphs g with
  | some x => { s with sched := { s.sched with graphs := sput s.sched.graphs g (f x) } }
  | none => s

/-- The launch of a node whose predicate has passed: its block is read; an invalid one stops the queue (R297, R299, R306).
(DEDUCED, log entry 38) -/
def State.launchNode (s : State) (seq n : Nat) (g : Graph) (x : GNode) : State :=
  let put (st : NodeState) (s : State) : State :=
    s.modGraph seq (fun g => { g with nodes := g.nodes.set n { x with state := st } })
  match s.sched? (readBlock g.root x.block) with
  | (.later, s) => put .ready s
  | (.invalid, s) => (put .ready s).stopQueue g.wq (((s.itemOf g.wq seq).map (·.idx)).getD 0)
  | (.value b, s) =>
    let (k, s) := s.newLaunch b g.maxp g.root g.tlbm (.node seq n) g.wq
    put (.run k) s

/-- A node that is ready: its predicate is read, once; 0 completes it without a task, and its completion may make successors
ready, which are tried at the same instant (R187, R306). f bounds the depth. An unreadable predicate stops the queue (R297). -/
def State.nodeTry (seq : Nat) : Nat → State → Nat → State
  | 0, s, _ => s
  | f + 1, s, n =>
    match (sfind s.sched.graphs seq).bind (fun g => g.nodes[n]?.map (fun x => (g, x))) with
    | none => s
    | some (g, x) =>
      if g.abort.isSome || x.got < x.npred then s
      else match x.state with
        | .ready => s.launchNode seq n g x
        | .waiting =>
          let pred : M Bool := if x.pred = 0 then pure true else do
            if x.pred % 8 ≠ 0 then throw (.freeze 0x25 x.pred 0)
            pure ((← schedRead g.root x.pred) != 0)
          (match s.sched? pred with
          | (.later, s) => s
          | (.invalid, s) => s.stopQueue g.wq (((s.itemOf g.wq seq).map (·.idx)).getD 0)
          | (.value go, s) =>
            if go && x.block ≠ 0 then s.launchNode seq n g x
            else
              let s := s.modGraph seq (fun g => g.nodeDone n)
              (g.becomeReady n).foldl (nodeTry seq f) s)
        | _ => s

/-- Try nodes of a graph that have become ready. -/
def State.tryNodes (s : State) (seq : Nat) (g : Graph) (ns : List Nat) : State := ns.foldl (State.nodeTry seq g.nodes.length) s

/-- A node that ran completes: the successors that become ready are tried at that instant (R187, R306). -/
def State.closeNode (s : State) (seq n : Nat) : State :=
  match sfind s.sched.graphs seq with
  | none => s
  | some g => (s.modGraph seq (fun g => g.nodeDone n)).tryNodes seq g (g.becomeReady n)

/-- A node that stopped its queue, and that may go on now that the queue's EN is set again. -/
def State.nodeReady (s : State) (seq n : Nat) : State :=
  match sfind s.sched.graphs seq with
  | none => s
  | some g => if s.wqOn g.wq then s.tryNodes seq g [n] else s

/-- An entry among those taken from a ring: in the place of the one of its number, when that was taken before the queue stopped at it, else
after the others. -/
def insertItem (l : List WqItem) (x : WqItem) : List WqItem :=
  if l.any (fun i => i.idx == x.idx) then l.map (fun i => if i.idx = x.idx then x else i) else l ++ [x]

/-- Add the entry at HEAD to those taken from a queue, and raise HEAD (R297). (DEDUCED, log entry 37) -/
def State.takeItem (s : State) (q : Nat) (x : WqItem) : State :=
  (s.modWq q (fun w => { w with
    items := insertItem w.items x
    ahead := w.ahead - 1
    bells := w.bells.filter (fun b => (b.1 + 2 ^ 32 - x.idx) % 2 ^ 32 ≠ 1) })).setHead q (x.idx + 1)

/-- Take a ring entry whose words are w (R297, R298, R305). -/
def State.takeEntry (s : State) (q idx : Nat) (w : List Word) : State :=
  let root := s.wqRoot q
  let w1 := s.wqWord q 1
  let a := wnth w 1
  let ser := (wnth w 0).testBit 4
  match wnth w 0 % 16 with
  | 1 =>
    (match s.sched? (readBlock root a) with
    | (.value b, s) =>
      let (seq, s) := s.newLaunch b (w1 % 8) root (w1.testBit 5) (.queue q) q
      s.takeItem q { idx := idx, ser := ser, work := .launch seq }
    | (.invalid, s) => s.stopQueue q idx
    | (.later, s) => s)
  | 2 =>
    (match s.sched? (readGraph root a) with
    | (.value (b, nodes), s) =>
      let seq := s.nextSeq
      let g : Graph :=
        { handle := handleOf seq q false, wq := q, subm := s.bellTime q, root := root, tlbm := w1.testBit 5, maxp := w1 % 8, compl := wnth b 1,
          irq := (wnth b 2).testBit 16, vec := wnth b 2 % 2 ^ 16, nodes := nodes, abort := none }
      let s := { s with sched := { s.sched with seq := seq, graphs := sput s.sched.graphs seq g } }
      ((s.takeItem q { idx := idx, ser := ser, work := .graph seq }).tryNodes seq g
        ((List.range g.nodes.length).filter (fun n => g.nodes[n]?.any (fun x => x.npred == 0))))
    | (.invalid, s) => s.stopQueue q idx
    | (.later, s) => s)
  | _ => s.takeItem q { idx := idx, ser := ser, work := .wait a (wnth w 2) false }

/-- Is a ring entry invalid by itself (R297). -/
def ringBad (w : List Word) : Bool :=
  let k := wnth w 0 % 16
  wnth w 0 ≥ 32 || k == 0 || 3 < k || wnth w 3 != 0 || (k != 3 && wnth w 2 != 0) || (k == 3 && wnth w 1 % 8 != 0)

/-- RING_ENTRY_TAKE: the entry at HEAD of a queue with EN = 1 is read (R297). -/
def State.ringTake (s : State) (q : Nat) : State :=
  let head := s.wqHead q
  let x := s.wq q
  if !s.wqOn q || head = x.tail then s
  else if 0 < x.ahead && !x.items.any (fun i => i.idx == head && i.work.isWait) then
    (s.modWq q (fun w => { w with ahead := w.ahead - 1 })).setHead q (head + 1)
  else
    let ring := bits (s.wqWord q 0) 55 6 * 64
    let a := ring + 32 * (head % s.wqSize q)
    let w := (List.range 4).map (fun k => w64 (s.devRead (a + 8 * k) 8))
    if ringBad w then s.stopQueue q head else s.takeEntry q head w

/-- A wait entry of a queue reads its word, and completes when it has reached the threshold (R297). -/
def State.waitRead (s : State) (q : Nat) (i : WqItem) : State :=
  match i.work with
  | .wait a thr _ =>
    if !s.wqOn q || !s.itemMayStart q i.idx then s
    else
      (match s.sched? (schedRead (s.wqRoot q) a) with
      | (.value v, s) =>
        if thr ≤ v.toNat then s.modWq q (fun w => { w with items := w.items.erase i })
        else s.modWq q (fun w => { w with items := w.items.map (fun k => if k = i then { i with work := .wait a thr true } else k) })
      | (.invalid, s) => s.stopQueue q i.idx
      | (.later, s) => s)
  | _ => s

/-- WAIT_ENTRY_COMPLETE: the wait entries of a queue that may start read their words, in ring order (R297).
(DEDUCED, log entry 37) -/
def State.waitTry (s : State) (q : Nat) : State := (s.wq q).items.foldl (fun s i => s.waitRead q i) s

/-- RING_ENTRY_TAKE (R297). -/
def execRingEntryTake (wq : Nat) (s : State) : Host.Outcome State Fault Refusal := .next (s.ringTake wq)
/-- WAIT_ENTRY_COMPLETE (R297). -/
def execWaitEntryComplete (wq : Nat) (s : State) : Host.Outcome State Fault Refusal := .next (s.waitTry wq)

/-! ### Scheduler registers (R295) -/

/-- Is no launch in flight in the package (R295); a graph in flight counts as one (DESIGN CHOICE, log entry 76). -/
def State.quiet (s : State) : Bool := s.sched.launches.isEmpty && s.sched.graphs.isEmpty

/-- A write to WQTBASE (R295). -/
def State.writeWqtBase (s : State) (v : Word) : State :=
  if s.quiet then { s with sched := { s.sched with wqtBase := bits v.toNat 55 12 * 4096 } } else s
/-- A doorbell: a TAIL more than the ring's size beyond HEAD is discarded (R297); the time of the others is that of the submission of
the entries they add (R303). -/
def State.writeWqDb (s : State) (v : Word) : State :=
  let q := v.toNat % 2 ^ 16
  let tail := bits v.toNat 63 32
  if s.wqSize q < (tail + 2 ^ 32 - s.wqHead q) % 2 ^ 32 then s else s.modWq q (fun x => { x with tail := tail, bells := if tail = x.tail then x.bells else x.bells ++ [(tail, s.time)] })
/-- A write to FRPOOL (R295). -/
def State.writeFrPool (s : State) (v : Word) : State :=
  if s.quiet then
    { s with sched := { s.sched with frBase := bits v.toNat 55 20 * 2 ^ 20, nfr := min 1280 (v.toNat % 2048) } }
  else s
/-- A write to SCABORT (R295, R310 cause 3). -/
def State.writeScAbort (s : State) (v : Word) : State :=
  let s := s.sched.launches.foldl (fun s e => if e.2.handle = v then s.abortLaunch e.1 3 else s) s
  s.sched.graphs.foldl (fun s e => if e.2.handle = v then s.abortGraph e.1 3 else s) s

/-- WQTBASE (R295). -/
def execWqtbase (v : Word) (s : State) : Host.Outcome State Fault Refusal := .next (s.registerEvent (·.writeWqtBase v))
/-- WQDB (R297). -/
def execWqdb (v : Word) (s : State) : Host.Outcome State Fault Refusal := .next (s.registerEvent (·.writeWqDb v))
/-- FRPOOL (R295). -/
def execFrpool (v : Word) (s : State) : Host.Outcome State Fault Refusal := .next (s.registerEvent (·.writeFrPool v))
/-- SCABORT (R310). -/
def execScabort (v : Word) (s : State) : Host.Outcome State Fault Refusal := .next (s.registerEvent (·.writeScAbort v))

end Sys2Proof.Machine
end

