-- ==== Sys2Proof/Machine/Groups.lean ====
section
/-! DEFINITION. Placement and start of groups (R55 to R57, R219, R301, R302), ageing and pre-emption (R303, R304), YIELD (R108),
retirement and in-field tests of units (R17, R324, R325). -/

namespace Sys2Proof.Machine

/-! ### Grants (R302) -/

/-- Clear a range of memory that is granted, with the tags of its lines (R193, R302). -/
def State.clearRange (s : State) (a n : Nat) : State :=
  let s := s.devReplace a n []
  { s with tags := s.tags.filter (fun e => !(a / 64 ≤ e.1 && e.1 * 64 < a + n)) }

/-- Grant a core to a launch: clear its scratchpad range, tile slots and rows, and the vault range when the column is new to
it. (DESIGN CHOICE, log entry 34) -/
def State.grantCore (s : State) (seq c : Nat) : State :=
  match sfind s.sched.launches seq with
  | none => s
  | some l =>
    if l.hasCore c then s
    else
      let p := l.par
      let first := (s.rowFirst seq c p.acnt).getD 0
      let s := if p.spsz = 0 then s else s.clearRange (locSpad c (p.spoff * 4096)) (p.spsz * 4096)
      let s := if p.vsz = 0 || l.rows.any (fun e => e.1 / 8 == c / 8) then s
        else s.clearRange (locVault (c / 8) (p.voff * 2 ^ 20)) (p.vsz * 2 ^ 20)
      let lo := first * 256
      let hi := (first + p.acnt) * 256
      let s := s.modCore c (fun (k : Core) => { k with
        tiles := k.tiles.filter (fun e => !p.tslot.testBit e.1),
        cells := k.cells.filter (fun e => !(lo ≤ e.1 && e.1 < hi)),
        billon := k.billon.filter (fun e => !(lo ≤ e.1 && e.1 < hi)) })
      s.modLaunch seq (fun x => { x with rows := sput x.rows c first })

/-- Sum of the squares of the distances from each of an ascending list of slot numbers to the next, around the frame of 64. -/
def slotSpread (l : List Nat) : Nat :=
  match l with
  | [] => 0
  | a :: t => ((l.zip (t ++ [a + 64])).map (fun x => (x.2 - x.1) * (x.2 - x.1))).sum

/-- The first of a list of choices whose spread is the least: each a spread and its slot numbers. -/
def leastSpread (l : List (Nat × List Nat)) : Option (Nat × List Nat) :=
  l.foldl (fun b x => match b with
    | some y => if x.1 < y.1 then some x else b
    | none => some x) none

/-- Choices of slot numbers, newest first, with one number more: for each free number, the least spread choice that ends there. The
spread counts the distances between those chosen. -/
def spreadMore (free : List Nat) (rows : List (Nat × List Nat)) : List (Nat × List Nat) :=
  free.filterMap (fun b => leastSpread (rows.filterMap (fun r => match r.2 with
    | a :: _ => if a < b then some (r.1 + (b - a) * (b - a), b :: r.2) else none
    | [] => none)))

/-- The least spread choice of k of the free slot numbers, newest first, that begins with number a. -/
def spreadFrom (free : List Nat) (k a : Nat) : Option (Nat × List Nat) :=
  let rows := (List.range (k - 1)).foldl (fun rows _ => spreadMore free rows) [(0, [a])]
  leastSpread (rows.map (fun r => (r.1 + (a + 64 - r.2.headD a) * (a + 64 - r.2.headD a), r.2)))

/-- The k slot numbers that a launch receives of those free, ascending: the choice that lies the most evenly over the frame, its slotSpread
the least of all (R222). (DESIGN CHOICE, log entry 34) -/
def spreadSlots (free : List Nat) (k : Nat) : List Nat :=
  if free.length ≤ k then free
  else if k = 0 then []
  else ((leastSpread (free.filterMap (spreadFrom free k))).map (·.2.reverse)).getD []

/-- Grant a launch its Electrum slots and range in a tower; the range's clearing writes are to be sent (R219, R222). -/
def State.grantTower (s : State) (seq t : Nat) : State :=
  match sfind s.sched.launches seq with
  | none => s
  | some l =>
    if (sfind l.towers t).isSome || l.par.eslot = 0 then s
    else
      let used := (s.towerHolders seq t).flatMap (fun q => q.2.slots)
      let slots := spreadSlots ((List.range 64).filter (fun n => !used.contains n)) l.par.eslot
      s.modLaunch seq (fun x => { x with towers := sput x.towers t { slots := slots, last := none, clear := x.par.esz, clearEnd := none } })

/-- Has every copy that is awake applied the clearing writes of a launch in a tower (R219). -/
def State.cleared (s : State) (l : Launch) (t : Nat) : Bool :=
  match sfind l.towers t with
  | none => true
  | some x => x.clear == 0 && (match x.clearEnd with
    | none => true
    | some n => (List.range 9).all (fun k => !(s.tower t).awake k || n ≤ nth (s.tower t).applied k))

/-! ### GROUP_START -/

/-- The context a task starts with (R56). -/
def startCtx (l : Launch) (group index size : Nat) : Ctx :=
  { Ctx.init with
    pc := BitVec.ofNat 56 l.par.entry
    regs := sset (sset (sset (sset [] 0 1 (w64 group)) 0 2 (w64 index)) 0 3 (w64 size)) 0 4 l.par.arg }

/-- Start a task on a hart slot (R56, R68). -/
def State.startTask (s : State) (seq : Nat) (l : Launch) (place size index h : Nat) : State :=
  let t := s.sched.nextTask
  let k : Task := { launch := seq, group := l.next, index := index, size := size, hart := h, frame := s.freeFrames.headD 0,
                    place := place, saved := none }
  let s := s.setHart h { Hart.init with ctx := startCtx l l.next index size, task := some t, pend := (s.hart h).pend }
  { s with sched := { s.sched with nextTask := t + 1, tasks := sput s.sched.tasks t k } }

/-- Harts of a group that are placed and have not begun (R57, R219). -/
def State.waitingGroup (s : State) (seq place : Nat) : List Nat :=
  (s.sched.tasks.filter (fun e => e.2.launch == seq && e.2.place == place && (s.hart e.2.hart).task == some e.1 &&
    (s.hart e.2.hart).run == .idle)).map (fun e => e.2.hart)

/-- Every task of a placed group begins, all together, once the Electrum ranges are clear (R57, R219). -/
def State.beginGroup (s : State) (seq place : Nat) : State :=
  match sfind s.sched.launches seq with
  | none => s
  | some l =>
    let hs := s.waitingGroup seq place
    if ((hs.map (fun h => towerOf (coreOf h))).dedup).all (s.cleared l) then
      hs.foldl (fun s h => s.modHart h (fun x => { x with run := .running })) s
    else s

/-- Place the next group of a launch: its grants, its tasks (R301, R302). -/
def State.placeGroup (s : State) (seq : Nat) (l : Launch) (place : Nat) : State :=
  let ms := s.members l.par.level place
  let cs := (ms.map coreOf).dedup
  let s := cs.foldl (fun s c => s.grantCore seq c) s
  let s := ((cs.map towerOf).dedup).foldl (fun s t => s.grantTower seq t) s
  let s := ms.zipIdx.foldl (fun s m => s.startTask seq l place ms.length m.2 m.1) s
  (s.modLaunch seq (fun x => { x with next := x.next + 1, started := x.started + ms.length })).beginGroup seq place

/-- GROUP_START: the next group of a launch is placed on a group of its level, or a placed group begins (R301, R219); no group of a
launch whose abort has begun does (R310).
(DESIGN CHOICE, log entry 34) -/
def State.groupStart (s : State) (seq place : Nat) : State :=
  match sfind s.sched.launches seq with
  | none => s
  | some l =>
    if l.abort.isSome then s
    else if !(s.waitingGroup seq place).isEmpty then s.beginGroup seq place
    else if !s.wants seq l then s
    else if s.neverFits l then s.abortLaunch seq 5
    else if s.canPlace seq l place s.slotFree && !s.outranked seq l place then s.placeGroup seq l place
    else s

/-- GROUP_START (R301). -/
def execGroupStart (seq place : Nat) (s : State) : Host.Outcome State Fault Refusal := .next (s.groupStart seq place)

/-! ### Ageing and pre-emption -/

/-- PRIORITY_AGEING: a waiting group or saved task has waited another 2^20 cycles (R303). -/
def execPriorityAgeing (task : Bool) (key : Nat) (s : State) : Host.Outcome State Fault Refusal :=
  .next (if task then
    (match sfind s.sched.tasks key with
    | some k => (match k.saved with
      | some v => if (v.aged + 1) * 2 ^ 20 ≤ s.time - v.since then
          s.modTask key (fun k => { k with saved := some { v with aged := v.aged + 1 } }) else s
      | none => s)
    | none => s)
  else
    (match sfind s.sched.launches key with
    | some l => if l.next < l.par.groups && (l.aged + 1) * 2 ^ 20 ≤ s.time - l.since then
        s.modLaunch key (fun l => { l with aged := l.aged + 1 }) else s
    | none => s))

/-- The place where a launch's next group, blocked only for lack of hart slots, frees some: of those it can free, the one with the
fewest slots taken (R304). None when a place is free for it. (DESIGN CHOICE, log entry 34) -/
def State.placeToFree (s : State) (seq : Nat) (l : Launch) : Option Nat :=
  let ps := s.places l.par.level
  if ps.any (fun p => s.canPlace seq l p s.slotFree) then none
  else
    let taken (p : Nat) : Nat := (s.members l.par.level p).countP (fun h => !s.slotFree h)
    (ps.filter (fun p => s.canPlace seq l p (s.slotFreeable (s.groupPrio l)))).foldl
      (fun b p => match b with
        | some q => if taken p < taken q then some p else b
        | none => some p) none

/-- Does a group that wants to start need the slot of hart h, which a task of lower priority holds (R304). -/
def State.groupPreempts (s : State) (h : Nat) : Bool :=
  s.sched.launches.any (fun e =>
    s.wants e.1 e.2 && s.runPrio h < s.groupPrio e.2 && s.placeToFree e.1 e.2 == some (placeOf e.2.par.level h))

/-- Has hart h a ready saved task of a higher effective priority than the task on it (R304). -/
def State.savedPreempts (s : State) (h : Nat) : Bool :=
  s.sched.tasks.any (fun e => e.2.hart == h && e.2.saved.any (fun v => v.ready && v.spilled && v.cls != 3) &&
    s.runPrio h < s.savedPrio e.1)

/-- PREEMPTION: the task on a hart is swapped out for one of higher effective priority; while the hart is frozen the event is
held, while the bank is busy it waits, and so it does while a CLEAN or CDROP is under way (R62, R65, R110, R304). -/
def State.preempt (s : State) (h : Nat) : State :=
  if (s.hart h).task.isNone || !s.eventOpen h || !(s.groupPreempts h || s.savedPreempts h) then s
  else match (s.hart h).run with
    | .running =>
      let s1 := s.dropStaging h
      if (s1.core (coreOf h)).bank = .empty then s1.swapOut h 0x10 true false none else s
    | _ => s

/-- PREEMPTION (R304). -/
def execPreemption (h : Nat) (s : State) : Host.Outcome State Fault Refusal := .next (s.preempt h)

/-- Is a task of equal or higher priority ready and waiting for the slot of hart h (R108). (DEDUCED, log entry 35) -/
def State.yieldsTo (s : State) (h : Nat) : Bool :=
  let p := s.runPrio h
  s.sched.tasks.any (fun e => e.2.hart == h && e.2.saved.any (fun v => v.ready && v.cls != 3) && p ≤ s.savedPrio e.1) ||
  s.sched.launches.any (fun e => s.wants e.1 e.2 && p ≤ s.groupPrio e.2 &&
    s.canPlace e.1 e.2 (placeOf e.2.par.level h) (fun k => k == h || s.slotFreeable (s.groupPrio e.2) k))

/-- YIELD (R108): a pre-emption at the boundary after it, or no effect. -/
def execYield (s : State) : Host.Outcome State Fault Refusal :=
  let h := s.cur
  let s1 := s.finish h 4
  .next (if s.yieldsTo h then s1.swapOut h 0x10 true true none else s1)

/-! ### Retirement and tests (R17, R324, R325) -/

/-- Does a core hold no task: running, in the shadow bank, or saved (R17). -/
def State.coreEmpty (s : State) (c : Nat) : Bool :=
  [0, 1, 2, 3].all (fun k => (s.hart (4 * c + k)).task.isNone) && (s.core c).bank == .empty &&
  !s.sched.tasks.any (fun e => coreOf e.2.hart == c)

/-- Bytes 0 to 295 of a configuration record (R321 Table 4). -/
def recordBody (vers : Word) (mask : Nat) (lanes : Nat → Nat) : List Byte :=
  leBytes 8 vers.toNat ++ leBytes 32 mask ++ (List.range 256).map (fun c => BitVec.ofNat 8 (lanes c))

/-- The lane-group mask of a core in a record of the map in force: 0 for a core that is not working (R321). -/
def State.laneMask (s : State) (c : Nat) : Nat := if s.working c then (s.core c).lanes else 0

/-- Firmware writes a new configuration record: the map in force with VERS raised by 1, signed afresh (R321, R324).
(DEDUCED, log entry 41) -/
def State.newRecord (s : State) : State :=
  let b := recordBody (s.boot.cfgver + 1) s.coreMask s.laneMask
  let sig := (leBytes 384 (Config.rsaSign s.free b).toNat).reverse ++ (leBytes 16224 (Config.slhSign s.free b).toNat).reverse
  { s with boot := { s.boot with cfgver := s.boot.cfgver + 1, record := b ++ sig, accepted := b }, free := s.free + 1 }

/-- LANE_GROUP_RETIREMENT: it takes effect once the core holds no task (R17). The last lane group of a core, which leaves none (R15),
retires with the core itself (R321). Maps change once the package has booted (R318, R319). -/
def execLaneGroupRetirement (core group : Nat) (s : State) : Host.Outcome State Fault Refusal :=
  .next (if s.boot.done && (s.core core).retire.contains group && s.coreEmpty core then
    (let k := s.core core
     let lanes := if k.lanes.testBit group then k.lanes - 2 ^ group else k.lanes
     if lanes = 0 then s.modCore core (fun k => { k with retireCore := true, retire := [] })
     else (s.modCore core (fun k => { k with lanes := lanes, retire := k.retire.filter (· != group) })).newRecord)
  else s)

/-- Has a core a scalar access in flight: one of its harts' or a message of its cache. -/
def State.portIdle (s : State) (core : Nat) : Bool :=
  [0, 1, 2, 3].all (fun k => (s.hart (4 * core + k)).pend.isEmpty) &&
  !(s.toBank ++ s.toCore).any (fun p => p.core == core) && !s.txns.any (fun t => t.2.core == core || t.2.waiting.contains core)

/-- The caches of a core are emptied: its dirty lines go to their home banks, and it holds and shares no line (R156 to R158, R162). -/
def State.emptyCaches (s : State) (core : Nat) : State :=
  ((s.core core).dc.foldl (fun s e => s.dcDropLine core e.1) s).modCore core (fun k => { k with icache := [] })

/-- CORE_RETIREMENT: it takes effect once no launch has started and not completed (R17), and the core's accesses are performed; its caches
are emptied (R157). -/
def execCoreRetirement (core : Nat) (s : State) : Host.Outcome State Fault Refusal :=
  .next (if s.boot.done && (s.core core).retireCore && s.working core && s.coreEmpty core && s.portIdle core &&
      s.sched.launches.all (fun e => e.2.started == 0) then
    (let s := s.emptyCaches core
     ({ s.modCore core (fun k => { k with lanes := 0, retire := [], retireCore := false }) with
       coreMask := s.coreMask - 2 ^ core } : State).newRecord)
  else s)

/-- A write to TSTREQ: an in-field test of a core is requested (R325). -/
def State.writeTstReq (s : State) (v : Word) : State :=
  let s1 := { s with ras := { s.ras with tstreq := v.toNat } }
  match s.physical v.toNat with
  | some c => s1.modCore c (fun k => { k with test := true })
  | none => s1

/-- TSTREQ (R325). -/
def execTstreq (v : Word) (s : State) : Host.Outcome State Fault Refusal := .next (s.registerEvent (·.writeTstReq v))
/-- IN_FIELD_TEST_START: once the core holds no task, the test runs for 2^22 cycles (R325). -/
def execInFieldTestStart (core : Nat) (s : State) : Host.Outcome State Fault Refusal :=
  .next (if (s.core core).test && (s.core core).testing.isNone && s.coreEmpty core then
    s.modCore core (fun k => { k with testing := some (s.time + 2 ^ 22) }) else s)
/-- IN_FIELD_TEST_END: a core that passes returns to service, one that fails is retired (R325). (DESIGN CHOICE, log entry 54) -/
def execInFieldTestEnd (core : Nat) (pass : Bool) (s : State) : Host.Outcome State Fault Refusal :=
  .next (match (s.core core).testing with
  | some t => if t ≤ s.time then
      s.modCore core (fun k => { k with test := false, testing := none, retireCore := k.retireCore || !pass }) else s
  | none => s)

end Sys2Proof.Machine
end

