-- ==== Sys2Proof/Machine/Completion.lean ====
section
/-! DEFINITION. The end of tasks, launches and graphs: EXIT (R109), completion words and interrupts (R309, R311), aborts (R310),
graph nodes (R306, R187). -/

namespace Sys2Proof.Machine

/-! ### EXIT (R109) -/

/-- Open streams of the task on a hart that a fault holds. -/
def State.heldStreams (s : State) (h : Nat) : Bool :=
  (s.core (coreOf h)).streams.any (fun e => s.owns h e.2.owner && e.2.hold.heldBy.isSome)

/-- Step 2 of R109: the open streams close, the links end, and entries that arrive at the hart's queues are discarded.
(DEDUCED, log entry 24) -/
def State.exitClose (s : State) (h : Nat) : State :=
  let c := coreOf h
  let open_ := ((s.core c).streams.filter (fun e => s.owns h e.2.owner && e.2.hold == .run)).map (·.1)
  let s := open_.foldl (fun s st => s.closeStream h c st) s
  if s.heldStreams h then s
  else
    let t := (s.hart h).task
    ({ s with links := s.links.filter (fun l => !(some l.ct == t || some l.pt == t)) } : State).modCtx h
      (fun c => { c with exiting := 1 })

/-- EXIT at hart h: its five steps (R109). -/
def State.tryExit (s : State) (h : Nat) : State :=
  if !(s.ctx h).vq.isEmpty then s.waitOn h .exit
  else
    let s := if (s.ctx h).exiting = 0 then s.exitClose h else s
    if (s.ctx h).exiting = 0 || !s.enginesDone h || !s.fenceAll h 1 then s.waitOn h .exit
    else
      match (s.hart h).task with
      | none => s.waitOn h .exit
      | some t => ((s.count h 2 1).removeTask t).kick (coreOf h)

/-- EXIT: ends the task (R109). -/
def execExit (s : State) : Host.Outcome State Fault Refusal := .next (s.tryExit s.cur)
/-- EXIT_COMPLETE: a waiting EXIT ends its task once its engine commands and its release allow (R109). -/
def execExitComplete (h : Nat) (s : State) : Host.Outcome State Fault Refusal :=
  .next (match (s.hart h).run, (s.hart h).wait with
  | .running, some .exit => s.tryExit h
  | _, _ => s)

/-! ### Completion words (R309, R310) -/

/-- A completion word (R309 Table 7). -/
def complWord (st cause seq : Nat) : Nat := st * 2 ^ 60 + cause * 2 ^ 48 + seq

/-- Write a completion word, then raise the interrupt; a word that cannot be written raises event vector 2 as well (R309). None
while the line is in transaction. A word of a graph at an address that is no multiple of 8 is written there, where its first byte
translates (DESIGN CHOICE, log entry 78). -/
def State.report (s : State) (root compl word : Nat) (irq : Bool) (vec : Nat) : Option State :=
  let fin (s : State) : State := if irq then s.raiseCoalesced false vec else s
  if compl = 0 then some (fin s)
  else match s.sched? (schedLoc root compl .write) with
    | (.value a, s) => some (fin (s.devWrite a 8 word))
    | (.invalid, s) => some (fin (s.raiseEvent 2))
    | (.later, _) => none

/-- Nothing of a launch is left: its engine commands go, its grants end (R302, R310). -/
def State.dropLaunch (s : State) (seq : Nat) : State :=
  let s : State := { s with
    cores := s.cores.map (fun (e : Nat × Core) => (e.1, ({ e.2 with
      chans := e.2.chans.filter (fun c => !(c.2.owner.isSome && c.2.launch == seq)),
      streams := e.2.streams.filter (fun c => !(c.2.owner.isSome && c.2.launch == seq)) } : Core))),
    engines := (s.engines.map (fun (e : Nat × List Istr) => (e.1, e.2.filter (fun x => x.launch != seq)))).filter
      (fun e => !e.2.isEmpty) }
  { s with sched := { s.sched with launches := serase s.sched.launches seq } }

/-- A launch has left the machine: its queue entry or its graph node completes; an aborted node aborts its graph (R306, R310). -/
def State.closeSource (s : State) (seq : Nat) (src : Source) (aborted : Option Nat) : State :=
  match src with
  | .queue q => s.dropItem q seq
  | .device => s
  | .node g n =>
    match aborted with
    | some c => (s.abortGraph g c).modGraph g (fun x => x.nodeDone n)
    | none => s.closeNode g n

/-- The completion of a launch (R309). -/
def State.completeLaunch (s : State) (seq : Nat) (l : Launch) : State :=
  let s1 := s.dropLaunch seq
  match s1.report l.root l.par.compl (complWord 1 0 seq) l.par.irq l.par.vec with
  | some s2 => s2.closeSource seq l.src none
  | none => s

/-- The completion of a graph, through its own words (R309). -/
def State.completeGraph (s : State) (seq : Nat) (g : Graph) (st cause : Nat) : State :=
  let s1 : State := { s with sched := { s.sched with graphs := serase s.sched.graphs seq } }
  match s1.report g.root g.compl (complWord st cause seq) g.irq g.vec with
  | some s2 => s2.dropItem g.wq seq
  | none => s

/-- LAUNCH_COMPLETE: every task of every group of a launch has exited, or every node of a graph has completed or been skipped
(R309). -/
def execLaunchComplete (seq : Nat) (s : State) : Host.Outcome State Fault Refusal :=
  .next (match sfind s.sched.launches seq, sfind s.sched.graphs seq with
  | some l, _ =>
    if l.abort.isNone && l.next = l.par.groups && l.started = l.ended then s.completeLaunch seq l else s
  | none, some g =>
    if g.abort.isNone && g.nodes.all (fun n => n.state == .done) then s.completeGraph seq g 1 0 else s
  | none, none => s)

/-! ### Aborts (R310) -/

/-- Every task of a launch is killed, running, saved or frozen (R310). (DEDUCED, log entry 42) -/
def State.killAll (s : State) (seq : Nat) : State :=
  ((s.sched.tasks.filter (fun e => e.2.launch == seq)).map (fun e => (e.1, coreOf e.2.hart))).foldl
    (fun s e => (s.killTask e.1).kick e.2) s

/-- ABORT_COMPLETE: an abort that has begun ends (R310): its groups dropped, its tasks killed, its grants ended, its completion
word written with STATE 2. A graph waits for its launches. -/
def execAbortComplete (seq : Nat) (s : State) : Host.Outcome State Fault Refusal :=
  .next (match sfind s.sched.launches seq, sfind s.sched.graphs seq with
  | some l, _ =>
    (match l.abort with
    | none => s
    | some (cause, _) =>
      let s1 := ((s.modLaunch seq (fun x => { x with next := x.par.groups })).killAll seq).dropLaunch seq
      (match s1.report l.root l.par.compl (complWord 2 cause seq) l.par.irq l.par.vec with
      | some s2 => s2.closeSource seq l.src (some cause)
      | none => s))
  | none, some g =>
    (match g.abort with
    | none => s
    | some (cause, _) =>
      if g.nodes.any (fun n => match n.state with
          | .run k => (sfind s.sched.launches k).isSome
          | _ => false) then s
      else s.completeGraph seq g 2 cause)
  | none, none => s)

/-! ### Graph nodes (R306, R187) -/

/-- GRAPH_NODE_READY (R306): a node that stopped its queue is tried again once the queue runs. -/
def execGraphNodeReady (seq node : Nat) (s : State) : Host.Outcome State Fault Refusal := .next (s.nodeReady seq node)

/-! ### Coalescing (R311) -/

/-- COALESCE_WINDOW_EXPIRY: a window ends; if completions arrived, one interrupt is raised and a new window opens (R311). -/
def execCoalesceWindowExpiry (event : Bool) (vec : Nat) (s : State) : Host.Outcome State Fault Refusal :=
  .next (s.endWindow event vec)

end Sys2Proof.Machine
end

