-- ==== Sys2Proof/Machine/Debug.lean ====
section
/-! DEFINITION. The debugger: its commands (R293, R330), the trace, watchpoint and counter words (R329). -/

namespace Sys2Proof.Machine

/-- The hart a debug command names, if it runs a task of launch LH (R329). -/
def State.dbgTarget (s : State) (v : Word) : Option Nat :=
  match s.physical (bits v.toNat 23 16) with
  | none => none
  | some c =>
    let h := 4 * c + bits v.toNat 9 8
    if (s.taskOf h).any (fun k => k.launch == bits v.toNat 63 32) then some h else none

/-- Halt (R330): a running hart freezes with cause 0x002B at its instruction boundary; one that is stopped in place does once its task
runs again (R294). (DEDUCED, log entry 36) -/
def State.dbgHalt (s : State) (h : Nat) : State :=
  match (s.hart h).run with
  | .running => s.freezeScalar h 0x2B 0 0
  | .stopped _ => s.modHart h (fun x => { x with halt := true })
  | _ => s

/-- A frozen hart runs on; a load in flight that met an error is tried again, and a resumable event held during the freeze is taken first
(R65, R330). -/
def State.unfreeze (s : State) (h : Nat) : State :=
  let ev := (s.hart h).heldEvent
  let s := s.modHart h (fun x => { x with run := .running, heldEvent := none, evict := false })
  let s := match (s.hart h).loads with
    | some a => s.askFor h a false
    | none => s
  match ev, s.heldRec h with
  | some code, some n => s.swapOut h code false false (some n)
  | _, _ => s.takeDue h

/-- Release (R330). -/
def State.dbgRelease (s : State) (h : Nat) (skip : Bool) : State :=
  match (s.hart h).run with
  | .frozen code =>
    if !skip then s.unfreeze h
    else if code = 0x2C then (s.modCtx h (fun c => c.advance c.trapLen)).unfreeze h
    else s
  | _ => s

/-- Kill (R293, R310 cause 1). (DEDUCED, log entry 36) -/
def State.dbgKill (s : State) (h : Nat) : State :=
  match (s.hart h).task with
  | some t => ((s.killTask t).abortLaunch (s.seqOf h) 1).kick (coreOf h)
  | none => s

/-- Evict (R293): a frozen hart; a running one is swapped out with event 0x0011 once its bank is free and no CLEAN or CDROP is under
way (R110, R294). (DEDUCED, log entry 36) -/
def State.dbgEvict (s : State) (h : Nat) : State :=
  match (s.hart h).run with
  | .frozen _ => s.evictHart h
  | .running =>
    if ((s.dropStaging h).core (coreOf h)).bank = .empty && s.eventOpen h then s.evictNow h
    else s.modHart h (fun x => { x with evict := true })
  | _ => s

/-- Read (R330): the frozen context is copied to DBGBUF as a frame of class 3. -/
def State.dbgRead (s : State) (h : Nat) : State :=
  match (s.hart h).run with
  | .frozen code =>
    ({ s with free := s.free + 1 } : State).writeFrame s.dbg.dbgBuf (s.ctx h) (s.maxvl (coreOf h)) code 3 s.free
  | _ => s

/-- A command on the hart it names; one that names no such hart has no effect (R329). -/
def State.dbgOn (s : State) (v : Word) (f : State → Nat → State) : State :=
  match s.dbgTarget v with
  | some h => f s h
  | none => s

/-- DBG_HALT (R330). -/
def execDbgHalt (v : Word) (s : State) : Host.Outcome State Fault Refusal := .next (s.registerEvent (·.dbgOn v State.dbgHalt))
/-- DBG_RELEASE (R330). -/
def execDbgRelease (v : Word) (s : State) : Host.Outcome State Fault Refusal :=
  .next (s.registerEvent (·.dbgOn v (fun s h => s.dbgRelease h (v.toNat.testBit 4))))
/-- DBG_KILL (R330). -/
def execDbgKill (v : Word) (s : State) : Host.Outcome State Fault Refusal := .next (s.registerEvent (·.dbgOn v State.dbgKill))
/-- DBG_EVICT (R330). -/
def execDbgEvict (v : Word) (s : State) : Host.Outcome State Fault Refusal := .next (s.registerEvent (·.dbgOn v State.dbgEvict))
/-- DBG_READ (R330). -/
def execDbgRead (v : Word) (s : State) : Host.Outcome State Fault Refusal := .next (s.registerEvent (·.dbgOn v State.dbgRead))

/-- A write to DBGCMD (R329, R330). -/
def State.writeDbgCmd (s : State) (v : Word) : State :=
  match v.toNat % 16 with
  | 1 => s.dbgOn v State.dbgHalt
  | 2 => s.dbgOn v (fun s h => s.dbgRelease h (v.toNat.testBit 4))
  | 3 => s.dbgOn v State.dbgKill
  | 4 => s.dbgOn v State.dbgEvict
  | 5 => s.dbgOn v State.dbgRead
  | _ => s

/-- A write to TRBASE: discarded while ON = 1 (R329). -/
def State.writeTrBase (s : State) (v : Word) : State :=
  if s.dbg.trOn then s
  else { s with dbg := { s.dbg with trBase := bits v.toNat 55 12 * 4096, trSz := v.toNat % 16 } }
/-- TRBASE (R329). -/
def execTrbase (v : Word) (s : State) : Host.Outcome State Fault Refusal := .next (s.registerEvent (·.writeTrBase v))

/-- A write to TRCTL: each core's first record after ON is set is a time record (R329, R333). -/
def State.writeTrCtl (s : State) (v : Word) : State :=
  let on := v.toNat.testBit 0
  let s : State := if on && !s.dbg.trOn then
      { s with cores := s.cores.map (fun (e : Nat × Core) => (e.1, { e.2 with traceAt := none })) } else s
  { s with dbg := { s.dbg with trLh := bits v.toNat 63 32, trOn := on } }

/-- A write to a word of watchpoint n (R329). -/
def State.writeWatch (s : State) (n : Nat) (second : Bool) (v : Word) : State :=
  let w := s.dbg.watch.getD n (0, 0)
  let x : Word × Word := if second then (w.1, v &&& 0xFFFFFFFF00003F0F) else (v &&& 0x00FFFFFFFFFFFFFF, w.2)
  { s with dbg := { s.dbg with watch := s.dbg.watch.set n x } }

/-- A write to a debug word at an offset of the reliability block (R329). -/
def State.writeDebug (s : State) (o : Nat) (v : Word) : State :=
  if o = 0x1000 then s.writeTrBase v
  else if o = 0x1008 then s.writeTrCtl v
  else if o = 0x1018 then { s with dbg := { s.dbg with trTail := v.toNat % 2 ^ 32 } }
  else if o = 0x1020 then { s with dbg := { s.dbg with trLost := 0 } }
  else if 0x1100 ≤ o && o < 0x1140 then s.writeWatch ((o - 0x1100) / 16) (o % 16 == 8) v
  else if o = 0x1200 then s.writeDbgCmd v
  else if o = 0x1208 then { s with dbg := { s.dbg with dbgBuf := bits v.toNat 55 12 * 4096 } }
  else if 0x2000 ≤ o && o < 0x2400 then
    let n := (o - 0x2000) / 16
    if o % 16 = 0 then { s with dbg := { s.dbg with ctrCtl := sset s.dbg.ctrCtl 0 n (v &&& 0xFFFFFFFF80FFFFFF) } }
    else { s with dbg := { s.dbg with ctrs := sset s.dbg.ctrs 0 n v } }
  else s

end Sys2Proof.Machine
end

