-- ==== Sys2Proof/Machine/RegWrite.lean ====
section
/-! DEFINITION. Writes to the package register space (R312): each word by its own rule; an unassigned or read-only word discards
them. Interrupt masks (R316), attestation requests (R327, R328). -/

namespace Sys2Proof.Machine

/-! ### Identity block (R327) -/

/-- A write to RPTCTL with GO = 1 requests a report, unless one is under way: the nonce is captured (R327). -/
def State.writeRptCtl (s : State) (v : Word) : State :=
  if s.boot.rptGo || !v.toNat.testBit 0 then s
  else { s with boot := { s.boot with rptGo := true, rptDone := false, rptErr := false, rptNonce := s.boot.nonce } }

/-- A write to the identity block (R327). -/
def State.writeIdentity (s : State) (o : Nat) (v : Word) : State :=
  if o = 0x48 then s.writeRptCtl v
  else if s.boot.rptGo then s
  else if 0x20 ≤ o && o < 0x40 then { s with boot := { s.boot with nonce := s.boot.nonce.set ((o - 0x20) / 8) v } }
  else if o = 0x40 then { s with boot := { s.boot with rptAddr := bits v.toNat 55 6 * 64 } }
  else s

/-- The first 152 bytes of a report (R328 Table 7). -/
def State.reportBody (s : State) : List Byte :=
  leBytes 2 1 ++ leBytes 2 0 ++ leBytes 4 16760 ++ leBytes 8 s.boot.bsts ++ leBytes 8 s.boot.cfgver.toNat ++
  (leBytes 48 (Config.sha384 s.boot.image).toNat).reverse ++ (leBytes 48 (Config.sha384 s.boot.record).toNat).reverse ++
  s.boot.rptNonce.flatMap (fun w => leBytes 8 w.toNat)

/-- A report (R328). -/
def State.reportBytes (s : State) : List Byte :=
  let b := s.reportBody
  b ++ (leBytes 384 (Config.rsaSign s.free b).toNat).reverse ++ (leBytes 16224 (Config.slhSign s.free b).toNat).reverse

/-- The end of a request: the report is written to the host address, or the address lies outside the host range (R327). -/
def State.reportWritten (s : State) : State :=
  if !s.boot.rptGo then s
  else
    let o := offOf s.boot.rptAddr
    if o < hostBase || regBase < o + 16760 || pkgOf s.boot.rptAddr ≠ s.pkg then
      { s with boot := { s.boot with rptGo := false, rptErr := true } }
    else
      let s := { s.devWriteBytes s.boot.rptAddr s.reportBytes with free := s.free + 1 }
      { s with boot := { s.boot with rptGo := false, rptDone := true } }

/-- RPTCTL (R327). -/
def execRptctl (v : Word) (s : State) : Host.Outcome State Fault Refusal := .next (s.writeRptCtl v)
/-- ATTESTATION_REPORT_WRITTEN (R327, R328). -/
def execAttestationReportWritten (s : State) : Host.Outcome State Fault Refusal := .next s.reportWritten

/-! ### The other blocks -/

/-- A write to the scheduler block (R295). -/
def State.writeSched (s : State) (o : Nat) (v : Word) : State :=
  match o with
  | 0x00 => s.writeWqtBase v
  | 0x08 => s.writeWqDb v
  | 0x10 => s.writeFrPool v
  | 0x18 => { s with sched := { s.sched with ciwin := v.toNat % 2 ^ 32 } }
  | 0x20 => s.writeScAbort v
  | _ => s

/-- A write to the fault-buffer block (R283). -/
def State.writeFault (s : State) (o : Nat) (v : Word) : State :=
  match o with
  | 0x00 => s.writeFbBase v
  | 0x08 => s.writeFbCtl v
  | 0x18 => s.writeFbTail v
  | 0x20 => s.writeFbAck v
  | 0x28 => s.writeFbOvf
  | _ => s

/-- A write to the interrupt block (R316). -/
def State.writeIrq (s : State) (o : Nat) (v : Word) : State :=
  match o with
  | 0x00 => { s with irq := { s.irq with evtBase := bits v.toNat 55 4 * 16 } }
  | 0x08 => { s with irq := { s.irq with cmpBase := bits v.toNat 55 4 * 16 } }
  | _ => s

/-- A write to the links and requesters block: DOM only until the first launch (R314). -/
def State.writeLinks (s : State) (o : Nat) (v : Word) : State :=
  match o with
  | 0x08 => if s.port.launched then s else { s with port := { s.port with dom := v.toNat % 2 ^ 12 } }
  | 0x10 => { s with port := { s.port with rqBase := bits v.toNat 55 12 * 4096 } }
  | _ => s

/-- A write to the power block (R322, R323). -/
def State.writePower (s : State) (o : Nat) (v : Word) : State :=
  match o with
  | 0x00 => { s with power := { s.power with lpol := v.toNat % 2 ^ 32 } }
  | 0x08 => { s with power := { s.power with slpdly := v.toNat % 2 ^ 32 } }
  | 0x10 => { s with power := { s.power with pcap := v.toNat % 2 ^ 12 } }
  | _ => s

/-- A write to the reliability block (R324, R325, R329). (DESIGN CHOICE, log entry 32) -/
def State.writeRas (s : State) (o : Nat) (v : Word) : State :=
  match o with
  | 0x00 => { s with ras := { s.ras with raswin := v.toNat } }
  | 0x08 => { s with ras := { s.ras with rasthr := v.toNat } }
  | 0x18 => s.writeTstReq v
  | _ => s.writeDebug o v

/-- Write the register-space word at an offset (R312). -/
def State.regWrite (s : State) (off : Nat) (v : Word) : State :=
  let o := off % 2 ^ 16
  if off % 8 ≠ 0 then s
  else match off / 2 ^ 16 with
    | 0 => s.writeIdentity o v
    | 1 => s.writeSched o v
    | 2 => s.writeFault o v
    | 3 => s.writeIrq o v
    | 4 => s.writeLinks o v
    | 5 => s.writePower o v
    | 6 => s.writeRas o v
    | _ => s

/-- REGISTER_WRITE (R312). After a failed boot only the identity block answers (R319). -/
def execRegisterWrite (offset : Nat) (v : Word) (s : State) : Host.Outcome State Fault Refusal :=
  .next (if offset < 2 ^ 16 then s.regWrite offset v else s.registerEvent (·.regWrite offset v))

/-- INTERRUPT_UNMASK: a vector held pending raises one message once it is unmasked (R316). -/
def execInterruptUnmask (event : Bool) (vec : Nat) (s : State) : Host.Outcome State Fault Refusal :=
  .next (if s.irq.pending.contains (event, vec) && !(s.devRead (s.vecAddr event vec + 8) 8).testBit 32 then
    ({ s with irq := { s.irq with pending := s.irq.pending.erase (event, vec) } } : State).sendVec event vec
  else s)

end Sys2Proof.Machine
end

