-- ==== Sys2Proof/Machine/LoadStore.lean ====
section
/-! DEFINITION. Scalar loads and stores (R84, R92): the alignment trap, the access, and accesses left in flight (R161, R172). -/

namespace Sys2Proof.Machine

/-- The address of a scalar load or store: S(rs1) + SExt(imm11, 11) (R92). -/
def State.effAddr (s : State) (h a : Nat) (i : BitVec 11) : Word := s.getS64 h a + i.signExtend 64

/-- A load of n bytes at hart h (R92): a misaligned address traps before its upper bits are tested (DESIGN CHOICE, log entry 58);
when it misses, the move may leave it in flight. -/
def loadAt (h d n : Nat) (sgn : Bool) (a : Word) : M Unit := do
  if a.toNat % n ≠ 0 then throw (.trap 2 a)
  let p ← spiece h a.toNat n .read
  let s ← get
  if s.move.delayMiss && s.scalarMisses h p false then set (s.sendLoad h (physS (s.ctx h) d) sgn (s.accessOf h p a.toNat 0))
  else
    let (s, v) := s.readPiece h a.toNat p
    set (s.finishRd h d (loadVal sgn n v))

/-- Is a piece a word of this package's register space (R312). -/
def State.isReg (s : State) (p : Piece) : Bool := p.device && pkgOf p.loc == s.pkg && regBase ≤ offOf p.loc

/-- A store of n bytes at hart h (R92): to the register space by the register's own rule (R312); when it misses, the move may
leave it in flight, and the hart goes on. -/
def storeAt (h n : Nat) (a v : Word) : M Unit := do
  if a.toNat % n ≠ 0 then throw (.trap 2 a)
  let p ← spiece h a.toNat n .write
  let s ← get
  let x := v.toNat % 2 ^ (8 * n)
  if s.isReg p then set (((s.finish h 4).noteWrite h none []).regWrite (offOf p.loc - regBase) v)
  else if s.move.delayMiss && s.scalarMisses h p true then set ((s.sendStore h (s.accessOf h p a.toNat x)).finish h 4)
  else set ((s.writePiece h p x).finish h 4)

/-- A load instruction of the current hart. -/
def load (n : Nat) (sgn : Bool) (d a : BitVec 7) (i : BitVec 11) (s : State) : State :=
  s.scalar s.cur .access (loadAt s.cur d.toNat n sgn (s.effAddr s.cur a.toNat i))
/-- A store instruction of the current hart. -/
def store (n : Nat) (r a : BitVec 7) (i : BitVec 11) (s : State) : State :=
  s.scalar s.cur .access (storeAt s.cur n (s.effAddr s.cur a.toNat i) (s.getS64 s.cur r.toNat))

/-- LB rd, imm(rs1): one byte, sign-extended (R92). -/
def execLb (d : BitVec 7) (a : BitVec 7) (i : BitVec 11) (s : State) : Host.Outcome State Fault Refusal := .next (load 1 true d a i s)
/-- LBU rd, imm(rs1): one byte, zero-extended (R92). -/
def execLbu (d : BitVec 7) (a : BitVec 7) (i : BitVec 11) (s : State) : Host.Outcome State Fault Refusal := .next (load 1 false d a i s)
/-- LH rd, imm(rs1): two bytes, sign-extended (R92). -/
def execLh (d : BitVec 7) (a : BitVec 7) (i : BitVec 11) (s : State) : Host.Outcome State Fault Refusal := .next (load 2 true d a i s)
/-- LHU rd, imm(rs1): two bytes, zero-extended (R92). -/
def execLhu (d : BitVec 7) (a : BitVec 7) (i : BitVec 11) (s : State) : Host.Outcome State Fault Refusal := .next (load 2 false d a i s)
/-- LW rd, imm(rs1): four bytes, sign-extended (R92). -/
def execLw (d : BitVec 7) (a : BitVec 7) (i : BitVec 11) (s : State) : Host.Outcome State Fault Refusal := .next (load 4 true d a i s)
/-- LWU rd, imm(rs1): four bytes, zero-extended (R92). -/
def execLwu (d : BitVec 7) (a : BitVec 7) (i : BitVec 11) (s : State) : Host.Outcome State Fault Refusal := .next (load 4 false d a i s)
/-- LD rd, imm(rs1): eight bytes (R92). -/
def execLd (d : BitVec 7) (a : BitVec 7) (i : BitVec 11) (s : State) : Host.Outcome State Fault Refusal := .next (load 8 false d a i s)
/-- SB rs, imm(rs1): one byte (R92). -/
def execSb (r : BitVec 7) (a : BitVec 7) (i : BitVec 11) (s : State) : Host.Outcome State Fault Refusal := .next (store 1 r a i s)
/-- SH rs, imm(rs1): two bytes (R92). -/
def execSh (r : BitVec 7) (a : BitVec 7) (i : BitVec 11) (s : State) : Host.Outcome State Fault Refusal := .next (store 2 r a i s)
/-- SW rs, imm(rs1): four bytes (R92). -/
def execSw (r : BitVec 7) (a : BitVec 7) (i : BitVec 11) (s : State) : Host.Outcome State Fault Refusal := .next (store 4 r a i s)
/-- SD rs, imm(rs1): eight bytes (R92). -/
def execSd (r : BitVec 7) (a : BitVec 7) (i : BitVec 11) (s : State) : Host.Outcome State Fault Refusal := .next (store 8 r a i s)

end Sys2Proof.Machine
end

