-- ==== Sys2Proof/Machine/Protocol.lean ====
section
/-! DEFINITION. The coherence protocol, message by message: requests at a home bank, forwards at a scalar data cache, replies,
Puts, evictions (R156 to R162), and scalar accesses performed at the slice (R160, R167). -/

namespace Sys2Proof.Machine

/-- Is a message the next of its core about its line: messages between one cache and one bank about one line are delivered in
the order sent (R159). -/
def nextOf (l : List Packet) (core line : Nat) (m : CMsg) : Bool :=
  (l.find? (fun p => p.core == core && p.line == line)).any (fun p => p.msg == m)

/-- Open a transaction that waits for answers (R159, R160). -/
def State.openTxn (s : State) (line core : Nat) (req : CMsg) (ptr : Bool) (own : Option Nat) (fwd : CMsg) (dst : List Nat) : State :=
  let s := { s with txns := sput s.txns line { core := core, req := req, fwd := fwd, waiting := dst, own := own, ptr := ptr } }
  dst.foldl (fun s c => s.sendCore c line fwd) s

/-- The attribute of the request that is next from a core about a line (R164). -/
def State.reqPtr (s : State) (core line : Nat) : Bool :=
  (s.toBank.find? (fun p => p.core == core && p.line == line)).any (·.ptr)

/-- A home bank takes a request of a core for a line: the line is brought into the bank, and a miss is counted for the access that the
request serves (R160, R335). -/
def State.takeRequest (s : State) (core line : Nat) (m : CMsg) : State :=
  let own := (s.toBank.find? (fun p => p.core == core && p.line == line)).bind (·.own)
  let (s, miss) := (s.takeBank core line m).fillLlc line (s.reqPtr core line)
  s.countMiss own miss

/-- A home bank serves a GetS (R160 Table 6). -/
def State.bankGetS (s : State) (core line : Nat) : State :=
  if (sfind s.txns line).isSome || !nextOf s.toBank core line .getS then s
  else
    let ptr := s.reqPtr core line
    let s := s.takeRequest core line .getS
    let d := s.dirOf line
    match d.st with
    | 0 => (s.setDir line { st := 2, own := core, crs := 0, exa := 0 }).sendCore core line .replyE
    | 1 => (s.setDir line (dirAdd line core d)).sendCore core line .replyS
    | _ => s.openTxn line core .getS ptr (some d.own) .down [d.own]

/-- A home bank serves a GetX or an Upg; an Upg from a core that no longer shares the line is performed as a GetX (R160, R162). -/
def State.bankGetX (s : State) (core line : Nat) (m : CMsg) : State :=
  if (sfind s.txns line).isSome || !nextOf s.toBank core line m then s
  else
    let ptr := s.reqPtr core line
    let s := s.takeRequest core line m
    let d := s.dirOf line
    match d.st with
    | 0 => s.grantX core line
    | 1 =>
      let dst := (s.sharers line d).filter (· != core)
      if dst.isEmpty then s.grantX core line else s.openTxn line core m ptr none .inv dst
    | _ => if d.own = core then s.grantX core line else s.openTxn line core m ptr (some d.own) .fwdX [d.own]

/-- DIR_GETS (R160). -/
def execDirGets (core line : Nat) (s : State) : Host.Outcome State Fault Refusal := .next (s.bankGetS core line)
/-- DIR_GETX (R160). -/
def execDirGetx (core line : Nat) (s : State) : Host.Outcome State Fault Refusal := .next (s.bankGetX core line .getX)
/-- DIR_UPG (R160, R162). -/
def execDirUpg (core line : Nat) (s : State) : Host.Outcome State Fault Refusal := .next (s.bankGetX core line .upg)

/-- DIR_ACK: an acknowledgement, with data when the owner held the line in M (R160). -/
def State.bankAck (s : State) (core line : Nat) : State :=
  if nextOf s.toBank core line .ack then (s.takeBank core line .ack).answered core line
  else if nextOf s.toBank core line .ackData then (s.takeBank core line .ackData).answered core line
  else s

/-- A PutE or PutM at the bank (R162). A Put that meets a Down or FwdX counts as its answer; the forward and the later answer of the
core carry nothing and are dropped. -/
def State.bankPut (s : State) (core line : Nat) : State :=
  let m := if nextOf s.toBank core line .putM then CMsg.putM else CMsg.putE
  if !nextOf s.toBank core line m then s
  else
    let s := (s.takeBank core line m).sendCore core line .putAck
    match sfind s.txns line with
    | some x =>
      if x.waiting.contains core && x.fwd != .inv then
        let s := { s with
          toCore := s.toCore.filter (fun p => !(p.core == core && p.line == line && (p.msg == CMsg.down || p.msg == CMsg.fwdX)))
          toBank := s.toBank.filter (fun p => !(p.core == core && p.line == line && p.msg == CMsg.ack)) }
        s.answered core line
      else s
    | none =>
      let d := s.dirOf line
      if d.st = 2 && d.own = core then s.setDir line ⟨0, 0, 0, 0⟩ else s

/-- DIR_ACK (R160). -/
def execDirAck (core line : Nat) (s : State) : Host.Outcome State Fault Refusal := .next (s.bankAck core line)
/-- DIR_PUT (R162). -/
def execDirPut (core line : Nat) (s : State) : Host.Outcome State Fault Refusal := .next (s.bankPut core line)

/-- A forward at a scalar data cache: its answer, and the state it leaves (R161 Table 7). -/
def State.dcForward (s : State) (core line : Nat) (m : CMsg) (next : DcState → DcState) : State :=
  if !nextOf s.toCore core line m then s
  else
    let st := s.dcOf core line
    ((s.takeCore core line m).setDc core line (next st)).sendBank core line (if st = .M then .ackData else .ack)

/-- DC_INV (R161). -/
def execDcInv (core line : Nat) (s : State) : Host.Outcome State Fault Refusal :=
  .next (s.dcForward core line .inv (fun _ => DcState.I))
/-- DC_DOWN (R161). -/
def execDcDown (core line : Nat) (s : State) : Host.Outcome State Fault Refusal :=
  .next (s.dcForward core line .down (fun st => if st = DcState.I then DcState.I else DcState.S))
/-- DC_FWDX (R161). -/
def execDcFwdx (core line : Nat) (s : State) : Host.Outcome State Fault Refusal :=
  .next (s.dcForward core line .fwdX (fun _ => DcState.I))

/-- DC_REPLY: data or a grant arrives, and the line enters its state (R161). -/
def State.dcReply (s : State) (core line : Nat) : State :=
  match [CMsg.replyE, .replyS, .replyM, .putAck].find? (nextOf s.toCore core line) with
  | some m => s.replyIn core line m
  | none => s

/-- DC_REPLY (R161). -/
def execDcReply (core line : Nat) (s : State) : Host.Outcome State Fault Refusal := .next (s.dcReply core line)

/-- A superblock leaves a scalar data cache: PutM or PutE for its lines in M or E, silently for those in S (R156). -/
def State.dcEvict (s : State) (core sb : Nat) : State :=
  (s.sbLines sb).foldl (fun s line =>
    match s.dcOf core line with
    | .I => s
    | .S => s.setDc core line .I
    | .E => (s.setDc core line .I).sendBank core line .putE
    | .M => (s.setDc core line .I).sendBank core line .putM) s

/-- DC_SUPERBLOCK_EVICTION (R156). -/
def execDcSuperblockEviction (core sb : Nat) (s : State) : Host.Outcome State Fault Refusal := .next (s.dcEvict core sb)

/-- LLC_SUPERBLOCK_EVICTION: scalar copies recalled, dirty lines written back, the tag freed (R156). A superblock with a line in
transaction stays. -/
def execLlcSuperblockEviction (sb : Nat) (s : State) : Host.Outcome State Fault Refusal :=
  .next (if (sfind s.llc sb).isSome && !(s.sbLines sb).any s.lineBusy then s.evictSb sb else s)

/-! ### Scalar accesses at the slice -/

/-- SLICE_READ: the load of hart h that is on its way to a slice or a target memory is performed (R160). -/
def State.sliceLoad (s : State) (h : Nat) : State :=
  match (s.hart h).loads with
  | some a => if a.slice && !s.accBusy a.loc a.size then s.finishLoad h a else s
  | none => s
/-- SLICE_WRITE: the oldest store of hart h on its way to a slice or a target memory is performed (R160). -/
def State.sliceStore (s : State) (h : Nat) : State :=
  match (s.hart h).pend.find? (·.slice) with
  | some a => if s.accBusy a.loc a.size then s else s.finishStore h a
  | none => s
/-- SLICE_ATOMIC: the atomic of hart h that is on its way is performed (R167). -/
def State.sliceAmo (s : State) (h : Nat) : State :=
  match (s.hart h).run, (s.hart h).wait with
  | .running, some (.amo d op b c order scope a) =>
    if s.accBusy a.loc a.size then s else s.finishAmo h d op b c order scope a
  | _, _ => s

/-- SLICE_READ (R160). -/
def execSliceRead (h : Nat) (s : State) : Host.Outcome State Fault Refusal := .next (s.sliceLoad h)
/-- SLICE_WRITE (R160). -/
def execSliceWrite (h : Nat) (s : State) : Host.Outcome State Fault Refusal := .next (s.sliceStore h)
/-- SLICE_ATOMIC (R167). -/
def execSliceAtomic (h : Nat) (s : State) : Host.Outcome State Fault Refusal := .next (s.sliceAmo h)

/-- Deliver every message in flight, k at most, in the order sent. -/
def State.settle (s : State) : Nat → State
  | 0 => s
  | k + 1 =>
    match s.toCore, s.toBank with
    | p :: _, _ =>
      (match p.msg with
      | .inv => s.dcForward p.core p.line .inv (fun _ => DcState.I)
      | .down => s.dcForward p.core p.line .down (fun st => if st = DcState.I then DcState.I else DcState.S)
      | .fwdX => s.dcForward p.core p.line .fwdX (fun _ => DcState.I)
      | _ => s.dcReply p.core p.line).settle k
    | [], ps =>
      match ps.find? (fun p => match p.msg with
          | .getS => (sfind s.txns p.line).isNone
          | .getX => (sfind s.txns p.line).isNone
          | .upg => (sfind s.txns p.line).isNone
          | _ => true) with
      | none => s
      | some p =>
        (match p.msg with
        | .getS => s.bankGetS p.core p.line
        | .getX => s.bankGetX p.core p.line .getX
        | .upg => s.bankGetX p.core p.line .upg
        | .putE => s.bankPut p.core p.line
        | .putM => s.bankPut p.core p.line
        | _ => s.bankAck p.core p.line).settle k

end Sys2Proof.Machine
end

