-- ==== Sys2Proof/Machine/Requests.lean ====
section
/-! DEFINITION. Accesses from outside: host requesters (R314, R315), the host's own accesses to host memory (R315), accesses that
arrive over the torus (R169, R170). -/

namespace Sys2Proof.Machine

/-- The walker of the requesters. -/
def rqWalker : Nat := 512

/-- One piece of a request: its physical address, within one line; ptr is the attribute of an access that comes translated (R164). Its
line is in no transaction when it is performed (R159). -/
def rqPiece (en ptr : Bool) (root va n : Nat) (k : AccKind) : M Piece := do
  let acc := accBit k
  let x ← (if en then do
      if 0xFF * 2 ^ 48 ≤ va then throw (.freeze 0x20 va acc)
      walk none rqWalker root va k acc 4 root
    else pure { pa := va, stream := false, pointer := ptr, device := regBase ≤ offOf va } : M Xlat)
  match (← get).mapProblem x n k .scalar with
  | some c => throw (.freeze c va acc)
  | none =>
    modify (fun s => s.quietAt x.pa n)
    pure { loc := x.pa, n := n, slice := true, pointer := x.pointer, device := x.device, window := false }

/-- The pieces of a request, one for each line it touches. -/
def rqPieces (en ptr : Bool) (root : Nat) (k : AccKind) : Nat → Nat → Nat → M (List Piece)
  | 0, _, _ => pure []
  | f + 1, va, n =>
    if n = 0 then pure []
    else do
      let m := min n (64 - va % 64)
      let p ← rqPiece en ptr root va m k
      let t ← rqPieces en ptr root k f (va + m) (n - m)
      pure (p :: t)

/-- Perform a write at the home banks, piece by piece. -/
def State.rqWrite (s : State) (v : Nat) : List Piece → State
  | [] => s
  | p :: t => ((s.bankWrite p.loc p.n p.pointer).wr p.loc p.n (v % 2 ^ (8 * p.n))).rqWrite (v / 2 ^ (8 * p.n)) t

/-- Perform a request at its pieces: the machine and the data returned (R160, R167, R312). -/
def State.rqPerform (s : State) (ps : List Piece) (acc : BusAccess) : State × Nat :=
  match ps with
  | [] => (s, 0)
  | p :: _ =>
    let o := offOf p.loc
    if p.device && regBase ≤ o then
      (match acc.kind with
      | .write => (s.regWrite (o - regBase) (w64 acc.data), 0)
      | _ => (s, s.regRead (o - regBase)))
    else
      let s := if acc.kind = .read then ps.foldl (fun s q => s.bankRead q.loc q.n q.pointer) s else s
      let old := ofLe (ps.flatMap (fun q => rdBytes s.mem q.loc q.n))
      match acc.kind with
      | .write => (s.rqWrite acc.data ps, 0)
      | .atomic =>
        (match amoNew acc.op acc.size old (if acc.op = 15 then w64 acc.cmp else w64 acc.data) (w64 acc.data) with
        | some v => (s.rqWrite v ps, old)
        | none => (ps.foldl (fun s q => s.bankWrite q.loc q.n q.pointer) s, old))
      | _ => (s, old)

/-- Is a request of a requester waiting for an acknowledgement (R287, R314). -/
def State.rqHeld (s : State) (r : Nat) : Option Nat :=
  (s.port.held.find? (fun x => x.1 == r && (s.fb.out.any (fun o => o.num == x.2.2) || s.fb.held.any (fun o => o.num == x.2.2)))).map
    (·.2.2)

/-- Write a byte of the backing host memory: of a line that a bank holds, what the bank holds stays (R315). -/
def State.backPut (s : State) (a v : Nat) : State :=
  let line := a / 64
  if s.llcValid line then
    let old := (sfind s.stale line).getD (rdBytes s.mem (line * 64) 64)
    { s with stale := sput s.stale line (old.set (a % 64) (BitVec.ofNat 8 v)) }
  else { s with mem := wrNum s.mem a 1 v }
/-- A byte of the backing host memory (R315). -/
def State.backGet (s : State) (a : Nat) : Nat :=
  match sfind s.stale (a / 64) with
  | some bs => (bs.getD (a % 64) 0).toNat
  | none => s.rd a 1
/-- Write n bytes of it. -/
def State.backWrite (s : State) (a n v : Nat) : State :=
  (List.range n).foldl (fun s i => s.backPut (a + i) (v / 2 ^ (8 * i) % 256)) s
/-- Read n bytes of it. -/
def State.backRead (s : State) (a n : Nat) : Nat := (List.range n).foldr (fun i v => s.backGet (a + i) + 256 * v) 0

/-- Does an access lie in the host range of this package (R150). -/
def State.inHost (s : State) (a n : Nat) : Bool := pkgOf a == s.pkg && hostBase ≤ offOf a && offOf a + n ≤ regBase

/-- The host's own access to host memory that the home banks do not see (R315). -/
def State.hostDirect (s : State) (r : Nat) (acc : BusAccess) : State :=
  match acc.kind with
  | .write => (s.backWrite acc.addr acc.size acc.data).answer r false 0
  | .atomic =>
    let old := s.backRead acc.addr acc.size
    (match amoNew acc.op acc.size old (if acc.op = 15 then w64 acc.cmp else w64 acc.data) (w64 acc.data) with
    | some v => (s.backWrite acc.addr acc.size v).answer r false old
    | none => s.answer r false old)
  | _ => s.answer r false (s.backRead acc.addr acc.size)

/-- May a request reach its address: after a failed boot only the identity block answers (R319, R327). -/
def State.answers (s : State) (addr size : Nat) : Bool :=
  s.boot.fail == 0 || (pkgOf addr == s.pkg && regBase ≤ offOf addr && offOf addr + size ≤ regBase + 2 ^ 16)

/-- A request of a requester (R312, R314): its translation, its tests, its effect. After a failed boot only one for the identity
block is answered, by its physical address, one that is a violation with an error status (R312, R319). One to the register space of
more than 8 bytes ends with an error status and no effect, as a narrower one does (DESIGN CHOICE, log entry 81). -/
def State.hostRequest (s : State) (r : Nat) (acc : BusAccess) : State :=
  let w1 := s.devRead (s.rqEntry r + 8) 8
  if !s.answers acc.addr acc.size then s
  else if s.boot.fail = 0 && w1.testBit 1 then s.answer r true 0
  else match s.rqHeld r with
  | some n => { s with port := { s.port with held := s.port.held ++ [(r, acc, n)] } }
  | none =>
    let en := s.boot.fail = 0 && w1.testBit 0
    let root := bits (s.devRead (s.rqEntry r) 8) 55 12 * 4096
    match (rqPieces en false root acc.kind (acc.size / 64 + 2) acc.addr acc.size).run s with
    | .ok ps s1 =>
      if ps.tail ≠ [] && ps.any (fun p => p.device && regBase ≤ offOf p.loc) then s1.answer r true 0
      else
        let (s2, v) := s1.rqPerform ps acc
        s2.answer r false v
    | .error (.fault lvl va k) s1 =>
      let n := s1.fb.nextNum
      let s1 := s1.raiseRec { cause := 0x12, master := .requester r, acc := k, level := lvl, va := va, lh := 0, core := 0, hart := 0, pc := 0 }
      { s1 with port := { s1.port with held := s1.port.held ++ [(r, acc, n)] } }
    | .error (.freeze code va k) s1 =>
      if s.boot.fail ≠ 0 then s.answer r true 0
      else if code = 0x23 && acc.kind ≠ .atomic && acc.kind ≠ .fetch then s1.answer r true 0
      else s1.freezeRequester r code va k
    | .error _ s1 => s1

/-- Held requests whose records are acknowledged go on, in order, k at most (R287, R314). (DEDUCED, log entry 40) -/
def State.retryHeld (s : State) : Nat → State
  | 0 => s
  | k + 1 =>
    match s.port.held.find? (fun x => (s.rqHeld x.1).isNone) with
    | none => s
    | some x => (({ s with port := { s.port with held := s.port.held.erase x } } : State).hostRequest x.1 x.2.1).retryHeld k

/-- HOST_REQUEST (R314, R315). Only host memory is reached beside the banks. Requests of the requester that were held and may go on go first. (DESIGN CHOICE, log entry 51) -/
def execHostRequest (requester : Nat) (acc : BusAccess) (s : State) : Host.Outcome State Fault Refusal :=
  if acc.direct && s.inHost acc.addr acc.size then .next (s.hostDirect requester acc)
  else .next ((s.retryHeld s.port.held.length).hostRequest requester acc)

/-- An access of another package at this package's home banks (R169, R170): a violation here leaves this package unaffected. The
torus is answered as requester 256; after a failed boot it is not answered (R319). -/
def State.remote (s : State) (acc : BusAccess) : State :=
  if s.boot.fail ≠ 0 then s
  else if pkgOf acc.addr ≠ s.pkg || hostBase < offOf acc.addr + acc.size then s.answer 256 true 0
  else match (rqPieces false acc.pointer 0 acc.kind (acc.size / 64 + 2) acc.addr acc.size).run s with
    | .ok ps s1 =>
      let (s2, v) := s1.rqPerform ps acc
      s2.answer 256 false v
    | .error _ _ => s

/-- REMOTE_ACCESS (R169). (DESIGN CHOICE, log entry 51) -/
def execRemoteAccess (acc : BusAccess) (s : State) : Host.Outcome State Fault Refusal := .next (s.remote acc)

end Sys2Proof.Machine
end

