-- ==== Sys2Proof/Machine/System.lean ====
section
/-! DEFINITION. Package reset and boot (R317 to R321), thermal steps (R323), counted errors (R324). -/

namespace Sys2Proof.Machine

/-! ### Package reset -/

/-- Memory through a package reset: cached data is lost and the backing values stand; every copy of an Electrum region reads zero
(R219; DEDUCED, log entry 8). -/
def State.resetMem (s : State) : List Host.Cell :=
  let s := (s.stale.map (·.1)).foldl State.dropLine s
  s.mem.filter (fun c => c.1 < 2 ^ 58)

/-- Which checks of a boot step fail: 1 RSA, 2 SLH-DSA (R319). -/
def stepFails (b : BootInput) (step : Nat) : Nat :=
  b2n (!(b.rsa.getD (step - 1) true)) + 2 * b2n (!(b.slh.getD (step - 1) true))

/-- Bytes 0 to 295 of the configuration record that a boot finds (R321). -/
def bootRecord (b : BootInput) : List Byte := recordBody b.cfgVer b.coreMask (fun c => b.laneMasks.getD c 0xFF)

/-- Is a configuration record refused for its VERS: it is not above that of the record it replaces, the last one accepted (R321).
That record itself is not a replacement. (DEDUCED, log entry 31) -/
def State.staleRecord (s : State) (b : BootInput) : Bool :=
  !s.boot.accepted.isEmpty && bootRecord b != s.boot.accepted && b.cfgVer.toNat ≤ ofLe (s.boot.accepted.take 8)

/-- The first failing step of a boot and its failures (R318, R319). -/
def State.bootFails (s : State) (b : BootInput) : Option (Nat × Nat) :=
  if stepFails b 1 ≠ 0 then some (1, stepFails b 1)
  else if stepFails b 2 ≠ 0 then some (2, stepFails b 2)
  else if s.staleRecord b then some (3, 3)
  else if stepFails b 3 ≠ 0 then some (3, stepFails b 3)
  else none

/-- The map of a configuration record: a core with lane mask 0 is retired (R321). -/
def recordCores (b : BootInput) : Nat :=
  (List.range 256).foldl (fun m c => if b.coreMask.testBit c && b.laneMasks.getD c 0xFF % 256 != 0 then m + 2 ^ c else m) 0

/-- Apply the lane-group masks of a record (R318 step 4). -/
def State.setLanes (s : State) (b : BootInput) : State :=
  (List.range 256).foldl (fun s c =>
    if b.laneMasks.getD c 0xFF % 256 = 0xFF then s
    else s.modCore c (fun k => { k with lanes := b.laneMasks.getD c 0xFF % 256 })) s

/-- A package reset and the boot that follows (R318, R319, R317). (DEDUCED, log entry 31) -/
def State.reboot (s : State) (b : BootInput) : State :=
  let r : State := { State.reset with
    mem := s.resetMem, free := s.free, agenda := s.agenda, move := s.move
    boot := { State.reset.boot with image := b.image, record := bootRecord b ++ b.recSigs, accepted := s.boot.accepted } }
  match s.bootFails b with
  | some (step, fail) =>
    { r with
      coreMask := 0
      boot := { r.boot with step := step, fail := fail, fwver := if step = 3 then b.fwVer else 0 }
      port := { r.port with up := b.up % 2 } }
  | none =>
    let (x, y, z) := b.coord
    let (dx, dy, dz) := b.dims
    ({ r with
      pkg := x + dx * (y + dy * z)
      coreMask := recordCores b
      boot := { r.boot with done := true, fwver := b.fwVer, cfgver := b.cfgVer, accepted := bootRecord b }
      port := { r.port with up := b.up % 128, dom := (dx - 1) % 16 + (dy - 1) % 16 * 2 ^ 4 + (dz - 1) % 16 * 2 ^ 8 } } : State).setLanes b

/-- PACKAGE_RESET (R318). -/
def execPackageReset (boot : BootInput) (s : State) : Host.Outcome State Fault Refusal := .next (s.reboot boot)

/-! ### Thermal steps (R323) -/

/-- THERMAL_THROTTLE: the tower's issue beats are held at times; this changes timing only (R323). -/
def execThermalThrottle (tower : Nat) (s : State) : Host.Outcome State Fault Refusal :=
  .next (s.modTower tower (fun t => { t with throttle := true }))
/-- THERMAL_STOP: all issue in the tower holds, and event vector 4 is raised (R323). -/
def execThermalStop (tower : Nat) (s : State) : Host.Outcome State Fault Refusal :=
  .next ((s.modTower tower (fun t => { t with stop := true })).raiseEvent 4)
/-- THERMAL_RESUME: below 95 °C issue resumes (R323). -/
def execThermalResume (tower : Nat) (s : State) : Host.Outcome State Fault Refusal :=
  .next (s.modTower tower (fun t => { t with stop := false, throttle := false }))
/-- THERMAL_SHUTDOWN: every task is lost and every link drops (R323). -/
def execThermalShutdown (s : State) : Host.Outcome State Fault Refusal :=
  .next { s with powered := false, harts := [], links := [], engines := [], sched := { s.sched with tasks := [], launches := [], graphs := [] },
                 port := { s.port with up := 0 } }

/-! ### Counted errors (R324) -/

/-- Corrected errors of a unit in the present window. -/
def Ras.countOf (r : Ras) (u : ErrUnit) : Nat := ((r.counts.find? (fun e => e.1 == u)).map (·.2)).getD 0

/-- A window of RASWIN cycles that has passed ends, and the counts start anew (R324). -/
def State.endRasWindow (s : State) : State :=
  if s.ras.raswin ≤ s.time - s.ras.winStart then { s with ras := { s.ras with counts := [], winStart := s.time } } else s

/-- CORRECTABLE_ERROR: the unit's count in the present window rises; at RASTHR the unit is lasting (R324). -/
def execCorrectableError (unit : ErrUnit) (s : State) : Host.Outcome State Fault Refusal :=
  let s := s.endRasWindow
  let n := s.ras.countOf unit + 1
  let s1 : State := { s with ras := { s.ras with counts := s.ras.counts.filter (fun e => e.1 != unit) ++ [(unit, n)] } }
  .next (if s.ras.rasthr ≤ n then s1.declareLasting unit else s1)
/-- RAS_WINDOW_EXPIRY (R324). -/
def execRasWindowExpiry (s : State) : Host.Outcome State Fault Refusal := .next s.endRasWindow

end Sys2Proof.Machine
end

