-- ==== Sys2Proof/Machine/Background.lean ====
section
/-! DEFINITION. What passes with a move: time, counters of cycles (R103, R335), and the device's own steps when no move is listed:
each unit does what it can, in one fixed order (DESIGN CHOICE, log entry 3). -/

namespace Sys2Proof.Machine

/-- The machine after a meaning; a fault or a refusal leaves it as it was. -/
def State.after (s : State) (f : State → Host.Outcome State Fault Refusal) : State :=
  match f s with
  | .next t => t
  | _ => s

/-- Do a step for each of a list. -/
def State.each {α : Type} (s : State) (l : List α) (f : State → α → State) : State := l.foldl f s

/-- Harts with something on their slot. -/
def State.hartKeys (s : State) : List Nat := s.harts.map (·.1)
/-- Cores with something on them, or with a saved task. -/
def State.coreKeys (s : State) : List Nat := (s.cores.map (·.1) ++ s.sched.tasks.map (fun e => coreOf e.2.hart)).dedup

/-! ### Time -/

/-- Is an entry of a hart blocked by the interlock table (R174, R335): one that nothing else keeps from its beginning, or an engine command
at dispatch. -/
def State.ilockBlocked (s : State) (h : Nat) : Bool :=
  let vq := (s.ctx h).vq
  vq.any (fun e =>
    let older := vq.takeWhile (·.id ≠ e.id)
    (if e.sem.command.isSome then older.isEmpty else !e.begun && e.mayBegin older) &&
    (e.sem.claimNow s h e).any (s.tableBlocks h ((s.liveIlocks h).filter (fun l => l.owner != .entry e.id))))

/-- Count n cycles in the counters of each hart whose context is on it and not frozen (R335: event 1), and of its entries that wait
(events 6 and 7). (DEDUCED, log entry 43) -/
def State.countCycles (s : State) (n : Nat) : State :=
  if s.dbg.ctrCtl.isEmpty then s
  else s.each s.hartKeys (fun s h =>
    match (s.hart h).task, (s.hart h).run with
    | some _, .stopped _ => s.count h 1 n
    | some _, .running =>
      let s := s.count h 1 n
      let s := if s.ilockBlocked h then s.count h 6 n else s
      if s.stalled h then s.count h 7 n else s
    | _, _ => s)

/-- The time before a move passes, and the move is the one in progress; the debugger's request that comes with it is taken. -/
def State.begin (s : State) (m : Move) : State :=
  let s := (s.tickLayers).countCycles m.dt
  let s : State := { s with move := m, time := s.time + m.dt }
  match m.restore with
  | some t => s.dbgRestore t
  | none => s

/-! ### The device's own steps -/

/-- Accesses in flight are performed. -/
def State.bgMemory (s : State) : State :=
  let s := s.settle (8 * (s.toCore.length + s.toBank.length) + 64)
  let s := s.each s.hartKeys (fun s h =>
    ((s.each (s.hart h).pend (fun s _ => s.sliceStore h)).sliceLoad h).sliceAmo h)
  let s := if s.hartKeys.any (fun h => (s.hart h).inval.isSome) then s.each s.walkers (fun s w => s.after (execWalkerInvalidate w)) else s
  s.each s.hartKeys (fun s h => s.after (execTlbinvComplete h))

/-- The queues of the harts that run go on; a row operation that waits for Billon room tries again only when USED falls (R240). -/
def State.bgQueues (s : State) : State :=
  s.each s.hartKeys (fun s h => s.complete h (fun e => e.stallSince.isNone))

/-- Channels, streams and indirect-stream engines go on (R207). -/
def State.bgEngines (s : State) : State :=
  let s := s.each s.cores (fun s e => s.each e.2.chans (fun s c => s.chunk e.1 c.1))
  let s := s.each s.cores (fun s e => s.each e.2.streams (fun s c => s.streamAppend e.1 c.1))
  s.each s.engines (fun s e => (s.istrDeliver e.1).istrComplete e.1)

/-- The Electrum channels: a slot for each granted one, then every copy applies what is ordered. -/
def State.bgElectrum (s : State) : State :=
  let s := s.each s.sched.launches (fun s l => s.each l.2.towers (fun s t => s.each t.2.slots (fun s n => s.slotGrant t.1 n)))
  s.each s.towers (fun s t => s.each (List.range 9) (fun s k =>
    s.each (List.range ((s.tower t.1).ordered - nth (s.tower t.1).applied k)) (fun s _ => s.applyNext t.1 k)))

/-- The scheduler: rings, waits, nodes, groups, completions, aborts (R297 to R310). -/
def State.bgSched (s : State) : State :=
  let s := s.each s.sched.wqs (fun s q => (s.ringTake q.1).waitTry q.1)
  let s := s.each s.sched.graphs (fun s g => s.each (List.range g.2.nodes.length) (fun s n => s.nodeReady g.1 n))
  let s := s.each s.sched.launches (fun s l =>
    if s.wants l.1 l.2 || s.sched.tasks.any (fun t => t.2.launch == l.1) then
      s.each (s.places l.2.par.level) (fun s p => s.groupStart l.1 p) else s)
  let s := s.each s.sched.launches (fun s l => (s.after (execLaunchComplete l.1)).after (execAbortComplete l.1))
  let s := s.each s.sched.graphs (fun s g => (s.after (execLaunchComplete g.1)).after (execAbortComplete g.1))
  let s := s.each s.sched.launches (fun s l => s.after (execPriorityAgeing false l.1))
  let s := s.each s.sched.tasks (fun s t => s.after (execPriorityAgeing true t.1))
  s.each s.hartKeys (fun s h => s.preempt h)

/-- Shadow banks, held engines, Billon (R207, R240, R288 to R290). -/
def State.bgBanks (s : State) : State :=
  let s := s.each s.coreKeys (fun s c => ((s.spillDone c).stagingDone c).kick c)
  let s := s.each s.hartKeys (fun s h => s.after (execEngineHoldSwap h))
  let s := s.each s.hartKeys (fun s h => (s.after (execBillonCommitRetry h)).after (execBillonStallTimeout h))
  s.each s.hartKeys (fun s h => s.after (execTrapEntry h))

/-- Layers, retirements, windows of interrupts and errors, reports, held requests. The end of an in-field test is left to a listed
move, which says whether the core passes. -/
def State.bgSystem (s : State) : State :=
  let s := s.each s.towers (fun s t => s.each (List.range 8) (fun s k =>
    (((s.layerSleep t.1 k).layerWake t.1 k).layerPower t.1 k).wakeComplete t.1 k))
  let s := s.each s.cores (fun s c => (s.each c.2.retire (fun s g => s.after (execLaneGroupRetirement c.1 g))).after
    (execCoreRetirement c.1))
  let s := s.each s.cores (fun s c => s.after (execInFieldTestStart c.1))
  let s := s.each s.irq.windows (fun s w => s.after (execCoalesceWindowExpiry w.1.1 w.1.2))
  let s := s.each s.irq.pending (fun s v => s.after (execInterruptUnmask v.1 v.2))
  let s := (s.after execRasWindowExpiry).reportWritten
  s.retryHeld s.port.held.length

/-- Each unit does what it can. -/
def State.background (s : State) : State :=
  s.bgMemory.bgQueues.bgEngines.bgElectrum.bgSched.bgBanks.bgSystem

/-- The hart that moves next when no move is listed: the next that can, in ascending order after cur, cyclically. -/
def State.nextHart (s : State) : Option Nat := nextAfter (some s.cur) (s.hartKeys.filter s.canMove)

end Sys2Proof.Machine
end

