-- ==== Sys2Proof/Machine/Float.lean ====
section
/-! DEFINITION. Scalar floating-point instructions (R89 to R91). An F32 operand is bits [31:0] of its register, and an F32 result
is written with bits [63:32] zero. -/

namespace Sys2Proof.Machine

/-- An operand of a float format (R89). -/
def argF (t : Ty) (x : Word) : Nat := x.toNat % 2 ^ tyW t

/-- A scalar float instruction completes: FFLAGS at execution, FEXCA and FEXCB unchanged (R89). -/
def finishF (d : BitVec 7) (r : Nat × Nat) (s : State) : State :=
  (s.modCtx s.cur (fun c => c.raise r.2)).finishRd s.cur d.toNat (w64 r.1)

/-- A binary float instruction in FCTL.RM (R90). -/
def scalarF2 (t : Ty) (o : FOp) (d a b : BitVec 7) (s : State) : State :=
  let c := s.ctx s.cur
  finishF d (opF (fmtOf t) c.rm o (argF t (c.getS a.toNat)) (argF t (c.getS b.toNat))) s
/-- FMA: x × y + z with one rounding, z the old value of rd (R90). -/
def scalarFma (t : Ty) (d a b : BitVec 7) (s : State) : State :=
  let c := s.ctx s.cur
  finishF d (fmaF (fmtOf t) c.rm false (argF t (c.getS a.toNat)) (argF t (c.getS b.toNat))
    (argF t (c.getS d.toNat))) s
/-- FSQRT (R90). -/
def scalarSqrt (t : Ty) (d a : BitVec 7) (s : State) : State :=
  let c := s.ctx s.cur
  finishF d (sqrtV (fmtOf t) c.rm (decodeF (fmtOf t) (argF t (c.getS a.toNat)))) s
/-- FCMP: an integer to the full register (R90). -/
def scalarFcmp (t : Ty) (k : FCond) (d a b : BitVec 7) (s : State) : State :=
  let c := s.ctx s.cur
  let r := cmpF (fmtOf t) k (argF t (c.getS a.toNat)) (argF t (c.getS b.toNat))
  finishF d (b2n r.1, r.2) s
/-- FCLASS: the class mask (R90). -/
def scalarClass (t : Ty) (d a : BitVec 7) (s : State) : State :=
  finishF d (classF (fmtOf t) (argF t ((s.ctx s.cur).getS a.toNat)), 0) s

/-- FADD_F32: Rounded F32 addition (R90). -/
def execFaddF32 (d : BitVec 7) (a : BitVec 7) (b : BitVec 7) (s : State) : Host.Outcome State Fault Refusal :=
  .next (scalarF2 .f32 .add d a b s)

/-- FSUB_F32: Rounded F32 subtraction (R90). -/
def execFsubF32 (d : BitVec 7) (a : BitVec 7) (b : BitVec 7) (s : State) : Host.Outcome State Fault Refusal :=
  .next (scalarF2 .f32 .sub d a b s)

/-- FMUL_F32: Rounded F32 multiplication (R90). -/
def execFmulF32 (d : BitVec 7) (a : BitVec 7) (b : BitVec 7) (s : State) : Host.Outcome State Fault Refusal :=
  .next (scalarF2 .f32 .mul d a b s)

/-- FDIV_F32: Rounded F32 division (R90). -/
def execFdivF32 (d : BitVec 7) (a : BitVec 7) (b : BitVec 7) (s : State) : Host.Outcome State Fault Refusal :=
  .next (scalarF2 .f32 .div d a b s)

/-- FSQRT_F32: Rounded F32 square root (R90). -/
def execFsqrtF32 (d : BitVec 7) (a : BitVec 7) (s : State) : Host.Outcome State Fault Refusal :=
  .next (scalarSqrt .f32 d a s)

/-- FMIN_F32: F32 minimumNumber (R90). -/
def execFminF32 (d : BitVec 7) (a : BitVec 7) (b : BitVec 7) (s : State) : Host.Outcome State Fault Refusal :=
  .next (scalarF2 .f32 .min d a b s)

/-- FMAX_F32: F32 maximumNumber (R90). -/
def execFmaxF32 (d : BitVec 7) (a : BitVec 7) (b : BitVec 7) (s : State) : Host.Outcome State Fault Refusal :=
  .next (scalarF2 .f32 .max d a b s)

/-- FMA_F32: F32 fused multiply-add into rd (R90). -/
def execFmaF32 (d : BitVec 7) (a : BitVec 7) (b : BitVec 7) (s : State) : Host.Outcome State Fault Refusal :=
  .next (scalarFma .f32 d a b s)

/-- FCMP_EQ_F32: Quiet F32 equality compare (R90). -/
def execFcmpEqF32 (d : BitVec 7) (a : BitVec 7) (b : BitVec 7) (s : State) : Host.Outcome State Fault Refusal :=
  .next (scalarFcmp .f32 .eq d a b s)

/-- FCMP_LT_F32: Signalling F32 less-than compare (R90). -/
def execFcmpLtF32 (d : BitVec 7) (a : BitVec 7) (b : BitVec 7) (s : State) : Host.Outcome State Fault Refusal :=
  .next (scalarFcmp .f32 .lt d a b s)

/-- FCMP_LE_F32: Signalling F32 less-or-equal compare (R90). -/
def execFcmpLeF32 (d : BitVec 7) (a : BitVec 7) (b : BitVec 7) (s : State) : Host.Outcome State Fault Refusal :=
  .next (scalarFcmp .f32 .le d a b s)

/-- FCMP_UN_F32: Quiet F32 unordered compare (R90). -/
def execFcmpUnF32 (d : BitVec 7) (a : BitVec 7) (b : BitVec 7) (s : State) : Host.Outcome State Fault Refusal :=
  .next (scalarFcmp .f32 .un d a b s)

/-- FCLASS_F32: Writes the F32 class mask (R90). -/
def execFclassF32 (d : BitVec 7) (a : BitVec 7) (s : State) : Host.Outcome State Fault Refusal :=
  .next (scalarClass .f32 d a s)

/-- FADD_F64: Rounded F64 addition (R90). -/
def execFaddF64 (d : BitVec 7) (a : BitVec 7) (b : BitVec 7) (s : State) : Host.Outcome State Fault Refusal :=
  .next (scalarF2 .f64 .add d a b s)

/-- FSUB_F64: Rounded F64 subtraction (R90). -/
def execFsubF64 (d : BitVec 7) (a : BitVec 7) (b : BitVec 7) (s : State) : Host.Outcome State Fault Refusal :=
  .next (scalarF2 .f64 .sub d a b s)

/-- FMUL_F64: Rounded F64 multiplication (R90). -/
def execFmulF64 (d : BitVec 7) (a : BitVec 7) (b : BitVec 7) (s : State) : Host.Outcome State Fault Refusal :=
  .next (scalarF2 .f64 .mul d a b s)

/-- FDIV_F64: Rounded F64 division (R90). -/
def execFdivF64 (d : BitVec 7) (a : BitVec 7) (b : BitVec 7) (s : State) : Host.Outcome State Fault Refusal :=
  .next (scalarF2 .f64 .div d a b s)

/-- FSQRT_F64: Rounded F64 square root (R90). -/
def execFsqrtF64 (d : BitVec 7) (a : BitVec 7) (s : State) : Host.Outcome State Fault Refusal :=
  .next (scalarSqrt .f64 d a s)

/-- FMIN_F64: F64 minimumNumber (R90). -/
def execFminF64 (d : BitVec 7) (a : BitVec 7) (b : BitVec 7) (s : State) : Host.Outcome State Fault Refusal :=
  .next (scalarF2 .f64 .min d a b s)

/-- FMAX_F64: F64 maximumNumber (R90). -/
def execFmaxF64 (d : BitVec 7) (a : BitVec 7) (b : BitVec 7) (s : State) : Host.Outcome State Fault Refusal :=
  .next (scalarF2 .f64 .max d a b s)

/-- FMA_F64: F64 fused multiply-add into rd (R90). -/
def execFmaF64 (d : BitVec 7) (a : BitVec 7) (b : BitVec 7) (s : State) : Host.Outcome State Fault Refusal :=
  .next (scalarFma .f64 d a b s)

/-- FCMP_EQ_F64: Quiet F64 equality compare (R90). -/
def execFcmpEqF64 (d : BitVec 7) (a : BitVec 7) (b : BitVec 7) (s : State) : Host.Outcome State Fault Refusal :=
  .next (scalarFcmp .f64 .eq d a b s)

/-- FCMP_LT_F64: Signalling F64 less-than compare (R90). -/
def execFcmpLtF64 (d : BitVec 7) (a : BitVec 7) (b : BitVec 7) (s : State) : Host.Outcome State Fault Refusal :=
  .next (scalarFcmp .f64 .lt d a b s)

/-- FCMP_LE_F64: Signalling F64 less-or-equal compare (R90). -/
def execFcmpLeF64 (d : BitVec 7) (a : BitVec 7) (b : BitVec 7) (s : State) : Host.Outcome State Fault Refusal :=
  .next (scalarFcmp .f64 .le d a b s)

/-- FCMP_UN_F64: Quiet F64 unordered compare (R90). -/
def execFcmpUnF64 (d : BitVec 7) (a : BitVec 7) (b : BitVec 7) (s : State) : Host.Outcome State Fault Refusal :=
  .next (scalarFcmp .f64 .un d a b s)

/-- FCLASS_F64: Writes the F64 class mask (R90). -/
def execFclassF64 (d : BitVec 7) (a : BitVec 7) (s : State) : Host.Outcome State Fault Refusal :=
  .next (scalarClass .f64 d a s)

/-- FCVT rd, rs1: converts one value from the type of code s to the type of code t (R91). An S32 result is sign-extended, an
N32 or F32 result zero-extended. -/
def execFcvt (d : BitVec 7) (a : BitVec 7) (s : BitVec 4) (t : BitVec 4) (st : State) : Host.Outcome State Fault Refusal :=
  let c := st.ctx st.cur
  let r := convert (tyOf s) (tyOf t) c.rm false (argF (tyOf s) (c.getS a.toNat))
  .next (finishF d (if tyOf t = .s32 then (sext64 r.1 32).toNat else r.1, r.2) st)

end Sys2Proof.Machine
end

