-- ==== Sys2Proof/Machine/Integer.lean ====
section
/-! DEFINITION. Scalar integer instructions (R85 to R88). -/

namespace Sys2Proof.Machine

/-- A result computed from two scalar registers (R85, R86). -/
def aluRR (f : Word → Word → Word) (d a b : BitVec 7) (s : State) : State :=
  s.finishRd s.cur d.toNat (f (s.getS64 s.cur a.toNat) (s.getS64 s.cur b.toNat))
/-- A result computed from one scalar register (R86, R87). -/
def aluR (f : Word → Word) (d a : BitVec 7) (s : State) : State :=
  s.finishRd s.cur d.toNat (f (s.getS64 s.cur a.toNat))

/-- 1 when a condition holds, else 0. -/
def flag64 (b : Bool) : Word := if b then 1 else 0
/-- A shift count: Bits(b, 5, 0) (R85). -/
def shamt (b : Word) : Nat := b.toNat % 64

/-- DivS of R86. -/
def divS (a b : Word) : Word :=
  if b = 0 then BitVec.allOnes 64
  else if a = BitVec.intMin 64 && b = BitVec.allOnes 64 then BitVec.intMin 64
  else
    let q : Nat := a.toInt.natAbs / b.toInt.natAbs
    BitVec.ofInt 64 (if decide (a.toInt < 0) != decide (b.toInt < 0) then -(q : Int) else q)
/-- RemS of R86. -/
def remS (a b : Word) : Word :=
  if b = 0 then a
  else if a = BitVec.intMin 64 && b = BitVec.allOnes 64 then 0
  else a - b * divS a b

/-- ADD: Writes the sum of two scalar registers to rd (R85). -/
def execAdd (d : BitVec 7) (a : BitVec 7) (b : BitVec 7) (s : State) : Host.Outcome State Fault Refusal :=
  .next (aluRR (fun x y => x + y) d a b s)

/-- SUB: Writes rs1 minus rs2 to rd (R85). -/
def execSub (d : BitVec 7) (a : BitVec 7) (b : BitVec 7) (s : State) : Host.Outcome State Fault Refusal :=
  .next (aluRR (fun x y => x - y) d a b s)

/-- AND: Writes the bitwise and of two scalar registers (R85). -/
def execAnd (d : BitVec 7) (a : BitVec 7) (b : BitVec 7) (s : State) : Host.Outcome State Fault Refusal :=
  .next (aluRR (fun x y => x &&& y) d a b s)

/-- OR: Writes the bitwise or of two scalar registers (R85). -/
def execOr (d : BitVec 7) (a : BitVec 7) (b : BitVec 7) (s : State) : Host.Outcome State Fault Refusal :=
  .next (aluRR (fun x y => x ||| y) d a b s)

/-- XOR: Writes the bitwise exclusive-or of two scalar registers (R85). -/
def execXor (d : BitVec 7) (a : BitVec 7) (b : BitVec 7) (s : State) : Host.Outcome State Fault Refusal :=
  .next (aluRR (fun x y => x ^^^ y) d a b s)

/-- ANDN: Writes rs1 and not rs2 (R85). -/
def execAndn (d : BitVec 7) (a : BitVec 7) (b : BitVec 7) (s : State) : Host.Outcome State Fault Refusal :=
  .next (aluRR (fun x y => x &&& ~~~y) d a b s)

/-- SLL: Shifts rs1 left by the low six bits of rs2 (R85). -/
def execSll (d : BitVec 7) (a : BitVec 7) (b : BitVec 7) (s : State) : Host.Outcome State Fault Refusal :=
  .next (aluRR (fun x y => x <<< shamt y) d a b s)

/-- SRL: Shifts rs1 right logically (R85). -/
def execSrl (d : BitVec 7) (a : BitVec 7) (b : BitVec 7) (s : State) : Host.Outcome State Fault Refusal :=
  .next (aluRR (fun x y => x >>> shamt y) d a b s)

/-- SRA: Shifts rs1 right arithmetically (R85). -/
def execSra (d : BitVec 7) (a : BitVec 7) (b : BitVec 7) (s : State) : Host.Outcome State Fault Refusal :=
  .next (aluRR (fun x y => x.sshiftRight (shamt y)) d a b s)

/-- SLT: Writes 1 when rs1 is below rs2 as signed values (R85). -/
def execSlt (d : BitVec 7) (a : BitVec 7) (b : BitVec 7) (s : State) : Host.Outcome State Fault Refusal :=
  .next (aluRR (fun x y => flag64 (x.slt y)) d a b s)

/-- SLTU: Writes 1 when rs1 is below rs2 as unsigned values (R85). -/
def execSltu (d : BitVec 7) (a : BitVec 7) (b : BitVec 7) (s : State) : Host.Outcome State Fault Refusal :=
  .next (aluRR (fun x y => flag64 (x.ult y)) d a b s)

/-- MIN: Writes the signed minimum (R85). -/
def execMin (d : BitVec 7) (a : BitVec 7) (b : BitVec 7) (s : State) : Host.Outcome State Fault Refusal :=
  .next (aluRR (fun x y => if x.slt y then x else y) d a b s)

/-- MAX: Writes the signed maximum (R85). -/
def execMax (d : BitVec 7) (a : BitVec 7) (b : BitVec 7) (s : State) : Host.Outcome State Fault Refusal :=
  .next (aluRR (fun x y => if x.slt y then y else x) d a b s)

/-- MINU: Writes the unsigned minimum (R85). -/
def execMinu (d : BitVec 7) (a : BitVec 7) (b : BitVec 7) (s : State) : Host.Outcome State Fault Refusal :=
  .next (aluRR (fun x y => if x.ult y then x else y) d a b s)

/-- MAXU: Writes the unsigned maximum (R85). -/
def execMaxu (d : BitVec 7) (a : BitVec 7) (b : BitVec 7) (s : State) : Host.Outcome State Fault Refusal :=
  .next (aluRR (fun x y => if x.ult y then y else x) d a b s)

/-- SEL: Writes rs1 when rd is nonzero, else rs2 (R85). -/
def execSel (d : BitVec 7) (a : BitVec 7) (b : BitVec 7) (s : State) : Host.Outcome State Fault Refusal :=
  .next (aluRR (fun x y => if s.getS64 s.cur d.toNat ≠ 0 then x else y) d a b s)

/-- MUL: Writes the low 64 bits of the product (R86). -/
def execMul (d : BitVec 7) (a : BitVec 7) (b : BitVec 7) (s : State) : Host.Outcome State Fault Refusal :=
  .next (aluRR (fun x y => x * y) d a b s)

/-- MULH: Writes the high 64 bits of the signed product (R86). -/
def execMulh (d : BitVec 7) (a : BitVec 7) (b : BitVec 7) (s : State) : Host.Outcome State Fault Refusal :=
  .next (aluRR (fun x y => BitVec.ofInt 64 (x.toInt * y.toInt / 2 ^ 64)) d a b s)

/-- MULHU: Writes the high 64 bits of the unsigned product (R86). -/
def execMulhu (d : BitVec 7) (a : BitVec 7) (b : BitVec 7) (s : State) : Host.Outcome State Fault Refusal :=
  .next (aluRR (fun x y => w64 (x.toNat * y.toNat / 2 ^ 64)) d a b s)

/-- DIV: Writes the signed quotient by DivS (R86). -/
def execDiv (d : BitVec 7) (a : BitVec 7) (b : BitVec 7) (s : State) : Host.Outcome State Fault Refusal :=
  .next (aluRR (fun x y => divS x y) d a b s)

/-- DIVU: Writes the unsigned quotient, all ones on division by zero (R86). -/
def execDivu (d : BitVec 7) (a : BitVec 7) (b : BitVec 7) (s : State) : Host.Outcome State Fault Refusal :=
  .next (aluRR (fun x y => if y = 0 then BitVec.allOnes 64 else w64 (x.toNat / y.toNat)) d a b s)

/-- REM: Writes the signed remainder by RemS (R86). -/
def execRem (d : BitVec 7) (a : BitVec 7) (b : BitVec 7) (s : State) : Host.Outcome State Fault Refusal :=
  .next (aluRR (fun x y => remS x y) d a b s)

/-- REMU: Writes the unsigned remainder (R86). -/
def execRemu (d : BitVec 7) (a : BitVec 7) (b : BitVec 7) (s : State) : Host.Outcome State Fault Refusal :=
  .next (aluRR (fun x y => if y = 0 then x else w64 (x.toNat - y.toNat * (x.toNat / y.toNat))) d a b s)

/-- CLZ: Writes the count of leading zero bits (R86). -/
def execClz (d : BitVec 7) (a : BitVec 7) (s : State) : Host.Outcome State Fault Refusal :=
  .next (aluR (fun x => w64 (Sys2Proof.Machine.clz x.toNat 64)) d a s)

/-- CTZ: Writes the count of trailing zero bits (R86). -/
def execCtz (d : BitVec 7) (a : BitVec 7) (s : State) : Host.Outcome State Fault Refusal :=
  .next (aluR (fun x => w64 (Sys2Proof.Machine.ctz x.toNat 64)) d a s)

/-- POPC: Writes the count of one bits (R86). -/
def execPopc (d : BitVec 7) (a : BitVec 7) (s : State) : Host.Outcome State Fault Refusal :=
  .next (aluR (fun x => w64 (Sys2Proof.Machine.popc x.toNat 64)) d a s)

/-- ADDI: Adds a sign-extended immediate (R87). -/
def execAddi (d : BitVec 7) (a : BitVec 7) (i : BitVec 11) (s : State) : Host.Outcome State Fault Refusal :=
  .next (aluR (fun x => x + i.signExtend 64) d a s)

/-- ANDI: Ands with a sign-extended immediate (R87). -/
def execAndi (d : BitVec 7) (a : BitVec 7) (i : BitVec 11) (s : State) : Host.Outcome State Fault Refusal :=
  .next (aluR (fun x => x &&& i.signExtend 64) d a s)

/-- ORI: Ors with a sign-extended immediate (R87). -/
def execOri (d : BitVec 7) (a : BitVec 7) (i : BitVec 11) (s : State) : Host.Outcome State Fault Refusal :=
  .next (aluR (fun x => x ||| i.signExtend 64) d a s)

/-- XORI: Exclusive-ors with a sign-extended immediate (R87). -/
def execXori (d : BitVec 7) (a : BitVec 7) (i : BitVec 11) (s : State) : Host.Outcome State Fault Refusal :=
  .next (aluR (fun x => x ^^^ i.signExtend 64) d a s)

/-- SLTI: Signed compare against an immediate (R87). -/
def execSlti (d : BitVec 7) (a : BitVec 7) (i : BitVec 11) (s : State) : Host.Outcome State Fault Refusal :=
  .next (aluR (fun x => flag64 (x.slt (i.signExtend 64))) d a s)

/-- SLTIU: Unsigned compare against an immediate (R87). -/
def execSltiu (d : BitVec 7) (a : BitVec 7) (i : BitVec 11) (s : State) : Host.Outcome State Fault Refusal :=
  .next (aluR (fun x => flag64 (x.ult (i.signExtend 64))) d a s)

/-- SLLI: Shifts left by an immediate count (R87). -/
def execSlli (d : BitVec 7) (a : BitVec 7) (i : BitVec 6) (s : State) : Host.Outcome State Fault Refusal :=
  .next (aluR (fun x => x <<< i.toNat) d a s)

/-- SRLI: Shifts right logically by an immediate count (R87). -/
def execSrli (d : BitVec 7) (a : BitVec 7) (i : BitVec 6) (s : State) : Host.Outcome State Fault Refusal :=
  .next (aluR (fun x => x >>> i.toNat) d a s)

/-- SRAI: Shifts right arithmetically by an immediate count (R87). -/
def execSrai (d : BitVec 7) (a : BitVec 7) (i : BitVec 6) (s : State) : Host.Outcome State Fault Refusal :=
  .next (aluR (fun x => x.sshiftRight i.toNat) d a s)

/-- LIH: Shifts rd left by 18 and inserts an 18-bit immediate (R88). -/
def execLih (d : BitVec 7) (i : BitVec 18) (s : State) : Host.Outcome State Fault Refusal :=
  .next (s.finishRd s.cur d.toNat (s.getS64 s.cur d.toNat <<< 18 + i.setWidth 64))

/-- ADDPC: Writes PC plus the immediate times 2048 (R88). -/
def execAddpc (d : BitVec 7) (i : BitVec 18) (s : State) : Host.Outcome State Fault Refusal :=
  .next (s.finishRd s.cur d.toNat (((s.ctx s.cur).pc + i.signExtend 56 * 2048#56).setWidth 64))

end Sys2Proof.Machine
end

