-- ==== Sys2Proof/Machine/Dispatch.lean ====
section
/-! DEFINITION. The meaning of each instruction at the hart whose turn it is, and of each step of the device. -/

namespace Sys2Proof.Machine

/-- The meaning of an instruction, or of a step of the device. -/
def exec (i : Instr) (s : State) : Host.Outcome State Fault Refusal :=
  match i with
  | .add d a b => Sys2Proof.Machine.execAdd d a b s
  | .sub d a b => Sys2Proof.Machine.execSub d a b s
  | .and d a b => Sys2Proof.Machine.execAnd d a b s
  | .or d a b => Sys2Proof.Machine.execOr d a b s
  | .xor d a b => Sys2Proof.Machine.execXor d a b s
  | .andn d a b => Sys2Proof.Machine.execAndn d a b s
  | .sll d a b => Sys2Proof.Machine.execSll d a b s
  | .srl d a b => Sys2Proof.Machine.execSrl d a b s
  | .sra d a b => Sys2Proof.Machine.execSra d a b s
  | .slt d a b => Sys2Proof.Machine.execSlt d a b s
  | .sltu d a b => Sys2Proof.Machine.execSltu d a b s
  | .min d a b => Sys2Proof.Machine.execMin d a b s
  | .max d a b => Sys2Proof.Machine.execMax d a b s
  | .minu d a b => Sys2Proof.Machine.execMinu d a b s
  | .maxu d a b => Sys2Proof.Machine.execMaxu d a b s
  | .sel d a b => Sys2Proof.Machine.execSel d a b s
  | .mul d a b => Sys2Proof.Machine.execMul d a b s
  | .mulh d a b => Sys2Proof.Machine.execMulh d a b s
  | .mulhu d a b => Sys2Proof.Machine.execMulhu d a b s
  | .div d a b => Sys2Proof.Machine.execDiv d a b s
  | .divu d a b => Sys2Proof.Machine.execDivu d a b s
  | .rem d a b => Sys2Proof.Machine.execRem d a b s
  | .remu d a b => Sys2Proof.Machine.execRemu d a b s
  | .clz d a => Sys2Proof.Machine.execClz d a s
  | .ctz d a => Sys2Proof.Machine.execCtz d a s
  | .popc d a => Sys2Proof.Machine.execPopc d a s
  | .addi d a im => Sys2Proof.Machine.execAddi d a im s
  | .andi d a im => Sys2Proof.Machine.execAndi d a im s
  | .ori d a im => Sys2Proof.Machine.execOri d a im s
  | .xori d a im => Sys2Proof.Machine.execXori d a im s
  | .slti d a im => Sys2Proof.Machine.execSlti d a im s
  | .sltiu d a im => Sys2Proof.Machine.execSltiu d a im s
  | .slli d a im => Sys2Proof.Machine.execSlli d a im s
  | .srli d a im => Sys2Proof.Machine.execSrli d a im s
  | .srai d a im => Sys2Proof.Machine.execSrai d a im s
  | .lih d im => Sys2Proof.Machine.execLih d im s
  | .addpc d im => Sys2Proof.Machine.execAddpc d im s
  | .lb d a im => Sys2Proof.Machine.execLb d a im s
  | .lbu d a im => Sys2Proof.Machine.execLbu d a im s
  | .lh d a im => Sys2Proof.Machine.execLh d a im s
  | .lhu d a im => Sys2Proof.Machine.execLhu d a im s
  | .lw d a im => Sys2Proof.Machine.execLw d a im s
  | .lwu d a im => Sys2Proof.Machine.execLwu d a im s
  | .ld d a im => Sys2Proof.Machine.execLd d a im s
  | .sb sx a im => Sys2Proof.Machine.execSb sx a im s
  | .sh sx a im => Sys2Proof.Machine.execSh sx a im s
  | .sw sx a im => Sys2Proof.Machine.execSw sx a im s
  | .sd sx a im => Sys2Proof.Machine.execSd sx a im s
  | .beq b a o => Sys2Proof.Machine.execBeq b a o s
  | .bne b a o => Sys2Proof.Machine.execBne b a o s
  | .blt b a o => Sys2Proof.Machine.execBlt b a o s
  | .bge b a o => Sys2Proof.Machine.execBge b a o s
  | .bltu b a o => Sys2Proof.Machine.execBltu b a o s
  | .bgeu b a o => Sys2Proof.Machine.execBgeu b a o s
  | .faddF32 d a b => Sys2Proof.Machine.execFaddF32 d a b s
  | .fsubF32 d a b => Sys2Proof.Machine.execFsubF32 d a b s
  | .fmulF32 d a b => Sys2Proof.Machine.execFmulF32 d a b s
  | .fdivF32 d a b => Sys2Proof.Machine.execFdivF32 d a b s
  | .fsqrtF32 d a => Sys2Proof.Machine.execFsqrtF32 d a s
  | .fminF32 d a b => Sys2Proof.Machine.execFminF32 d a b s
  | .fmaxF32 d a b => Sys2Proof.Machine.execFmaxF32 d a b s
  | .fmaF32 d a b => Sys2Proof.Machine.execFmaF32 d a b s
  | .fcmpEqF32 d a b => Sys2Proof.Machine.execFcmpEqF32 d a b s
  | .fcmpLtF32 d a b => Sys2Proof.Machine.execFcmpLtF32 d a b s
  | .fcmpLeF32 d a b => Sys2Proof.Machine.execFcmpLeF32 d a b s
  | .fcmpUnF32 d a b => Sys2Proof.Machine.execFcmpUnF32 d a b s
  | .fclassF32 d a => Sys2Proof.Machine.execFclassF32 d a s
  | .faddF64 d a b => Sys2Proof.Machine.execFaddF64 d a b s
  | .fsubF64 d a b => Sys2Proof.Machine.execFsubF64 d a b s
  | .fmulF64 d a b => Sys2Proof.Machine.execFmulF64 d a b s
  | .fdivF64 d a b => Sys2Proof.Machine.execFdivF64 d a b s
  | .fsqrtF64 d a => Sys2Proof.Machine.execFsqrtF64 d a s
  | .fminF64 d a b => Sys2Proof.Machine.execFminF64 d a b s
  | .fmaxF64 d a b => Sys2Proof.Machine.execFmaxF64 d a b s
  | .fmaF64 d a b => Sys2Proof.Machine.execFmaF64 d a b s
  | .fcmpEqF64 d a b => Sys2Proof.Machine.execFcmpEqF64 d a b s
  | .fcmpLtF64 d a b => Sys2Proof.Machine.execFcmpLtF64 d a b s
  | .fcmpLeF64 d a b => Sys2Proof.Machine.execFcmpLeF64 d a b s
  | .fcmpUnF64 d a b => Sys2Proof.Machine.execFcmpUnF64 d a b s
  | .fclassF64 d a => Sys2Proof.Machine.execFclassF64 d a s
  | .fcvt d a sx t => Sys2Proof.Machine.execFcvt d a sx t s
  | .jal d o => Sys2Proof.Machine.execJal d o s
  | .jalr d a im => Sys2Proof.Machine.execJalr d a im s
  | .nest a n => Sys2Proof.Machine.execNest a n s
  | .win sx v => Sys2Proof.Machine.execWin sx v s
  | .qpush a q => Sys2Proof.Machine.execQpush a q s
  | .qpop d q => Sys2Proof.Machine.execQpop d q s
  | .qcnt d q => Sys2Proof.Machine.execQcnt d q s
  | .qlink q a => Sys2Proof.Machine.execQlink q a s
  | .trap c => Sys2Proof.Machine.execTrap c s
  | .brk c => Sys2Proof.Machine.execBrk c s
  | .clean a b => Sys2Proof.Machine.execClean a b s
  | .cdrop a b => Sys2Proof.Machine.execCdrop a b s
  | .tlbinv a b => Sys2Proof.Machine.execTlbinv a b s
  | .srr d n => Sys2Proof.Machine.execSrr d n s
  | .srwFflags a => Sys2Proof.Machine.execSrwFflags a s
  | .srwFctl a => Sys2Proof.Machine.execSrwFctl a s
  | .srwFexca a => Sys2Proof.Machine.execSrwFexca a s
  | .srwFexcb a => Sys2Proof.Machine.execSrwFexcb a s
  | .srwFproga a => Sys2Proof.Machine.execSrwFproga a s
  | .srwFprogb a => Sys2Proof.Machine.execSrwFprogb a s
  | .srwFstat a => Sys2Proof.Machine.execSrwFstat a s
  | .srwMctl a => Sys2Proof.Machine.execSrwMctl a s
  | .srwLmap a => Sys2Proof.Machine.execSrwLmap a s
  | .vadd d a b px => Sys2Proof.Machine.execVadd d a b px s
  | .vsub d a b px => Sys2Proof.Machine.execVsub d a b px s
  | .vand d a b px => Sys2Proof.Machine.execVand d a b px s
  | .vor d a b px => Sys2Proof.Machine.execVor d a b px s
  | .vxor d a b px => Sys2Proof.Machine.execVxor d a b px s
  | .vmin d a b px => Sys2Proof.Machine.execVmin d a b px s
  | .vmax d a b px => Sys2Proof.Machine.execVmax d a b px s
  | .vsadd d a b px => Sys2Proof.Machine.execVsadd d a b px s
  | .vssub d a b px => Sys2Proof.Machine.execVssub d a b px s
  | .vaddScalar d a b px => Sys2Proof.Machine.execVaddScalar d a b px s
  | .vsubScalar d a b px => Sys2Proof.Machine.execVsubScalar d a b px s
  | .vandScalar d a b px => Sys2Proof.Machine.execVandScalar d a b px s
  | .vorScalar d a b px => Sys2Proof.Machine.execVorScalar d a b px s
  | .vxorScalar d a b px => Sys2Proof.Machine.execVxorScalar d a b px s
  | .vminScalar d a b px => Sys2Proof.Machine.execVminScalar d a b px s
  | .vmaxScalar d a b px => Sys2Proof.Machine.execVmaxScalar d a b px s
  | .vsaddScalar d a b px => Sys2Proof.Machine.execVsaddScalar d a b px s
  | .vssubScalar d a b px => Sys2Proof.Machine.execVssubScalar d a b px s
  | .vmul d a b px => Sys2Proof.Machine.execVmul d a b px s
  | .vmulh d a b px => Sys2Proof.Machine.execVmulh d a b px s
  | .vmacc d a b px => Sys2Proof.Machine.execVmacc d a b px s
  | .vsll d a b px => Sys2Proof.Machine.execVsll d a b px s
  | .vsrl d a b px => Sys2Proof.Machine.execVsrl d a b px s
  | .vsra d a b px => Sys2Proof.Machine.execVsra d a b px s
  | .vclz d a px => Sys2Proof.Machine.execVclz d a px s
  | .vpopc d a px => Sys2Proof.Machine.execVpopc d a px s
  | .vmulScalar d a b px => Sys2Proof.Machine.execVmulScalar d a b px s
  | .vmulhScalar d a b px => Sys2Proof.Machine.execVmulhScalar d a b px s
  | .vmaccScalar d a b px => Sys2Proof.Machine.execVmaccScalar d a b px s
  | .vsllScalar d a b px => Sys2Proof.Machine.execVsllScalar d a b px s
  | .vsrlScalar d a b px => Sys2Proof.Machine.execVsrlScalar d a b px s
  | .vsraScalar d a b px => Sys2Proof.Machine.execVsraScalar d a b px s
  | .vfadd d a b px => Sys2Proof.Machine.execVfadd d a b px s
  | .vfsub d a b px => Sys2Proof.Machine.execVfsub d a b px s
  | .vfmul d a b px => Sys2Proof.Machine.execVfmul d a b px s
  | .vfma d a b px => Sys2Proof.Machine.execVfma d a b px s
  | .vfnma d a b px => Sys2Proof.Machine.execVfnma d a b px s
  | .vfdiv d a b px => Sys2Proof.Machine.execVfdiv d a b px s
  | .vfsqrt d a px => Sys2Proof.Machine.execVfsqrt d a px s
  | .vfmin d a b px => Sys2Proof.Machine.execVfmin d a b px s
  | .vfmax d a b px => Sys2Proof.Machine.execVfmax d a b px s
  | .vfclass d a px => Sys2Proof.Machine.execVfclass d a px s
  | .vfaddScalar d a b px => Sys2Proof.Machine.execVfaddScalar d a b px s
  | .vfsubScalar d a b px => Sys2Proof.Machine.execVfsubScalar d a b px s
  | .vfmulScalar d a b px => Sys2Proof.Machine.execVfmulScalar d a b px s
  | .vfmaScalar d a b px => Sys2Proof.Machine.execVfmaScalar d a b px s
  | .vfnmaScalar d a b px => Sys2Proof.Machine.execVfnmaScalar d a b px s
  | .vfdivScalar d a b px => Sys2Proof.Machine.execVfdivScalar d a b px s
  | .vfminScalar d a b px => Sys2Proof.Machine.execVfminScalar d a b px s
  | .vfmaxScalar d a b px => Sys2Proof.Machine.execVfmaxScalar d a b px s
  | .vcmp d a b c px => Sys2Proof.Machine.execVcmp d a b c px s
  | .vfcmpEq d a b px => Sys2Proof.Machine.execVfcmpEq d a b px s
  | .vfcmpNe d a b px => Sys2Proof.Machine.execVfcmpNe d a b px s
  | .vfcmpLt d a b px => Sys2Proof.Machine.execVfcmpLt d a b px s
  | .vfcmpLe d a b px => Sys2Proof.Machine.execVfcmpLe d a b px s
  | .vfcmpUn d a b px => Sys2Proof.Machine.execVfcmpUn d a b px s
  | .mand d a b px => Sys2Proof.Machine.execMand d a b px s
  | .mor d a b px => Sys2Proof.Machine.execMor d a b px s
  | .mxor d a b px => Sys2Proof.Machine.execMxor d a b px s
  | .mandn d a b px => Sys2Proof.Machine.execMandn d a b px s
  | .mpopc d a px => Sys2Proof.Machine.execMpopc d a px s
  | .mfirst d a px => Sys2Proof.Machine.execMfirst d a px s
  | .mset d a px => Sys2Proof.Machine.execMset d a px s
  | .vcvt d a sx px => Sys2Proof.Machine.execVcvt d a sx px s
  | .vwiden d a px => Sys2Proof.Machine.execVwiden d a px s
  | .vnarrow d a b px => Sys2Proof.Machine.execVnarrow d a b px s
  | .vquant d a b c x px => Sys2Proof.Machine.execVquant d a b c x px s
  | .smaxe d a b px => Sys2Proof.Machine.execSmaxe d a b px s
  | .vscacc d a e c px => Sys2Proof.Machine.execVscacc d a e c px s
  | .vscale d a b c x px => Sys2Proof.Machine.execVscale d a b c x px s
  | .vredsum d a b px => Sys2Proof.Machine.execVredsum d a b px s
  | .vredmin d a b px => Sys2Proof.Machine.execVredmin d a b px s
  | .vredmax d a b px => Sys2Proof.Machine.execVredmax d a b px s
  | .vfredsum d a b px => Sys2Proof.Machine.execVfredsum d a b px s
  | .vfredsumt d a b px => Sys2Proof.Machine.execVfredsumt d a b px s
  | .vfredmax d a b px => Sys2Proof.Machine.execVfredmax d a b px s
  | .vperm d a b px => Sys2Proof.Machine.execVperm d a b px s
  | .vslideup d a b px => Sys2Proof.Machine.execVslideup d a b px s
  | .vslidedn d a b px => Sys2Proof.Machine.execVslidedn d a b px s
  | .vrev d a px => Sys2Proof.Machine.execVrev d a px s
  | .vbcast d a px => Sys2Proof.Machine.execVbcast d a px s
  | .viota d px => Sys2Proof.Machine.execViota d px s
  | .vmerge d a b px => Sys2Proof.Machine.execVmerge d a b px s
  | .vreshape d a b px => Sys2Proof.Machine.execVreshape d a b px s
  | .vcompress d a px => Sys2Proof.Machine.execVcompress d a px s
  | .vexpand d a px => Sys2Proof.Machine.execVexpand d a px s
  | .vextract d a b px => Sys2Proof.Machine.execVextract d a b px s
  | .vinsert d a b px => Sys2Proof.Machine.execVinsert d a b px s
  | .vqpop d q px => Sys2Proof.Machine.execVqpop d q px s
  | .vqpush q a px => Sys2Proof.Machine.execVqpush q a px s
  | .setvl d a b t px => Sys2Proof.Machine.execSetvl d a b t px s
  | .setvli d a r t px => Sys2Proof.Machine.execSetvli d a r t px s
  | .vld d a im px => Sys2Proof.Machine.execVld d a im px s
  | .vlds d a b px => Sys2Proof.Machine.execVlds d a b px s
  | .vldx d a b m px => Sys2Proof.Machine.execVldx d a b m px s
  | .vst sx a im px => Sys2Proof.Machine.execVst sx a im px s
  | .vsts sx a b px => Sys2Proof.Machine.execVsts sx a b px s
  | .vstx sx a b m px => Sys2Proof.Machine.execVstx sx a b m px s
  | .vldw d a k px => Sys2Proof.Machine.execVldw d a k px s
  | .vamo d a b o px => Sys2Proof.Machine.execVamo d a b o px s
  | .amo d a p z o sx => Sys2Proof.Machine.execAmo d a p z o sx s
  | .amocas d a z o sx => Sys2Proof.Machine.execAmocas d a z o sx s
  | .fence sx o t => Sys2Proof.Machine.execFence sx o t s
  | .bar sx a => Sys2Proof.Machine.execBar sx a s
  | .waitge sx a b => Sys2Proof.Machine.execWaitge sx a b s
  | .wmpub sx a b => Sys2Proof.Machine.execWmpub sx a b s
  | .wmbind k sx a b => Sys2Proof.Machine.execWmbind k sx a b s
  | .launch d a => Sys2Proof.Machine.execLaunch d a s
  | .cpy c a => Sys2Proof.Machine.execCpy c a s
  | .cwait d c b => Sys2Proof.Machine.execCwait d c b s
  | .cwp d c => Sys2Proof.Machine.execCwp d c s
  | .sstr q a b sx => Sys2Proof.Machine.execSstr q a b sx s
  | .sclose sx => Sys2Proof.Machine.execSclose sx s
  | .istr k a => Sys2Proof.Machine.execIstr k a s
  | .iwait d k => Sys2Proof.Machine.execIwait d k s
  | .est v a b => Sys2Proof.Machine.execEst v a b s
  | .eaddS32 v a b => Sys2Proof.Machine.execEaddS32 v a b s
  | .eaddF32 v a b => Sys2Proof.Machine.execEaddF32 v a b s
  | .eseq d => Sys2Proof.Machine.execEseq d s
  | .ewait m a b => Sys2Proof.Machine.execEwait m a b s
  | .fld d a b px => Sys2Proof.Machine.execFld d a b px s
  | .fst d a px => Sys2Proof.Machine.execFst d a px s
  | .fwalk d a b px => Sys2Proof.Machine.execFwalk d a b px s
  | .fsort d a o px => Sys2Proof.Machine.execFsort d a o px s
  | .fisect d a b o px => Sys2Proof.Machine.execFisect d a b o px s
  | .fisectc d a b px => Sys2Proof.Machine.execFisectc d a b px s
  | .funion d a b o px => Sys2Proof.Machine.execFunion d a b o px s
  | .fmerge d a k o px => Sys2Proof.Machine.execFmerge d a k o px s
  | .fcompact d a px => Sys2Proof.Machine.execFcompact d a px s
  | .fexpand d a b px => Sys2Proof.Machine.execFexpand d a b px s
  | .fgather d a b px => Sys2Proof.Machine.execFgather d a b px s
  | .fslice d a b px => Sys2Proof.Machine.execFslice d a b px s
  | .fmap d a b o px => Sys2Proof.Machine.execFmap d a b o px s
  | .fcfg f a px => Sys2Proof.Machine.execFcfg f a px s
  | .fclr f px => Sys2Proof.Machine.execFclr f px s
  | .flenr d f px => Sys2Proof.Machine.execFlenr d f px s
  | .mtload c a b t px => Sys2Proof.Machine.execMtload c a b t px s
  | .mtzero t px => Sys2Proof.Machine.execMtzero t px s
  | .mrow v a c t px => Sys2Proof.Machine.execMrow v a c t px s
  | .mrowg f a c t px => Sys2Proof.Machine.execMrowg f a c t px s
  | .mdrain d a px => Sys2Proof.Machine.execMdrain d a px s
  | .mdrainKeep d a px => Sys2Proof.Machine.execMdrainKeep d a px s
  | .mclr a px => Sys2Proof.Machine.execMclr a px s
  | .mstatRow d a px => Sys2Proof.Machine.execMstatRow d a px s
  | .mstatSlot d a px => Sys2Proof.Machine.execMstatSlot d a px s
  | .trapEntry h => Sys2Proof.Machine.execTrapEntry h s
  | .vectorBeat core lane => Sys2Proof.Machine.execVectorBeat core lane s
  | .engineDispatch h => Sys2Proof.Machine.execEngineDispatch h s
  | .interlockRelease h k => Sys2Proof.Machine.execInterlockRelease h k s
  | .vldwElementReady h => Sys2Proof.Machine.execVldwElementReady h s
  | .qpopEntryArrival h => Sys2Proof.Machine.execQpopEntryArrival h s
  | .qpushRoom h => Sys2Proof.Machine.execQpushRoom h s
  | .fenceComplete h => Sys2Proof.Machine.execFenceComplete h s
  | .barrierDeparture h => Sys2Proof.Machine.execBarrierDeparture h s
  | .waitgeSatisfied h => Sys2Proof.Machine.execWaitgeSatisfied h s
  | .ewaitSatisfied h => Sys2Proof.Machine.execEwaitSatisfied h s
  | .cwaitSatisfied h => Sys2Proof.Machine.execCwaitSatisfied h s
  | .iwaitSatisfied h => Sys2Proof.Machine.execIwaitSatisfied h s
  | .scloseComplete h => Sys2Proof.Machine.execScloseComplete h s
  | .tlbinvComplete h => Sys2Proof.Machine.execTlbinvComplete h s
  | .walkerInvalidate walker => Sys2Proof.Machine.execWalkerInvalidate walker s
  | .exitComplete h => Sys2Proof.Machine.execExitComplete h s
  | .uncorrectableError master unit place => Sys2Proof.Machine.execUncorrectableError master unit place s
  | .engineHoldSwap h => Sys2Proof.Machine.execEngineHoldSwap h s
  | .preemption h => Sys2Proof.Machine.execPreemption h s
  | .spillComplete core => Sys2Proof.Machine.execSpillComplete core s
  | .stagingComplete core => Sys2Proof.Machine.execStagingComplete core s
  | .billonCommitRetry h => Sys2Proof.Machine.execBillonCommitRetry h s
  | .billonStallTimeout h => Sys2Proof.Machine.execBillonStallTimeout h s
  | .slotGrant tower slot => Sys2Proof.Machine.execSlotGrant tower slot s
  | .electrumApply tower copy => Sys2Proof.Machine.execElectrumApply tower copy s
  | .copyChunkComplete core ch => Sys2Proof.Machine.execCopyChunkComplete core ch s
  | .sparseStreamAppend core st => Sys2Proof.Machine.execSparseStreamAppend core st s
  | .istrRowDeliver engine => Sys2Proof.Machine.execIstrRowDeliver engine s
  | .istrComplete engine => Sys2Proof.Machine.execIstrComplete engine s
  | .dirGets core line => Sys2Proof.Machine.execDirGets core line s
  | .dirGetx core line => Sys2Proof.Machine.execDirGetx core line s
  | .dirUpg core line => Sys2Proof.Machine.execDirUpg core line s
  | .sliceRead h => Sys2Proof.Machine.execSliceRead h s
  | .sliceWrite h => Sys2Proof.Machine.execSliceWrite h s
  | .sliceAtomic h => Sys2Proof.Machine.execSliceAtomic h s
  | .dirAck core line => Sys2Proof.Machine.execDirAck core line s
  | .dirPut core line => Sys2Proof.Machine.execDirPut core line s
  | .llcSuperblockEviction sb => Sys2Proof.Machine.execLlcSuperblockEviction sb s
  | .dcInv core line => Sys2Proof.Machine.execDcInv core line s
  | .dcDown core line => Sys2Proof.Machine.execDcDown core line s
  | .dcFwdx core line => Sys2Proof.Machine.execDcFwdx core line s
  | .dcReply core line => Sys2Proof.Machine.execDcReply core line s
  | .dcSuperblockEviction core sb => Sys2Proof.Machine.execDcSuperblockEviction core sb s
  | .remoteAccess acc => Sys2Proof.Machine.execRemoteAccess acc s
  | .linkReplayExhausted access => Sys2Proof.Machine.execLinkReplayExhausted access s
  | .hostRequest requester acc => Sys2Proof.Machine.execHostRequest requester acc s
  | .ringEntryTake wq => Sys2Proof.Machine.execRingEntryTake wq s
  | .waitEntryComplete wq => Sys2Proof.Machine.execWaitEntryComplete wq s
  | .groupStart seq place => Sys2Proof.Machine.execGroupStart seq place s
  | .priorityAgeing task key => Sys2Proof.Machine.execPriorityAgeing task key s
  | .graphNodeReady seq node => Sys2Proof.Machine.execGraphNodeReady seq node s
  | .launchComplete seq => Sys2Proof.Machine.execLaunchComplete seq s
  | .coalesceWindowExpiry event vec => Sys2Proof.Machine.execCoalesceWindowExpiry event vec s
  | .abortComplete seq => Sys2Proof.Machine.execAbortComplete seq s
  | .laneGroupRetirement core group => Sys2Proof.Machine.execLaneGroupRetirement core group s
  | .coreRetirement core => Sys2Proof.Machine.execCoreRetirement core s
  | .wqdb v => Sys2Proof.Machine.execWqdb v s
  | .wqtbase v => Sys2Proof.Machine.execWqtbase v s
  | .frpool v => Sys2Proof.Machine.execFrpool v s
  | .scabort v => Sys2Proof.Machine.execScabort v s
  | .fbbase v => Sys2Proof.Machine.execFbbase v s
  | .fbctl v => Sys2Proof.Machine.execFbctl v s
  | .fbtail v => Sys2Proof.Machine.execFbtail v s
  | .fback v => Sys2Proof.Machine.execFback v s
  | .fbovf v => Sys2Proof.Machine.execFbovf v s
  | .interruptUnmask event vec => Sys2Proof.Machine.execInterruptUnmask event vec s
  | .packageReset boot => Sys2Proof.Machine.execPackageReset boot s
  | .rptctl v => Sys2Proof.Machine.execRptctl v s
  | .attestationReportWritten => Sys2Proof.Machine.execAttestationReportWritten s
  | .layerSleep tower layer => Sys2Proof.Machine.execLayerSleep tower layer s
  | .layerWakeRequest tower layer => Sys2Proof.Machine.execLayerWakeRequest tower layer s
  | .layerPowerReturn tower layer => Sys2Proof.Machine.execLayerPowerReturn tower layer s
  | .wakeComplete tower layer => Sys2Proof.Machine.execWakeComplete tower layer s
  | .thermalThrottle tower => Sys2Proof.Machine.execThermalThrottle tower s
  | .thermalStop tower => Sys2Proof.Machine.execThermalStop tower s
  | .thermalResume tower => Sys2Proof.Machine.execThermalResume tower s
  | .thermalShutdown => Sys2Proof.Machine.execThermalShutdown s
  | .correctableError unit => Sys2Proof.Machine.execCorrectableError unit s
  | .rasWindowExpiry => Sys2Proof.Machine.execRasWindowExpiry s
  | .tstreq v => Sys2Proof.Machine.execTstreq v s
  | .inFieldTestStart core => Sys2Proof.Machine.execInFieldTestStart core s
  | .inFieldTestEnd core pass => Sys2Proof.Machine.execInFieldTestEnd core pass s
  | .dbgHalt v => Sys2Proof.Machine.execDbgHalt v s
  | .dbgRelease v => Sys2Proof.Machine.execDbgRelease v s
  | .dbgKill v => Sys2Proof.Machine.execDbgKill v s
  | .dbgEvict v => Sys2Proof.Machine.execDbgEvict v s
  | .dbgRead v => Sys2Proof.Machine.execDbgRead v s
  | .trbase v => Sys2Proof.Machine.execTrbase v s
  | .registerWrite offset v => Sys2Proof.Machine.execRegisterWrite offset v s
  | .illegalEncoding pre base => Sys2Proof.Machine.execIllegalEncoding pre base s
  | .rowOperationCommit h => Sys2Proof.Machine.execRowOperationCommit h s
  | .tileLoadComplete h => Sys2Proof.Machine.execTileLoadComplete h s
  | .tret => Sys2Proof.Machine.execTret s
  | .yield => Sys2Proof.Machine.execYield s
  | .exit => Sys2Proof.Machine.execExit s

end Sys2Proof.Machine
end

