-- ==== Sys2Proof/Machine/Turn.lean ====
section
/-! DEFINITION. The turn of a hart's scalar unit: a wait is tried again, or the next instruction is fetched, decoded and run (R29,
R48, R72, R82, R101). -/

namespace Sys2Proof.Machine

/-- Run the words of an instruction at the current hart: an illegal pair traps (R82), an instruction that names a scalar register
of a queued vector instruction waits (R48). -/
def runWords (pre : Option (BitVec 32)) (base : BitVec 32) (s : State) : Host.Outcome State Fault Refusal :=
  if !pairLegal pre base then execIllegalEncoding pre base s
  else if s.scalarHazard s.cur base then .next (s.waitOn s.cur .scalarReg)
  else if isLate base then runLate pre base s
  else match decodePairEarly pre base with
    | some i => exec i s
    | none => execIllegalEncoding pre base s

/-- Fetch the instruction at the program counter of the current hart, and run it. A fetch that stops stops the hart there; one that
waits leaves the wait of an instruction that is tried again. -/
def State.runFetched (s : State) : Host.Outcome State Fault Refusal :=
  match (fetchInstr s.cur).run s with
  | .ok (pre, base) t => runWords pre base t
  | .error st t => .next (t.stopScalar s.cur false ((s.hart s.cur).wait.getD .access) st)

/-- The next instruction of the current hart, after the end of a pass that an instruction of the nest's body left open (R96). -/
def State.runNext (s : State) : Host.Outcome State Fault Refusal :=
  if (s.ctx s.cur).passOpen then
    if s.passHazard s.cur then .next (s.waitOn s.cur .scalarReg)
    else (s.modCtx s.cur Ctx.closePass).runFetched
  else s.runFetched

/-- The scalar unit of the current hart tries what it waits for, or runs its next instruction. -/
def State.resumeWait (s : State) : Host.Outcome State Fault Refusal :=
  let h := s.cur
  match (s.hart h).wait with
  | some (.trap c v p) => .next (s.takeTrap h c v p)
  | some (.amo _ _ _ _ _ _ _) => .next s
  | some .tlbinv => .next s
  | some (.qpop d q) => .next (s.tryQpop h d q)
  | some (.qpush q v) => .next (s.tryQpush h q v)
  | some (.fence scope order dir) => .next (s.tryFence h scope order dir)
  | some (.bar scope tie) => .next (s.tryBar h scope tie)
  | some (.waitge scope a v) => .next (s.tryWaitge h scope a v)
  | some (.ewait m a v) => .next (s.tryEwait h m a v)
  | some (.cwait d ch v) => .next (s.tryCwait h d ch v)
  | some (.iwait d k) => .next (s.tryIwait h d k)
  | some (.unlink q) => .next (s.tryUnlink h q)
  | some .exit => .next (s.tryExit h)
  | some .queueFull => s.runNext
  | some .scalarReg => s.runNext
  | some .sysreg => s.runNext
  | some .access => s.runNext
  | some .queueOrder => s.runNext
  | some .maint => s.runNext
  | some (.clean drop a n) => .next (s.tryMaint h drop a n)
  | none => s.runNext

/-- The turn of hart h: nothing while it does not run, or while its tower's issue is held (R323); a halt that is due freezes it
first (R330). -/
def State.turn (s : State) (h : Nat) : Host.Outcome State Fault Refusal :=
  if !s.canMove h then .next s
  else
    let s : State := { s with cur := h }
    if (s.hart h).halt then .next (s.freezeScalar h 0x2B 0 0) else s.resumeWait

/-- Is the next listed move a package reset (R318, R323). -/
def State.resetNext (s : State) : Bool :=
  match s.agenda with
  | m :: _ =>
    (match m.who with
    | .event i =>
      (match i with
      | .packageReset _ => true
      | _ => false)
    | .hart _ => false)
  | [] => false

/-- One move: the next listed one, or, when none is listed, what every unit of the device can do, then the turn of the next hart. -/
def State.advanceOne (s : State) : Host.Outcome State Fault Refusal :=
  match s.agenda with
  | m :: t =>
    let s := ({ s with agenda := t } : State).begin m
    (match m.who with
    | .hart h => s.turn h
    | .event i => exec i s)
  | [] =>
    let s := (s.begin { Move.init with who := .hart s.cur }).background
    match s.nextHart with
    | some h => s.turn h
    | none => .next s

/-! ### A word to run next -/

/-- The address at which the current hart is to fetch a placed word: its program counter, on a word boundary and outside the
local windows. -/
def State.placeAt (s : State) : Nat :=
  let pc := (s.ctx s.cur).pc.toNat / 4 * 4
  if pc / 2 ^ 48 = 0xFF then pc % 2 ^ 48 else pc

/-- Location of the page that a placed word's page is mapped to: the package's memory from 1 GiB up. -/
def State.placeLoc (s : State) (va : Nat) : Nat := s.pkg * 2 ^ 40 + 2 ^ 30 + va % 8192

/-- Cached translations of the page of an address, to its placed location. -/
def State.placeTlb (s : State) (va : Nat) : List Tlb :=
  let r := s.rootOf s.cur
  [⟨r, 4, va / pageSize 4, r + 1⟩, ⟨r, 3, va / pageSize 3, r + 1⟩, ⟨r, 2, va / pageSize 2, r + 1⟩, ⟨r, 1, va / pageSize 1, r + 1⟩,
   ⟨r, 0, va / pageSize 0, s.placeLoc va / 4096 * 4096 + 0x79⟩]

/-- Place an instruction's bits where the current hart fetches next: the hart runs, its layer is active, its page is mapped, its lines
are in no transaction, and the next move is its own. -/
def State.place (s : State) (bits : Nat) : State :=
  let h := s.cur
  let a := s.placeAt
  let b := wrap56 (a + 4)
  let x := s.placeLoc a
  let y := s.placeLoc b
  let s1 := s.modHart h (fun k => { k with run := .running, wait := none, halt := false,
                                           ctx := { k.ctx with pc := BitVec.ofNat 56 a, nest := none } })
  let s2 := (s1.setTlb (coreOf h) (s.placeTlb a ++ s.placeTlb b ++ s.tlbOf (coreOf h))).modTower (towerOf (coreOf h))
    (fun t => { t with stop := false, layers := t.layers.set (layerOf (coreOf h)) .active })
  { s2 with
    mem := wrNum (wrNum s.mem x 4 (bits % 2 ^ 32)) y 4 (bits / 2 ^ 32)
    txns := serase (serase s.txns (x / 64)) (y / 64)
    dbg := { s.dbg with watch := [] }
    powered := true
    agenda := { Move.init with who := .hart h, cacheWalk := true } :: s.agenda }

end Sys2Proof.Machine
end

