-- ==== Sys2Proof/Machine/Step.lean ====
section
/-! DEFINITION. One step of the machine, and placing a word where it fetches next. -/

namespace Sys2Proof.Machine

/-- One move. Without power only a package reset follows (R323). -/
def step (s : State) : Host.Outcome State Fault Refusal :=
  if !s.powered && !s.resetNext then .fault .poweredOff else s.advanceOne

/-- The machine with a word of spec/opcode_table.json, its nbits bits and zeros above them, as the next instruction of the current
hart (DESIGN CHOICE, log entry 9). -/
def State.withFetchWord (s : State) (nbits w : Nat) : State := s.place (w % 2 ^ nbits)

end Sys2Proof.Machine
end

