-- ==== Sys2Proof/Safety.lean ====
section
/-! DEFINITION. The terms in which claims about the machine are stated: what an instruction leaves unchanged, the results of the
spec's tables in the spec's own words, and the invariant that every step keeps. -/

namespace Sys2Proof.Machine

/-! ### What an instruction leaves unchanged -/

/-- Of the whole machine, only hart slots and event counts differ. -/
def State.restSame (s t : State) : Prop := t = { s with harts := t.harts, dbg := { s.dbg with ctrs := t.dbg.ctrs } }

/-- Every hart slot but that of hart h is the same. -/
def State.othersSame (s t : State) (h : Nat) : Prop := ∀ k, k ≠ h → t.hart k = s.hart k

/-- A hart without the work of its queue that is not committed yet (R59, R281). -/
def Hart.committed (x : Hart) : Hart := { x with ctx := { x.ctx with vq := x.ctx.vq.map (fun e => { e with reach := [], held := [] }) } }

/-- Hart k is the same but for work of its queue that is not committed. -/
def State.committedSame (s t : State) (k : Nat) : Prop := (t.hart k).committed = (s.hart k).committed

/-- Every byte of memory reads as before. -/
def State.memSame (s t : State) : Prop := ∀ a, rdByte t.mem a = rdByte s.mem a

/-- No transaction of a line is open, and no reply is on its way to a cache: a line that leaves its bank then completes no access of a
hart in passing (R156, R159, R161). -/
def State.calm (s : State) : Prop :=
  s.txns = [] ∧ ∀ p ∈ s.toCore, p.msg ≠ .replyE ∧ p.msg ≠ .replyS ∧ p.msg ≠ .replyM

/-- The trace records of a hart, if it has any, complete no access of another. -/
def State.quietFor (s : State) (h : Nat) : Prop := s.traced h = false ∨ s.calm

/-- Hart h has completed a scalar instruction with context c; nothing else has changed but event counts. -/
def State.doneWith (s t : State) (h : Nat) (c : Ctx) : Prop :=
  t.hart h = { s.hart h with wait := none, ctx := c } ∧ s.othersSame t h ∧ s.restSame t

/-- An instruction of len bytes ends a pass of a running nest: the next address is the end of the nest's body (R96). -/
def Ctx.endsPass (c : Ctx) (len : Nat) : Bool :=
  c.nest.any (fun n => !n.suspended && c.pc + BitVec.ofNat 56 len == BitVec.ofNat 56 (n.start + 4 + 4 * n.body.length))

/-- A byte whose line no last-level bank holds behind the back of a cache: the backing memory has not been overtaken while the
cached copy is clean. Only such bytes keep their value when a clean line leaves its bank (R156, R315). -/
def State.settled (s : State) (a : Nat) : Prop := sfind s.stale (a / 64) = none ∨ a / 64 ∈ s.dirty

/-! ### Results of scalar integer instructions, in the words of R85 to R88 -/

/-- Destination, sources and result of a row of majors 0x01 and 0x02: of a = S(rs1), b = S(rs2) and S(rd). -/
def scalarRR : Instr → Option (BitVec 7 × BitVec 7 × BitVec 7 × (Word → Word → Word → Word))
  | .add d a b => some (d, a, b, fun x y _ => BitVec.ofNat 64 (x.toNat + y.toNat))
  | .sub d a b => some (d, a, b, fun x y _ => BitVec.ofInt 64 ((x.toNat : Int) - y.toNat))
  | .and d a b => some (d, a, b, fun x y _ => x &&& y)
  | .or d a b => some (d, a, b, fun x y _ => x ||| y)
  | .xor d a b => some (d, a, b, fun x y _ => x ^^^ y)
  | .andn d a b => some (d, a, b, fun x y _ => x &&& ~~~y)
  | .sll d a b => some (d, a, b, fun x y _ => BitVec.ofNat 64 (x.toNat * 2 ^ (y.toNat % 64)))
  | .srl d a b => some (d, a, b, fun x y _ => BitVec.ofNat 64 (x.toNat / 2 ^ (y.toNat % 64)))
  | .sra d a b => some (d, a, b, fun x y _ => BitVec.ofInt 64 (x.toInt / 2 ^ (y.toNat % 64)))
  | .slt d a b => some (d, a, b, fun x y _ => if x.toInt < y.toInt then 1 else 0)
  | .sltu d a b => some (d, a, b, fun x y _ => if x.toNat < y.toNat then 1 else 0)
  | .min d a b => some (d, a, b, fun x y _ => BitVec.ofInt 64 (min x.toInt y.toInt))
  | .max d a b => some (d, a, b, fun x y _ => BitVec.ofInt 64 (max x.toInt y.toInt))
  | .minu d a b => some (d, a, b, fun x y _ => BitVec.ofNat 64 (min x.toNat y.toNat))
  | .maxu d a b => some (d, a, b, fun x y _ => BitVec.ofNat 64 (max x.toNat y.toNat))
  | .sel d a b => some (d, a, b, fun x y z => if z = 0 then y else x)
  | .mul d a b => some (d, a, b, fun x y _ => BitVec.ofNat 64 (x.toNat * y.toNat))
  | .mulh d a b => some (d, a, b, fun x y _ => BitVec.ofInt 64 (x.toInt * y.toInt / 2 ^ 64))
  | .mulhu d a b => some (d, a, b, fun x y _ => BitVec.ofNat 64 (x.toNat * y.toNat / 2 ^ 64))
  | .div d a b => some (d, a, b, fun x y _ => if y = 0 then BitVec.ofInt 64 (-1) else BitVec.ofInt 64 (x.toInt.tdiv y.toInt))
  | .divu d a b => some (d, a, b, fun x y _ => if y = 0 then BitVec.ofNat 64 (2 ^ 64 - 1) else BitVec.ofNat 64 (x.toNat / y.toNat))
  | .rem d a b => some (d, a, b, fun x y _ => if y = 0 then x else BitVec.ofInt 64 (x.toInt.tmod y.toInt))
  | .remu d a b => some (d, a, b, fun x y _ => if y = 0 then x else BitVec.ofNat 64 (x.toNat % y.toNat))
  | .clz d a => some (d, a, 0, fun x _ _ =>
      BitVec.ofNat 64 (((List.range 64).find? (fun k => x.getLsbD (63 - k))).getD 64))
  | .ctz d a => some (d, a, 0, fun x _ _ => BitVec.ofNat 64 (((List.range 64).find? (fun k => x.getLsbD k)).getD 64))
  | .popc d a => some (d, a, 0, fun x _ _ => BitVec.ofNat 64 (((List.range 64).filter (fun k => x.getLsbD k)).length))
  | _ => none

/-- Destination, source and result of a row of majors 0x03 to 0x0D: of S(rs1), S(rd) and the program counter. -/
def scalarImm : Instr → Option (BitVec 7 × BitVec 7 × (Word → Word → BitVec 56 → Word))
  | .addi d a i => some (d, a, fun x _ _ => BitVec.ofInt 64 ((x.toNat : Int) + i.toInt))
  | .andi d a i => some (d, a, fun x _ _ => x &&& BitVec.ofInt 64 i.toInt)
  | .ori d a i => some (d, a, fun x _ _ => x ||| BitVec.ofInt 64 i.toInt)
  | .xori d a i => some (d, a, fun x _ _ => x ^^^ BitVec.ofInt 64 i.toInt)
  | .slti d a i => some (d, a, fun x _ _ => if x.toInt < i.toInt then 1 else 0)
  | .sltiu d a i => some (d, a, fun x _ _ => if x.toNat < (BitVec.ofInt 64 i.toInt).toNat then 1 else 0)
  | .slli d a i => some (d, a, fun x _ _ => BitVec.ofNat 64 (x.toNat * 2 ^ i.toNat))
  | .srli d a i => some (d, a, fun x _ _ => BitVec.ofNat 64 (x.toNat / 2 ^ i.toNat))
  | .srai d a i => some (d, a, fun x _ _ => BitVec.ofInt 64 (x.toInt / 2 ^ i.toNat))
  | .lih d i => some (d, 0, fun _ z _ => BitVec.ofNat 64 (z.toNat * 2 ^ 18 + i.toNat))
  | .addpc d i => some (d, 0, fun _ _ pc => BitVec.ofNat 64 (((pc.toNat : Int) + i.toInt * 2 ^ 11) % 2 ^ 56).toNat)
  | _ => none

/-! ### Scalar floating point, in the words of R20 to R35 and R89 to R91 -/

/-- An IEEE format: widths of its exponent and fraction fields, exponent bias, default NaN. -/
structure IeeeFmt where
  eb : Nat
  fb : Nat
  bias : Nat
  qnan : Nat

/-- Table 1 of R20. -/
def ieee : Ty → IeeeFmt
  | .f64 => ⟨11, 52, 1023, 0x7FF8000000000000⟩
  | .f16 => ⟨5, 10, 15, 0x7E00⟩
  | .b16 => ⟨8, 7, 127, 0x7FC0⟩
  | _ => ⟨8, 23, 127, 0x7FC00000⟩

/-- Sign field of a pattern. -/
def IeeeFmt.sign (f : IeeeFmt) (p : Nat) : Bool := p.testBit (f.eb + f.fb)
/-- Exponent field of a pattern. -/
def IeeeFmt.expo (f : IeeeFmt) (p : Nat) : Nat := p / 2 ^ f.fb % 2 ^ f.eb
/-- Fraction field of a pattern. -/
def IeeeFmt.frac (f : IeeeFmt) (p : Nat) : Nat := p % 2 ^ f.fb
/-- The pattern is a NaN. -/
def IeeeFmt.nan (f : IeeeFmt) (p : Nat) : Bool := f.expo p == 2 ^ f.eb - 1 && f.frac p != 0
/-- The pattern is a signalling NaN. -/
def IeeeFmt.sig (f : IeeeFmt) (p : Nat) : Bool := f.nan p && !p.testBit (f.fb - 1)
/-- The pattern is an infinity. -/
def IeeeFmt.inf (f : IeeeFmt) (p : Nat) : Bool := f.expo p == 2 ^ f.eb - 1 && f.frac p == 0
/-- The pattern is a signed zero. -/
def IeeeFmt.zero (f : IeeeFmt) (p : Nat) : Bool := f.expo p == 0 && f.frac p == 0
/-- The number a pattern stands for, and for an infinity one beyond every finite number of its sign. -/
def IeeeFmt.val (f : IeeeFmt) (p : Nat) : ℚ :=
  (if f.sign p then -1 else 1) * (((if f.expo p = 0 then 0 else 2 ^ f.fb) + f.frac p : Nat) : ℚ) *
    (2 : ℚ) ^ ((max (f.expo p) 1 : Nat) - (f.bias : Int) - f.fb)
/-- The pattern of a sign, an exponent field and a fraction field. -/
def IeeeFmt.pat (f : IeeeFmt) (s : Bool) (ex fr : Nat) : Nat := (if s then 2 ^ (f.eb + f.fb) else 0) + ex * 2 ^ f.fb + fr
/-- Infinity of a sign. -/
def IeeeFmt.infOf (f : IeeeFmt) (s : Bool) : Nat := f.pat s (2 ^ f.eb - 1) 0
/-- Largest finite number of a sign. -/
def IeeeFmt.maxOf (f : IeeeFmt) (s : Bool) : Nat := f.pat s (2 ^ f.eb - 2) (2 ^ f.fb - 1)
/-- Zero of a sign. -/
def IeeeFmt.zeroOf (f : IeeeFmt) (s : Bool) : Nat := f.pat s 0 0

/-- r is v rounded in a mode of Table 3 (R25) to a member of G; E says which members have an even significand. A number above 4 is no
mode, and FCTL.RM never holds one; the model rounds it as 4. -/
def rounded (G E : ℝ → Prop) (rm : Nat) (v r : ℝ) : Prop :=
  G r ∧ match rm with
    | 0 => ∀ g, G g → |r - v| ≤ |g - v| ∧ (|g - v| = |r - v| → g = r ∨ E r)
    | 1 => |r| ≤ |v| ∧ 0 ≤ r * v ∧ ∀ g, G g → |g| ≤ |v| → |g| ≤ |r|
    | 2 => r ≤ v ∧ ∀ g, G g → g ≤ v → g ≤ r
    | 3 => v ≤ r ∧ ∀ g, G g → v ≤ g → r ≤ g
    | _ => ∀ g, G g → |r - v| ≤ |g - v| ∧ (|g - v| = |r - v| → |g| ≤ |r|)

/-- Numbers with a significand of k bits, n · 2^q with q not below the bound, where there is one. -/
def onGrid (k : Nat) (lo : Option Int) (x : ℝ) : Prop :=
  ∃ (n : Nat) (q : Int), n < 2 ^ k ∧ (∀ l ∈ lo, l ≤ q) ∧ |x| = n * (2 : ℝ) ^ q
/-- Those of them whose significand, with all its k bits or at the bound, is even. -/
def evenOn (k : Nat) (lo : Option Int) (x : ℝ) : Prop :=
  ∃ (n : Nat) (q : Int), n < 2 ^ k ∧ (∀ l ∈ lo, l ≤ q) ∧ (2 ^ (k - 1) ≤ n ∨ lo = some q) ∧ |x| = n * (2 : ℝ) ^ q ∧ n % 2 = 0

/-- Round(fmt, v, rm) of R33 for an exact value v that is not zero: pattern and flags (NV 1, DZ 2, OF 4, UF 8, NX 16). r is v rounded
as if there were no largest exponent, u as if there were no smallest one either. -/
def IeeeFmt.isRound (f : IeeeFmt) (rm : Nat) (v : ℝ) (p fl : Nat) : Prop :=
  let lo : Int := 1 - f.bias - f.fb
  ∃ (r u : ℝ) (s : Bool), (s = true ↔ v < 0) ∧
    rounded (onGrid (f.fb + 1) (some lo)) (evenOn (f.fb + 1) (some lo)) rm v r ∧
    rounded (onGrid (f.fb + 1) none) (evenOn (f.fb + 1) none) rm v u ∧
    (2 ^ (f.bias + 1) ≤ |r| → fl = 4 + 16 ∧
      p = if rm = 1 ∨ rm = 2 ∧ s = false ∨ rm = 3 ∧ s = true then f.maxOf s else f.infOf s) ∧
    (|r| < 2 ^ (f.bias + 1) → p < 2 ^ (f.eb + f.fb + 1) ∧ f.expo p ≠ 2 ^ f.eb - 1 ∧ f.sign p = s ∧ (f.val p : ℝ) = r ∧
      (r = v → fl = 0) ∧ (r ≠ v → (2 : ℝ) ^ (1 - f.bias : Int) ≤ |u| → fl = 16) ∧
      (r ≠ v → |u| < (2 : ℝ) ^ (1 - f.bias : Int) → fl = 8 + 16))

/-- Arithmetic operations of Table 9 (R90). -/
inductive FpArith where
  | add | sub | mul | div | sqrt | fma
  deriving DecidableEq, Repr

/-- A product of zero and infinity. -/
def IeeeFmt.noProduct (f : IeeeFmt) (x y : Nat) : Bool := f.zero x && f.inf y || f.inf x && f.zero y
/-- Invalid operations of R90, of operands that are no NaNs. -/
def IeeeFmt.invalid (f : IeeeFmt) (o : FpArith) (x y z : Nat) : Bool :=
  match o with
  | .add => f.inf x && f.inf y && f.sign x != f.sign y
  | .sub => f.inf x && f.inf y && f.sign x == f.sign y
  | .mul => f.noProduct x y
  | .div => f.inf x && f.inf y || f.zero x && f.zero y
  | .sqrt => f.sign x && !f.zero x
  | .fma => f.noProduct x y || (f.inf x || f.inf y) && f.inf z && (f.sign x ^^ f.sign y) != f.sign z
/-- Sign of an infinite result of operands that are no NaNs and no invalid operation. -/
def IeeeFmt.infinite (f : IeeeFmt) (o : FpArith) (x y z : Nat) : Option Bool :=
  match o with
  | .add => if f.inf x then some (f.sign x) else if f.inf y then some (f.sign y) else none
  | .sub => if f.inf x then some (f.sign x) else if f.inf y then some (!f.sign y) else none
  | .mul => if f.inf x || f.inf y then some (f.sign x ^^ f.sign y) else none
  | .div => if f.inf x || f.zero y then some (f.sign x ^^ f.sign y) else none
  | .sqrt => if f.inf x then some false else none
  | .fma => if f.inf x || f.inf y then some (f.sign x ^^ f.sign y) else if f.inf z then some (f.sign z) else none
/-- v is the exact value of an operation whose result is finite. -/
def IeeeFmt.exact (f : IeeeFmt) (o : FpArith) (x y z : Nat) (v : ℝ) : Prop :=
  match o with
  | .add => v = (f.val x + f.val y : ℚ)
  | .sub => v = (f.val x - f.val y : ℚ)
  | .mul => v = (f.val x * f.val y : ℚ)
  | .div => if f.inf y then v = 0 else v = (f.val x / f.val y : ℚ)
  | .sqrt => 0 ≤ v ∧ v * v = (f.val x : ℚ)
  | .fma => v = (f.val x * f.val y + f.val z : ℚ)
/-- Sign of a result that is exactly zero (R33, R90). -/
def IeeeFmt.zeroSign (f : IeeeFmt) (rm : Nat) (o : FpArith) (x y z : Nat) : Bool :=
  match o with
  | .add => if f.zero x && f.zero y && f.sign x == f.sign y then f.sign x else rm == 2
  | .sub => if f.zero x && f.zero y && f.sign x != f.sign y then f.sign x else rm == 2
  | .mul | .div => f.sign x ^^ f.sign y
  | .sqrt => f.sign x
  | .fma => if (f.zero x || f.zero y) && f.zero z && (f.sign x ^^ f.sign y) == f.sign z then f.sign z else rm == 2

/-- p and fl are the result and the flags of an arithmetic operation on the patterns x, y and z (R21, R33, R90). -/
def IeeeFmt.arith (f : IeeeFmt) (rm : Nat) (o : FpArith) (x y z p fl : Nat) : Prop :=
  let ops := match o with
    | .sqrt => [x]
    | .fma => [x, y, z]
    | _ => [x, y]
  (ops.any f.nan = true → p = f.qnan ∧ fl = if ops.any f.sig || o == .fma && f.noProduct x y then 1 else 0) ∧
  (ops.any f.nan = false → f.invalid o x y z = true → p = f.qnan ∧ fl = 1) ∧
  (ops.any f.nan = false → f.invalid o x y z = false →
    (∀ s, f.infinite o x y z = some s → p = f.infOf s ∧ fl = if o == .div && !f.inf x then 2 else 0) ∧
    (f.infinite o x y z = none → ∃ v : ℝ, f.exact o x y z v ∧
      (v = 0 → p = f.zeroOf (f.zeroSign rm o x y z) ∧ fl = 0) ∧ (v ≠ 0 → f.isRound rm v p fl)))

/-- p and fl are minimumNumber or maximumNumber of x and y and its flags (R21). -/
def IeeeFmt.extremum (f : IeeeFmt) (isMax : Bool) (x y p fl : Nat) : Prop :=
  fl = (if f.sig x || f.sig y then 1 else 0) ∧
  (f.nan x = true → f.nan y = true → p = f.qnan) ∧ (f.nan x = true → f.nan y = false → p = y) ∧
  (f.nan x = false → f.nan y = true → p = x) ∧
  (f.nan x = false → f.nan y = false → (p = x ∨ p = y) ∧
    f.val p = (if isMax then max (f.val x) (f.val y) else min (f.val x) (f.val y)) ∧
    (f.zero x = true → f.zero y = true → f.sign p = if isMax then f.sign x && f.sign y else f.sign x || f.sign y))

/-- Outcome of a comparison of Table 9 (R90). -/
def IeeeFmt.holds (f : IeeeFmt) (k : FCond) (x y : Nat) : Bool :=
  match k with
  | .eq => !f.nan x && !f.nan y && decide (f.val x = f.val y)
  | .ne => f.nan x || f.nan y || decide (f.val x ≠ f.val y)
  | .lt => !f.nan x && !f.nan y && decide (f.val x < f.val y)
  | .le => !f.nan x && !f.nan y && decide (f.val x ≤ f.val y)
  | .un => f.nan x || f.nan y

/-- Flags of a comparison: a signalling one raises NV for any NaN, a quiet one for a signalling NaN (R90). -/
def IeeeFmt.holdsFlags (f : IeeeFmt) (k : FCond) (x y : Nat) : Nat :=
  if (if k = .lt ∨ k = .le then f.nan x || f.nan y else f.sig x || f.sig y) then 1 else 0

/-- Bit number of FCLASS's mask (R90). -/
def IeeeFmt.classBit (f : IeeeFmt) (x : Nat) : Nat :=
  if f.sig x then 8 else if f.nan x then 9 else
  match f.sign x with
  | true => if f.inf x then 0 else if f.zero x then 3 else if f.expo x = 0 then 2 else 1
  | false => if f.inf x then 7 else if f.zero x then 4 else if f.expo x = 0 then 5 else 6

/-- Range of an integer type of FCVT (R91). -/
def intRange : Ty → Int × Int
  | .s32 => (-2 ^ 31, 2 ^ 31 - 1)
  | .s64 => (-2 ^ 63, 2 ^ 63 - 1)
  | .n32 => (0, 2 ^ 32 - 1)
  | _ => (0, 2 ^ 64 - 1)

/-- The integer an operand of FCVT stands for (R91). -/
def intRead (t : Ty) (x : Nat) : Int :=
  match t with
  | .s32 => (BitVec.ofNat 32 x).toInt
  | .s64 => (BitVec.ofNat 64 x).toInt
  | .n32 => (x % 2 ^ 32 : Nat)
  | _ => (x % 2 ^ 64 : Nat)

/-- v and fl are what FCVT from one type to another writes and raises (R35, R91). -/
def converted (src dst : Ty) (rm : Nat) (x v fl : Nat) : Prop :=
  let f := ieee src
  let g := ieee dst
  if src ∈ [Ty.f32, Ty.f64] then
    if dst ∈ [Ty.f32, Ty.f64] then
      (f.nan x = true → v = g.qnan ∧ fl = if f.sig x then 1 else 0) ∧
      (f.inf x = true → v = g.infOf (f.sign x) ∧ fl = 0) ∧ (f.zero x = true → v = g.zeroOf (f.sign x) ∧ fl = 0) ∧
      (f.expo x ≠ 2 ^ f.eb - 1 → f.zero x = false → g.isRound rm (f.val x : ℚ) v fl)
    else
      let b := intRange dst
      (f.nan x = true → v = 0 ∧ fl = 1) ∧
      (f.inf x = true → (v : Int) = (if f.sign x then b.1 else b.2) % 2 ^ 64 ∧ fl = 1) ∧
      (f.expo x ≠ 2 ^ f.eb - 1 → ∃ n : Int,
        rounded (fun r => ∃ k : Int, r = k) (fun r => ∃ k : Int, r = 2 * k) rm (f.val x : ℚ) (n : ℝ) ∧
        (n < b.1 → (v : Int) = b.1 % 2 ^ 64 ∧ fl = 1) ∧ (b.2 < n → (v : Int) = b.2 % 2 ^ 64 ∧ fl = 1) ∧
        (b.1 ≤ n → n ≤ b.2 → (v : Int) = n % 2 ^ 64 ∧ fl = if (n : ℚ) = f.val x then 0 else 16))
  else
    (intRead src x = 0 → v = 0 ∧ fl = 0) ∧ (intRead src x ≠ 0 → g.isRound rm (intRead src x : ℝ) v fl)

/-- What a scalar floating-point instruction does: arithmetic, an extremum, a comparison, a class mask, or a conversion from a type. -/
inductive FpKind where
  | arith (o : FpArith)
  | extremum (isMax : Bool)
  | cmp (k : FCond)
  | cls
  | cvt (src : Ty)
  deriving DecidableEq, Repr

/-- Kind, type, destination and sources of a scalar floating-point instruction: Table 9 of R90, and R91. The conversions are those
whose source and target differ, are types of R91, and are not both integers. -/
def scalarFp : Instr → Option (FpKind × Ty × BitVec 7 × BitVec 7 × BitVec 7)
  | .faddF32 d a b => some (.arith .add, .f32, d, a, b)
  | .fsubF32 d a b => some (.arith .sub, .f32, d, a, b)
  | .fmulF32 d a b => some (.arith .mul, .f32, d, a, b)
  | .fdivF32 d a b => some (.arith .div, .f32, d, a, b)
  | .fsqrtF32 d a => some (.arith .sqrt, .f32, d, a, 0)
  | .fminF32 d a b => some (.extremum false, .f32, d, a, b)
  | .fmaxF32 d a b => some (.extremum true, .f32, d, a, b)
  | .fmaF32 d a b => some (.arith .fma, .f32, d, a, b)
  | .fcmpEqF32 d a b => some (.cmp .eq, .f32, d, a, b)
  | .fcmpLtF32 d a b => some (.cmp .lt, .f32, d, a, b)
  | .fcmpLeF32 d a b => some (.cmp .le, .f32, d, a, b)
  | .fcmpUnF32 d a b => some (.cmp .un, .f32, d, a, b)
  | .fclassF32 d a => some (.cls, .f32, d, a, 0)
  | .faddF64 d a b => some (.arith .add, .f64, d, a, b)
  | .fsubF64 d a b => some (.arith .sub, .f64, d, a, b)
  | .fmulF64 d a b => some (.arith .mul, .f64, d, a, b)
  | .fdivF64 d a b => some (.arith .div, .f64, d, a, b)
  | .fsqrtF64 d a => some (.arith .sqrt, .f64, d, a, 0)
  | .fminF64 d a b => some (.extremum false, .f64, d, a, b)
  | .fmaxF64 d a b => some (.extremum true, .f64, d, a, b)
  | .fmaF64 d a b => some (.arith .fma, .f64, d, a, b)
  | .fcmpEqF64 d a b => some (.cmp .eq, .f64, d, a, b)
  | .fcmpLtF64 d a b => some (.cmp .lt, .f64, d, a, b)
  | .fcmpLeF64 d a b => some (.cmp .le, .f64, d, a, b)
  | .fcmpUnF64 d a b => some (.cmp .un, .f64, d, a, b)
  | .fclassF64 d a => some (.cls, .f64, d, a, 0)
  | .fcvt d a s t =>
    let ty (c : BitVec 4) : Option Ty := sfind [(2, .s32), (3, .s64), (6, .n32), (7, .n64), (10, .f32), (11, .f64)] c.toNat
    match ty s, ty t with
    | some u, some w => if s ≠ t ∧ (10 ≤ s.toNat ∨ 10 ≤ t.toNat) then some (.cvt u, w, d, a, 0) else none
    | _, _ => none
  | _ => none

/-- v and fl are what an instruction of a kind and type writes and raises, of the registers x, y and the old destination z: F32
operands are bits [31:0] (R89). -/
def fpResult (rm : Nat) (k : FpKind) (t : Ty) (x y z : Word) (v fl : Nat) : Prop :=
  let f := ieee t
  let w := if t = .f64 then 64 else 32
  let X := x.toNat % 2 ^ w
  let Y := y.toNat % 2 ^ w
  match k with
  | .arith o => f.arith rm o X Y (z.toNat % 2 ^ w) v fl
  | .extremum isMax => f.extremum isMax X Y v fl
  | .cmp k => v = (if f.holds k X Y then 1 else 0) ∧ fl = f.holdsFlags k X Y
  | .cls => v = 2 ^ f.classBit X ∧ fl = 0
  | .cvt src => converted src t rm x.toNat v fl

/-- Destination of an instruction of majors 0x01 to 0x0D and 0x20 to 0x22, and whether it can raise flags. -/
def scalarDest (i : Instr) : Option (BitVec 7 × Bool) :=
  match scalarRR i, scalarImm i, scalarFp i, i with
  | some x, _, _, _ => some (x.1, false)
  | none, some x, _, _ => some (x.1, false)
  | none, none, some x, _ => some (x.2.2.1, true)
  | none, none, none, .fcvt d _ _ _ => some (d, true)
  | none, none, none, _ => none

/-- Sources, offset and condition of a branch (R93). -/
def branchOf : Instr → Option (BitVec 7 × BitVec 7 × BitVec 11 × (Word → Word → Bool))
  | .beq b a o => some (a, b, o, fun x y => decide (x = y))
  | .bne b a o => some (a, b, o, fun x y => decide (x ≠ y))
  | .blt b a o => some (a, b, o, fun x y => decide (x.toInt < y.toInt))
  | .bge b a o => some (a, b, o, fun x y => decide (y.toInt ≤ x.toInt))
  | .bltu b a o => some (a, b, o, fun x y => decide (x.toNat < y.toNat))
  | .bgeu b a o => some (a, b, o, fun x y => decide (y.toNat ≤ x.toNat))
  | _ => none

/-- Destination, base, offset, size and sign extension of a scalar load (R92). -/
def loadOf : Instr → Option (BitVec 7 × BitVec 7 × BitVec 11 × Nat × Bool)
  | .lb d a i => some (d, a, i, 1, true)
  | .lbu d a i => some (d, a, i, 1, false)
  | .lh d a i => some (d, a, i, 2, true)
  | .lhu d a i => some (d, a, i, 2, false)
  | .lw d a i => some (d, a, i, 4, true)
  | .lwu d a i => some (d, a, i, 4, false)
  | .ld d a i => some (d, a, i, 8, false)
  | _ => none

/-- Source, base, offset and size of a scalar store (R92). -/
def storeOf : Instr → Option (BitVec 7 × BitVec 7 × BitVec 11 × Nat)
  | .sb r a i => some (r, a, i, 1)
  | .sh r a i => some (r, a, i, 2)
  | .sw r a i => some (r, a, i, 4)
  | .sd r a i => some (r, a, i, 8)
  | _ => none

/-- The n bytes of memory at a location, little-endian, sign- or zero-extended to 64 bits (R19, R92). -/
def memVal (m : List Host.Cell) (a n : Nat) (sgn : Bool) : Word :=
  let v := ofLe (rdBytes m a n)
  if sgn then BitVec.ofInt 64 (BitVec.ofNat (8 * n) v).toInt else BitVec.ofNat 64 v

/-! ### Instructions of the system family -/

/-- As doneWith, for an instruction with trace records: the rest of the machine stays when the hart is not traced. -/
def State.doneTraced (s t : State) (h : Nat) (c : Ctx) : Prop :=
  s.quietFor h → t.hart h = { s.hart h with wait := none, ctx := c } ∧ s.othersSame t h ∧ (s.traced h = false → s.restSame t)

/-- Hart, cause, value and prefix mark of the scalar-side trap that an instruction is (R82, R104, R105), or that a hart waits to
take (R63). -/
def trapOf (s : State) : Instr → Option (Nat × Nat × Word × Bool)
  | .trap c => some (s.cur, 3, BitVec.ofNat 64 c.toNat, false)
  | .brk c => some (s.cur, 4, BitVec.ofNat 64 c.toNat, false)
  | .illegalEncoding pre base =>
    some (s.cur, 1, BitVec.ofNat 64 ((pre.map BitVec.toNat).getD 0 * 2 ^ 32 + base.toNat), pre.isSome)
  | .trapEntry h =>
    match (s.hart h).run, (s.hart h).wait with
    | .running, some (.trap c v p) => some (h, c, v, p)
    | _, _ => none
  | _ => none

/-- The values of Table 14's registers (R102) for hart h. -/
def sysTable (s : State) (h : Nat) : List (Nat × Nat) :=
  let c := s.ctx h
  [(0x000, c.vl), (0x001, c.rows), (0x002, 256 * popc (s.core (coreOf h)).lanes 8), (0x003, 0), (0x004, 32 * c.swb),
   (0x005, 32 * c.vwb), (0x010, c.fflags.toNat), (0x011, c.fctl), (0x012, c.fexca), (0x013, c.fexcb), (0x014, c.fprogA.toNat),
   (0x015, c.fprogB.toNat), (0x016, c.fstat), (0x020, c.mctl), (0x021, s.bstat h), (0x030, s.eseq h), (0x040, s.hid h),
   (0x041, s.lmap c.lmapSel), (0x042, s.time % 2 ^ 64)]

/-- Fields of a word: of each its highest bit, its lowest bit and its value. -/
def fieldsOf (v : Nat) (l : List (Nat × Nat × Nat)) : Prop := ∀ x ∈ l, v / 2 ^ x.2.1 % 2 ^ (x.1 + 1 - x.2.1) = x.2.2

/-- Working cores with numbers from lo up to hi. -/
def State.workingIn (s : State) (lo hi : Nat) : List Nat :=
  ((List.range (hi - lo)).map (· + lo)).filter (fun c => s.coreMask.testBit c)

/-- Registers whose SRR and SRW wait for every earlier vector instruction (R29, R241, R258). -/
def waitsForQueue (n : Nat) : Bool := n ∈ [0x003, 0x010, 0x011, 0x012, 0x013, 0x014, 0x015, 0x016, 0x020]

/-- Source and effect of an SRW of a register that waits (R27, R28, R67, R241, R258). -/
def srwOf : Instr → Option (BitVec 7 × (Nat → Ctx → Ctx))
  | .srwFflags a => some (a, fun x c => { c with fflags := BitVec.ofNat 7 x })
  | .srwFctl a => some (a, fun x c => { c with
      rm := if x % 8 < 5 then x % 8 else c.rm, xle := x.testBit 4, xlovf := x.testBit 5 && c.xlovf,
      xbase := x / 2 ^ 12 % 2 ^ 44, xsz := x / 2 ^ 60 % 2 ^ 4 })
  | .srwFexca a => some (a, fun x c => { c with
      fexc := [x % 2 ^ 16, x / 2 ^ 16 % 2 ^ 16, x / 2 ^ 32 % 2 ^ 16, x / 2 ^ 48 % 2 ^ 16, nth c.fexc 4, nth c.fexc 5, nth c.fexc 6] })
  | .srwFexcb a => some (a, fun x c => { c with
      fexc := [nth c.fexc 0, nth c.fexc 1, nth c.fexc 2, nth c.fexc 3, x % 2 ^ 16, x / 2 ^ 16 % 2 ^ 16, x / 2 ^ 32 % 2 ^ 16] })
  | .srwFproga a => some (a, fun x c => { c with fprogA := BitVec.ofNat 64 x })
  | .srwFprogb a => some (a, fun x c => { c with fprogB := BitVec.ofNat 64 x })
  | .srwFstat a => some (a, fun x c => { c with ovf := x.testBit 0, ord := x.testBit 1, rng := x.testBit 2 && c.rng })
  | .srwMctl a => some (a, fun x c => { c with
      tmo := x % 2 ^ 32, mode := if x / 2 ^ 32 % 4 < 2 then x / 2 ^ 32 % 4 else c.mode })
  | _ => none

/-- Every field of FCTL, FEXCA, FEXCB and MCTL holds a value of its width, and RM a mode, as at reset and after every SRW (R28, R67, R241). -/
def Ctx.fieldsFit (c : Ctx) : Prop :=
  c.xsz < 2 ^ 4 ∧ c.xbase < 2 ^ 44 ∧ c.rm < 5 ∧ (∀ k, k < 7 → nth c.fexc k < 2 ^ 16) ∧ c.mode < 2 ∧ c.tmo < 2 ^ 32

/-- The fetch of a NEST's body of len words (R97). -/
def nestBody (h len : Nat) : M (List (BitVec 32)) := do
  let c := (← get).ctx h
  (List.range len).mapM (fun k => fetchWord h (wrap56 (c.pc.toNat + 4 + 4 * k)))

/-- The read of the 31 words of a nest's descriptor (R95). -/
def nestWords (h : Nat) (a : Word) : M (List Word) :=
  (List.range 31).mapM (fun k => do
    let x ← sread h (a + BitVec.ofNat 64 (8 * k)).toNat 8
    pure (BitVec.ofNat 64 x))

/-- Instructions that a nest's body must not contain (R97). -/
def barredInBody : Instr → Bool
  | .beq _ _ _ | .bne _ _ _ | .blt _ _ _ | .bge _ _ _ | .bltu _ _ _ | .bgeu _ _ _ | .jal _ _ | .jalr _ _ _ | .nest _ _ | .win _ _
  | .tret | .exit => true
  | _ => false

/-- A word, with the P word before it if there is one, is illegal or barred from a nest's body (R97). -/
def offends (pre : Option (BitVec 32)) (w : BitVec 32) : Prop :=
  match decodePair pre w with
  | none => True
  | some i => barredInBody i = true

/-- The first offending word of a body is o, or there is none (R97): a word that offends, the P word of a pair that does, or a P word
that is last. -/
def offender : List (BitVec 32) → Option (BitVec 32) → Prop
  | [], o => o = none
  | w :: t, o =>
    if isPfxWord w then
      match t with
      | [] => o = some w
      | b :: u => (offends (some w) b → o = some w) ∧ (¬ offends (some w) b → offender u o)
    else (offends none w → o = some w) ∧ (¬ offends none w → offender t o)

/-- The validity test of R96 fails: ND outside 1 to 6, NA above 4, or a zero field of Table 12 (R95) that is not zero in word 0 or in a
trip count's word. -/
def badNest (w : List Word) : Prop :=
  let f (hi lo : Nat) := wnth w 0 / 2 ^ lo % 2 ^ (hi + 1 - lo)
  f 2 0 < 1 ∨ 6 < f 2 0 ∨ 4 < f 6 4 ∨ (∃ z ∈ [(63, 39), (31, 31), (23, 23), (15, 15), (7, 7), (3, 3)], f z.1 z.2 ≠ 0) ∨
  ∃ d, d < f 2 0 ∧ wnth w (1 + d) / 2 ^ 32 ≠ 0

/-- Hart, queue and entry of a QPUSH, executed or waiting for room (R100, R101). -/
def qpushOf (s : State) : Instr → Option (Nat × Nat × Word)
  | .qpush r q => some (s.cur, q.toNat, s.getS64 s.cur r.toNat)
  | .qpushRoom h =>
    match (s.hart h).run, (s.hart h).wait with
    | .running, some (.qpush q v) => some (h, q, v)
    | _, _ => none
  | _ => none

/-- Hart, destination and queue of a QPOP, executed or waiting for an entry (R100, R101). -/
def qpopOf (s : State) : Instr → Option (Nat × Nat × Nat)
  | .qpop d q => some (s.cur, d.toNat, q.toNat)
  | .qpopEntryArrival h =>
    match (s.hart h).run, (s.hart h).wait with
    | .running, some (.qpop d q) => some (h, d, q)
    | _, _ => none
  | _ => none

/-! ### Vector instructions that act element by element (R123), in the words of R127 to R138 -/

/-- A vector instruction that acts element by element. In F, C is the context at issue and c the context when the element's turn
comes, r and i the element's row and position; it gives the pattern to write and the flags raised. -/
structure ElemRow where
  /-- governing width (R45) -/
  w : Nat
  /-- width of a destination element; none when the destination is a mask -/
  dst : Option Nat
  d : BitVec 7
  /-- names of the operands A, B and C, 0 where there is none -/
  srcs : BitVec 7 × BitVec 7 × BitVec 7
  px : Option Pfx
  /-- registers that must be multiples of ROWS (R44) -/
  swept : List (BitVec 7)
  /-- further legality: of the context, VLe -/
  ok : Ctx → Nat → Bool
  flags : Bool
  F : Ctx → Ctx → Nat → Nat → Nat → Nat × Nat

/-- Element i of row r of the register named n, as window bases stood at issue. -/
def elAt (C c : Ctx) (n : BitVec 7) (w r i : Nat) : Nat := getEl (c.getV (physV C n.toNat + r)) w i
/-- The second source: a vector element with its modifier (R77), or the low bits of a scalar register (R119). -/
def secondAt (k : Src2) (px : Option Pfx) (C c : Ctx) (b : BitVec 7) (w vle r i : Nat) : Nat :=
  match k with
  | .vec => xsrc c (pfxOf px).xmod.toNat (physV C b.toNat + r) w vle i
  | .scal => (C.getS b.toNat).toNat % 2 ^ w
/-- A second source with a modifier does not overlap the destination (R122). -/
def apart (k : Src2) (px : Option Pfx) (d b : BitVec 7) (C : Ctx) (_ : Nat) : Bool :=
  k == .scal || (pfxOf px).xmod == 0 ||
  decide (physV C d.toNat + C.rows ≤ physV C b.toNat ∨ physV C b.toNat + C.rows ≤ physV C d.toNat)
/-- Rounding mode in force (R76). -/
def rmOf (px : Option Pfx) (C : Ctx) : Nat := if (pfxOf px).rm = 7 then C.rm else (pfxOf px).rm.toNat

/-- Integer row: of the type, SAT, a, b and the old destination. -/
def rowInt (k : Src2) (d a b : BitVec 7) (px : Option Pfx) (f : Ty → Bool → Nat → Nat → Nat → Nat) : ElemRow :=
  let t := elTy 2 px
  let w := tyW t
  { w := w, dst := some w, d := d, srcs := (a, b, 0), px := px, swept := if k = .vec then [d, a, b] else [d, a], ok := apart k px d b,
    flags := false,
    F := fun C c vle r i =>
      (f t ((pfxOf px).sat == 1) (elAt C c a w r i) (secondAt k px C c b w vle r i) (elAt C c d w r i), 0) }
/-- Integer row with one source. -/
def rowInt1 (d a : BitVec 7) (px : Option Pfx) (f : Nat → Nat → Nat) : ElemRow :=
  let w := tyW (elTy 2 px)
  { w := w, dst := some w, d := d, srcs := (a, 0, 0), px := px, swept := [d, a], ok := fun _ _ => true, flags := false,
    F := fun C c _ r i => (f w (elAt C c a w r i), 0) }
/-- Float row: of the format, the rounding mode, a, b and the addend, which is the old destination or the register of rs3. -/
def rowFp (k : Src2) (d a b : BitVec 7) (px : Option Pfx) (f : FFmt → Nat → Nat → Nat → Nat → Nat × Nat) : ElemRow :=
  let t := elTy 10 px
  let w := tyW t
  let rs3 := (pfxOf px).rs3
  { w := w, dst := some w, d := d, srcs := (a, b, rs3), px := px,
    swept := (if k = .vec then [d, a, b] else [d, a]) ++ (if rs3 = 0 then [] else [rs3]), ok := apart k px d b, flags := true,
    F := fun C c vle r i => f (fmtOf t) (rmOf px C) (elAt C c a w r i) (secondAt k px C c b w vle r i)
      (elAt C c (if rs3 = 0 then d else rs3) w r i) }
/-- Compare row: of the type, a and b. -/
def rowCmp (base : Nat) (flags : Bool) (d a b : BitVec 7) (px : Option Pfx) (f : Ty → Nat → Nat → Bool × Nat) : ElemRow :=
  let t := elTy base px
  let w := tyW t
  { w := w, dst := none, d := d, srcs := (a, b, 0), px := px, swept := [a, b], ok := fun _ _ => true, flags := flags,
    F := fun C c vle r i =>
      let x := f t (elAt C c a w r i) (secondAt .vec px C c b w vle r i)
      (b2n x.1, x.2) }
/-- Conversion row: of the contexts, VLe, the row, the position and the source pattern. -/
def rowConv (d a : BitVec 7) (px : Option Pfx) (src dst : Ty) (ok : Ctx → Nat → Bool)
    (f : Ctx → Ctx → Nat → Nat → Nat → Nat → Nat × Nat) : ElemRow :=
  { w := max (tyW src) (tyW dst), dst := some (tyW dst), d := d, srcs := (a, 0, 0), px := px, swept := [d, a], ok := ok, flags := true,
    F := fun C c vle r i => f C c vle r i (elAt C c a (tyW src) r i) }

/-- Entry of a scale register for element i of row r with blocks of 2^(b+3) elements (R135). -/
def scaleAt (c : Ctx) (reg b : BitVec 3) (vle r i : Nat) : Int :=
  c.scale reg.toNat (r * ((vle + 2 ^ (b.toNat + 3) - 1) / 2 ^ (b.toNat + 3)) + i / 2 ^ (b.toNat + 3))
/-- The blocks of a sweep fit in a scale register (R135). -/
def blocksFit (b : BitVec 3) (C : Ctx) (vle : Nat) : Bool :=
  decide (C.rows * ((vle + 2 ^ (b.toNat + 3) - 1) / 2 ^ (b.toNat + 3)) ≤ 2048)

/-- The rows of Tables 2 to 9 of chapters 18 and 19 that act element by element. -/
def elemRow : Instr → Option ElemRow
  | .vadd d a b px => some (rowInt .vec d a b px add)
  | .vaddScalar d a b px => some (rowInt .scal d a b px add)
  | .vsub d a b px => some (rowInt .vec d a b px sub)
  | .vsubScalar d a b px => some (rowInt .scal d a b px sub)
  | .vand d a b px => some (rowInt .vec d a b px (fun _ _ x y _ => x &&& y))
  | .vandScalar d a b px => some (rowInt .scal d a b px (fun _ _ x y _ => x &&& y))
  | .vor d a b px => some (rowInt .vec d a b px (fun _ _ x y _ => x ||| y))
  | .vorScalar d a b px => some (rowInt .scal d a b px (fun _ _ x y _ => x ||| y))
  | .vxor d a b px => some (rowInt .vec d a b px (fun _ _ x y _ => x ^^^ y))
  | .vxorScalar d a b px => some (rowInt .scal d a b px (fun _ _ x y _ => x ^^^ y))
  | .vmin d a b px => some (rowInt .vec d a b px lesser)
  | .vminScalar d a b px => some (rowInt .scal d a b px lesser)
  | .vmax d a b px => some (rowInt .vec d a b px greater)
  | .vmaxScalar d a b px => some (rowInt .scal d a b px greater)
  | .vsadd d a b px => some (rowInt .vec d a b px (fun t _ x y z => add t true x y z))
  | .vsaddScalar d a b px => some (rowInt .scal d a b px (fun t _ x y z => add t true x y z))
  | .vssub d a b px => some (rowInt .vec d a b px (fun t _ x y z => sub t true x y z))
  | .vssubScalar d a b px => some (rowInt .scal d a b px (fun t _ x y z => sub t true x y z))
  | .vmul d a b px => some (rowInt .vec d a b px (fun t sat x y _ => into t sat (intOf t x * intOf t y)))
  | .vmulScalar d a b px => some (rowInt .scal d a b px (fun t sat x y _ => into t sat (intOf t x * intOf t y)))
  | .vmulh d a b px => some (rowInt .vec d a b px high)
  | .vmulhScalar d a b px => some (rowInt .scal d a b px high)
  | .vmacc d a b px => some (rowInt .vec d a b px macc)
  | .vmaccScalar d a b px => some (rowInt .scal d a b px macc)
  | .vsll d a b px => some (rowInt .vec d a b px (fun t _ x y _ => x * 2 ^ (y % tyW t) % 2 ^ tyW t))
  | .vsllScalar d a b px => some (rowInt .scal d a b px (fun t _ x y _ => x * 2 ^ (y % tyW t) % 2 ^ tyW t))
  | .vsrl d a b px => some (rowInt .vec d a b px (fun t _ x y _ => x / 2 ^ (y % tyW t)))
  | .vsrlScalar d a b px => some (rowInt .scal d a b px (fun t _ x y _ => x / 2 ^ (y % tyW t)))
  | .vsra d a b px => some (rowInt .vec d a b px arith)
  | .vsraScalar d a b px => some (rowInt .scal d a b px arith)
  | .vclz d a px => some (rowInt1 d a px (fun w x => ((List.range w).find? (fun k => x.testBit (w - 1 - k))).getD w))
  | .vpopc d a px => some (rowInt1 d a px (fun w x => ((List.range w).filter (fun k => x.testBit k)).length))
  | .vfadd d a b px => some (rowFp .vec d a b px (fun f rm x y _ => opF f rm .add x y))
  | .vfaddScalar d a b px => some (rowFp .scal d a b px (fun f rm x y _ => opF f rm .add x y))
  | .vfsub d a b px => some (rowFp .vec d a b px (fun f rm x y _ => opF f rm .sub x y))
  | .vfsubScalar d a b px => some (rowFp .scal d a b px (fun f rm x y _ => opF f rm .sub x y))
  | .vfmul d a b px => some (rowFp .vec d a b px (fun f rm x y _ => opF f rm .mul x y))
  | .vfmulScalar d a b px => some (rowFp .scal d a b px (fun f rm x y _ => opF f rm .mul x y))
  | .vfdiv d a b px => some (rowFp .vec d a b px (fun f rm x y _ => opF f rm .div x y))
  | .vfdivScalar d a b px => some (rowFp .scal d a b px (fun f rm x y _ => opF f rm .div x y))
  | .vfmin d a b px => some (rowFp .vec d a b px (fun f rm x y _ => opF f rm .min x y))
  | .vfminScalar d a b px => some (rowFp .scal d a b px (fun f rm x y _ => opF f rm .min x y))
  | .vfmax d a b px => some (rowFp .vec d a b px (fun f rm x y _ => opF f rm .max x y))
  | .vfmaxScalar d a b px => some (rowFp .scal d a b px (fun f rm x y _ => opF f rm .max x y))
  | .vfma d a b px => some (rowFp .vec d a b px (fun f rm x y z => fmaF f rm false x y z))
  | .vfmaScalar d a b px => some (rowFp .scal d a b px (fun f rm x y z => fmaF f rm false x y z))
  | .vfnma d a b px => some (rowFp .vec d a b px (fun f rm x y z => fmaF f rm true x y z))
  | .vfnmaScalar d a b px => some (rowFp .scal d a b px (fun f rm x y z => fmaF f rm true x y z))
  | .vfsqrt d a px => some (rowFp .scal d a 0 px (fun f rm x _ _ => sqrtV f rm (decodeF f x)))
  | .vfclass d a px => some { rowFp .scal d a 0 px (fun f _ x _ _ => (classF f x, 0)) with flags := false }
  | .vcmp d a b cc px => some (rowCmp 2 false d a b px (fun t x y => (holds cc.toNat (intOf t x) (intOf t y), 0)))
  | .vfcmpEq d a b px => some (rowCmp 10 true d a b px (fun t x y => cmpF (fmtOf t) .eq x y))
  | .vfcmpNe d a b px => some (rowCmp 10 true d a b px (fun t x y => cmpF (fmtOf t) .ne x y))
  | .vfcmpLt d a b px => some (rowCmp 10 true d a b px (fun t x y => cmpF (fmtOf t) .lt x y))
  | .vfcmpLe d a b px => some (rowCmp 10 true d a b px (fun t x y => cmpF (fmtOf t) .le x y))
  | .vfcmpUn d a b px => some (rowCmp 10 true d a b px (fun t x y => cmpF (fmtOf t) .un x y))
  | .vcvt d a s px =>
    let t := elTy 10 px
    some (rowConv d a px (tyOf s) t (fun _ _ => true) (fun C _ _ _ _ x => convert (tyOf s) t (rmOf px C) ((pfxOf px).sat == 1) x))
  | .vwiden d a px =>
    let t := elTy 1 px
    some (rowConv d a px t (widenTo t) (fun _ _ => true) (fun C _ _ _ _ x => convert t (widenTo t) (rmOf px C) false x))
  | .vnarrow d a b px =>
    let t := elTy 2 px
    some { rowConv d a px t (narrowTo t) (fun C _ => decide ((C.getS b.toNat).toNat % 64 < tyW t)) (fun C _ _ _ _ x =>
      narrow t (rmOf px C) ((pfxOf px).sat == 1) ((C.getS b.toNat).toNat % 64) x) with srcs := (a, b, 0) }
  | .vquant d a b reg x px =>
    let t := elTy 12 px
    let src : Ty := if x = 1 then .b16 else .f32
    some (rowConv d a px src t (blocksFit b) (fun C c vle r i y => quant t (rmOf px C) (scaleAt c reg b vle r i) (valOf src y)))
  | .vscale d a b reg x px =>
    let t := elTy 10 px
    some (rowConv d a px t t (blocksFit b) (fun C c vle r i y =>
      let ex := scaleAt c reg b vle r i
      match (valOf t y).scale (if x = 1 then -ex else ex) with
      | .nan sig => nanRes (fmtOf t) sig
      | .inf sg => ((fmtOf t).inf sg, 0)
      | .fin sg m e => roundF (fmtOf t) (rmOf px C) sg m e false))
  | .vscacc d a cb ca px =>
    some (rowConv d a px .s32 .f32 (fun C vle => decide (C.rows ≤ 2048 ∧ vle ≤ 2048)) (fun C c _ r i y =>
      scacc (rmOf px C) (c.scale ca.toNat r + c.scale cb.toNat i - 14) y (elAt C c d 32 r i)))
  | _ => none
where
  /-- Fit of R127: clamped, or modulo 2^w -/
  into (t : Ty) (sat : Bool) (n : Int) : Nat :=
    ((if sat then max (intMin t) (min (intMax t) n) else n) % (2 ^ tyW t : Nat)).toNat
  add (t : Ty) (sat : Bool) (x y _ : Nat) : Nat := into t sat (intOf t x + intOf t y)
  sub (t : Ty) (sat : Bool) (x y _ : Nat) : Nat := into t sat (intOf t x - intOf t y)
  lesser (t : Ty) (_ : Bool) (x y _ : Nat) : Nat := if intOf t y < intOf t x then y else x
  greater (t : Ty) (_ : Bool) (x y _ : Nat) : Nat := if intOf t x < intOf t y then y else x
  high (t : Ty) (_ : Bool) (x y _ : Nat) : Nat := ((intOf t x * intOf t y / (2 ^ tyW t : Nat)) % (2 ^ tyW t : Nat)).toNat
  macc (t : Ty) (sat : Bool) (x y z : Nat) : Nat := into t sat (intOf t z + intOf t x * intOf t y)
  /-- the pattern read as signed, whatever the type -/
  arith (t : Ty) (_ : Bool) (x y _ : Nat) : Nat :=
    let n : Int := if x < 2 ^ (tyW t - 1) then x else (x : Int) - (2 ^ tyW t : Nat)
    ((n / (2 ^ (y % tyW t) : Nat)) % (2 ^ tyW t : Nat)).toNat
  holds (cc : Nat) (x y : Int) : Bool :=
    match cc with
    | 0 => x == y
    | 1 => x != y
    | 2 => x < y
    | 3 => x ≤ y
    | 4 => y < x
    | _ => y ≤ x

/-- One element of R123: an active element receives its result and raises its flags, an inactive one is zeroed or kept by POL. -/
def ElemRow.step (R : ElemRow) (C : Ctx) (vle : Nat) (x : Ctx × List Nat) (p : Nat) : Ctx × List Nat :=
  let put (v : Nat) : Ctx :=
    match R.dst with
    | some w => x.1.setVel (physV C R.d.toNat + p / vle) w (p % vle) v
    | none => x.1.setMbit R.d.toNat p (v != 0)
  if x.1.mbit (pfxOf R.px).m.toNat p then
    let (v, fl) := R.F C x.1 vle (p / vle) (p % vle)
    ((put v).raise fl, minFlags x.2 fl p)
  else (if (pfxOf R.px).pol = 1 then put 0 else x.1, x.2)

/-- Every element of a sweep in ascending index: the context, and the least index of each flag (R67). -/
def ElemRow.sweep (R : ElemRow) (C : Ctx) (vle : Nat) : Ctx × List Nat :=
  (List.range (C.rows * vle)).foldl (R.step C vle) (C, [0xFFFF, 0xFFFF, 0xFFFF, 0xFFFF, 0xFFFF, 0xFFFF, 0xFFFF])

/-- The location of an access of a local window that stays within 4096 bytes (R147, R148). -/
def State.winLoc (s : State) (h va n : Nat) (k : AccKind) : Option Nat :=
  if va / 2 ^ 48 = 0xFF ∧ va % 4096 + n ≤ 4096 then
    match s.window h va n k with
    | .ok loc => some loc
    | .error _ => none
  else none

/-- The exception list in a local window after one more record, for element p of the instruction at address pc: memory, and whether
the list was full (R30, R31). -/
def State.listed (s : State) (C : Ctx) (h pc p : Nat) (m : List Host.Cell) : Option (List Host.Cell × Bool) := do
  let base := C.xbase * 2 ^ 12
  let a ← s.winLoc h base 8 .atomic
  let n := ofLe (rdBytes m a 8)
  let m1 := wrBytes m a (leBytes 8 (n + 1))
  if n < 2 ^ (C.xsz + 6) - 1 then
    let q ← s.winLoc h (base + 8 + 8 * n) 8 .write
    pure (wrBytes m1 q (leBytes 8 (p % 2 ^ 15 * 2 ^ 49 + pc / 2 ^ 2 % 2 ^ 49)), false)
  else pure (m1, true)

/-- The exception list after records for the elements ps in their order: memory, and whether a record found it full. -/
def State.listedAll (s : State) (C : Ctx) (h pc : Nat) (ps : List Nat) : Option (List Host.Cell × Bool) :=
  ps.foldlM (fun x p => (s.listed C h pc p x.1).map (fun y => (y.1, x.2 || y.2))) (s.mem, false)

/-- One element of R123 with XLE = 1: an active element that raises CN appends its record first (R30). -/
def ElemRow.listStep (R : ElemRow) (s : State) (C : Ctx) (h vle : Nat) (x : (Ctx × List Nat) × List Host.Cell) (p : Nat) :
    Option ((Ctx × List Nat) × List Host.Cell) :=
  if x.1.1.mbit (pfxOf R.px).m.toNat p ∧ (R.F C x.1.1 vle (p / vle) (p % vle)).2.testBit 5 = true then
    (s.listed C h C.pc.toNat p x.2).map (fun y =>
      (R.step C vle (if y.2 then { x.1.1 with xlovf := true } else x.1.1, x.1.2) p, y.1))
  else some (R.step C vle x.1 p, x.2)

/-- VLe of R45 on a core with the working lane groups of R43. -/
def State.vleOf (s : State) (h w : Nat) : Nat := min (s.ctx h).vl (s.maxvl (coreOf h) * 8 / w)

/-- A queue that was empty before a vector instruction is empty again, and its number is used. -/
def Ctx.retired (c C : Ctx) (fexc : List Nat) : Ctx :=
  { c with vq := [], nextId := C.nextId + 1, ilocks := C.ilocks.filter (fun l => l.owner != .entry C.nextId), fexc := fexc }

/-! ### Vector instructions that act as a whole, in the words of R126, R131, R135 and R139 to R145 -/

/-- A vector instruction that acts as a whole: of the context at issue and VLe, the context after it, and its flags with their
indexes. -/
structure WholeRow where
  w : Nat
  px : Option Pfx
  swept : List (BitVec 7)
  ok : Ctx → Nat → Bool
  flags : Bool
  F : Ctx → Nat → Ctx × List (Nat × Nat)

/-- The destination sweep overlaps neither source named (R122). -/
def noOverlap (d : BitVec 7) (srcs : List (BitVec 7)) (C : Ctx) (_ : Nat) : Bool :=
  srcs.all (fun x => decide (physV C d.toNat + C.rows ≤ physV C x.toNat ∨ physV C x.toNat + C.rows ≤ physV C d.toNat))

/-- Active elements of row r below position i (R140, R143). -/
def activeTo (C : Ctx) (px : Option Pfx) (vle r i : Nat) : Nat :=
  ((List.range i).filter (fun j => C.mbit (pfxOf px).m.toNat (r * vle + j))).length

/-- A permutation (R140): of the row, the position, the pattern of an active element; none leaves it to the policy. -/
def rowPerm (w : Nat) (d : BitVec 7) (px : Option Pfx) (swept : List (BitVec 7)) (ok : Ctx → Nat → Bool)
    (f : Ctx → Nat → Nat → Nat → Option Nat) : WholeRow :=
  { w := w, px := px, swept := swept, ok := ok, flags := false,
    F := fun C vle =>
      ((List.range (C.rows * vle)).foldl (fun c p =>
        match if C.mbit (pfxOf px).m.toNat p then f C vle (p / vle) (p % vle) else none with
        | some v => c.setVel (physV C d.toNat + p / vle) w (p % vle) v
        | none => if (pfxOf px).pol = 1 then c.setVel (physV C d.toNat + p / vle) w (p % vle) 0 else c) C, []) }

/-- The active elements of a sweep in ascending index (R139). -/
def activeVals (C : Ctx) (a : BitVec 7) (px : Option Pfx) (w vle : Nat) : List Nat :=
  ((List.range (C.rows * vle)).filter (fun p => C.mbit (pfxOf px).m.toNat p)).map (fun p => elAt C C a w (p / vle) (p % vle))

/-- A reduction (R139): of the type, the contexts, VLe and the start value, its result and flags. -/
def rowRed (base : Nat) (flags : Bool) (d a b : BitVec 7) (px : Option Pfx) (f : Ty → Ctx → Nat → Nat → Nat × Nat) : WholeRow :=
  let t := elTy base px
  let w := tyW t
  { w := w, px := px, swept := [a], ok := fun _ _ => true, flags := flags,
    F := fun C vle =>
      let x := f t C vle (elAt C C b w 0 0)
      (C.setVel (physV C d.toNat) w 0 x.1, [(x.2, 0)]) }

/-- A float reduction in ascending index, its flags joined (R40). -/
def foldFp (a : BitVec 7) (px : Option Pfx) (o : FOp) (t : Ty) (C : Ctx) (vle start : Nat) : Nat × Nat :=
  (activeVals C a px (tyW t) vle).foldl (fun x y =>
    let z := opF (fmtOf t) (rmOf px C) o x.1 y
    (z.1, x.2 ||| z.2)) (start, 0)

/-- Balanced sum of 2^k leaves: of the two halves (R40). -/
def pairSum (f : FFmt) (rm : Nat) (leaf : Nat → Nat) : Nat → Nat → Nat × Nat
  | 0, p => (leaf p, 0)
  | k + 1, p =>
    let x := pairSum f rm leaf k (2 * p)
    let y := pairSum f rm leaf k (2 * p + 1)
    let z := opF f rm .add x.1 y.1
    (z.1, x.2 ||| y.2 ||| z.2)

/-- The exponent of one block (R135), and the index of its first infinite element. -/
def blockMax (C : Ctx) (a : BitVec 7) (px : Option Pfx) (t : Ty) (vle r j len : Nat) : Int × Option Nat :=
  let xs := ((List.range (min len (vle - j * len))).map (fun k => r * vle + (j * len + k))).filter
    (fun p => C.mbit (pfxOf px).m.toNat p)
  let v (p : Nat) : FVal := valOf t (elAt C C a (tyW t) (p / vle) (p % vle))
  let isInf (p : Nat) : Bool := match v p with
    | .inf _ => true
    | _ => false
  let e (p : Nat) : Int := match v p with
    | .nan _ => -128
    | .inf _ => 127
    | .fin _ m x => if m = 0 then -128 else max (-127) (min 127 (x + Nat.log2 m))
  ((xs.map e).foldl max (-128), xs.find? isInf)

/-- The instructions that act as a whole on the register files. -/
def wholeRow : Instr → Option WholeRow
  | .mpopc d a px => some { w := 64, px := px, swept := [], ok := fun _ _ => true, flags := false, F := fun C vle =>
      (C.setS d.toNat (BitVec.ofNat 64 ((List.range (bitsN C vle)).filter (fun p => (C.getM a.toNat).getLsbD p)).length), []) }
  | .mfirst d a px => some { w := 64, px := px, swept := [], ok := fun _ _ => true, flags := false, F := fun C vle =>
      (C.setS d.toNat (match (List.range (bitsN C vle)).find? (fun p => (C.getM a.toNat).getLsbD p) with
        | some p => BitVec.ofNat 64 p
        | none => BitVec.ofInt 64 (-1)), []) }
  | .smaxe d a b px =>
    let t := elTy 10 px
    some { w := tyW t, px := px, swept := [a], ok := blocksFit b, flags := true, F := fun C vle =>
      let len := 2 ^ (b.toNat + 3)
      let nb := (vle + len - 1) / len
      let ms := (List.range (C.rows * nb)).map (fun k => (k, blockMax C a px t vle (k / nb) (k % nb) len))
      (ms.foldl (fun c x => c.setScale d.toNat x.1 x.2.1) C, ms.filterMap (fun x => x.2.2.map (fun q => (64, q)))) }
  | .vredsum d a b px => some (rowRed 2 false d a b px (fun t C vle start =>
      (((activeVals C a px (tyW t) vle).sum + start) % 2 ^ tyW t, 0)))
  | .vredmin d a b px => some (rowRed 2 false d a b px (fun t C vle start =>
      ((activeVals C a px (tyW t) vle).foldl (fun x y => if intOf t y < intOf t x then y else x) start, 0)))
  | .vredmax d a b px => some (rowRed 2 false d a b px (fun t C vle start =>
      ((activeVals C a px (tyW t) vle).foldl (fun x y => if intOf t x < intOf t y then y else x) start, 0)))
  | .vfredsum d a b px => some (rowRed 10 true d a b px (foldFp a px .add))
  | .vfredmax d a b px => some (rowRed 10 true d a b px (fun t C vle start =>
      match activeVals C a px (tyW t) vle, decodeF (fmtOf t) start with
      | [], .nan sig => ((fmtOf t).qnan, if sig then 1 else 0)
      | _, _ => foldFp a px .max t C vle start))
  | .vfredsumt d a b px => some (rowRed 10 true d a b px (fun t C vle start =>
      let k := if C.rows * vle ≤ 1 then 0 else Nat.log2 (C.rows * vle - 1) + 1
      let leaf (p : Nat) : Nat := if p < C.rows * vle ∧ C.mbit (pfxOf px).m.toNat p = true
        then elAt C C a (tyW t) (p / vle) (p % vle) else (fmtOf t).zero true
      let x := pairSum (fmtOf t) (rmOf px C) leaf k 0
      let z := opF (fmtOf t) (rmOf px C) .add start x.1
      (z.1, x.2 ||| z.2)))
  | .vperm d a b px =>
    let w := tyW (elTy 6 px)
    some (rowPerm w d px [d, a, b] (noOverlap d [a, b]) (fun C vle r i =>
      let j := secondAt .vec px C C b w vle r i
      some (if j < vle then elAt C C a w r j else 0)))
  | .vslideup d a b px =>
    let w := tyW (elTy 6 px)
    some (rowPerm w d px [d, a] (noOverlap d [a]) (fun C _ r i =>
      if (C.getS b.toNat).toNat ≤ i then some (elAt C C a w r (i - (C.getS b.toNat).toNat)) else none))
  | .vslidedn d a b px =>
    let w := tyW (elTy 6 px)
    some (rowPerm w d px [d, a] (noOverlap d [a]) (fun C vle r i =>
      some (if i + (C.getS b.toNat).toNat < vle then elAt C C a w r (i + (C.getS b.toNat).toNat) else 0)))
  | .vrev d a px =>
    let w := tyW (elTy 6 px)
    some (rowPerm w d px [d, a] (noOverlap d [a]) (fun C vle r i => some (elAt C C a w r (vle - 1 - i))))
  | .vbcast d a px =>
    let w := tyW (elTy 6 px)
    some (rowPerm w d px [d] (fun _ _ => true) (fun C _ _ _ => some ((C.getS a.toNat).toNat % 2 ^ w)))
  | .viota d px =>
    let w := tyW (elTy 6 px)
    some (rowPerm w d px [d] (fun _ _ => true) (fun C vle r i => some (activeTo C px vle r i % 2 ^ w)))
  | .vexpand d a px =>
    let w := tyW (elTy 6 px)
    some (rowPerm w d px [d, a] (noOverlap d [a]) (fun C vle r i => some (elAt C C a w r (activeTo C px vle r i))))
  | .vmerge d a b px =>
    let w := tyW (elTy 6 px)
    some { w := w, px := px, swept := [d, a, b], ok := fun _ _ => true, flags := false, F := fun C vle =>
      ((List.range (C.rows * vle)).foldl (fun c p => c.setVel (physV C d.toNat + p / vle) w (p % vle)
        (if C.mbit (pfxOf px).m.toNat p then elAt C C b w (p / vle) (p % vle) else elAt C C a w (p / vle) (p % vle))) C, []) }
  | .vreshape d a b px =>
    let w := tyW (elTy 6 px)
    some { w := w, px := px, swept := [d, a], ok := noOverlap d [a], flags := true, F := fun C vle =>
      let l := (C.getS b.toNat).toNat
      let n := C.rows * vle
      if l = 0 ∨ n % l ≠ 0 then (C, [(1, 0)])
      else ((List.range n).foldl (fun c x =>
        let q := x % l * (n / l) + x / l
        c.setVel (physV C d.toNat + q / vle) w (q % vle) (elAt C C a w (x / vle) (x % vle))) C, []) }
  | .vcompress d a px =>
    let w := tyW (elTy 6 px)
    some { w := w, px := px, swept := [d, a], ok := noOverlap d [a], flags := false, F := fun C vle =>
      ((List.range (if vle = 0 then 0 else C.rows)).foldl (fun c r =>
        let xs := ((List.range vle).filter (fun i => C.mbit (pfxOf px).m.toNat (r * vle + i))).map (fun i => elAt C C a w r i)
        let c := xs.zipIdx.foldl (fun c x => c.setVel (physV C d.toNat + r) w x.2 x.1) c
        if (pfxOf px).pol = 1 then
          (List.range (vle - xs.length)).foldl (fun c j => c.setVel (physV C d.toNat + r) w (xs.length + j) 0) c
        else c) C, []) }
  | .vextract d a b px =>
    let t := elTy 6 px
    some { w := tyW t, px := px, swept := [], ok := fun _ _ => true, flags := false, F := fun C vle =>
      let x := if (C.getS b.toNat).toNat < vle then elAt C C a (tyW t) 0 (C.getS b.toNat).toNat else 0
      (C.setS d.toNat (if tySigned t then BitVec.ofInt 64 (BitVec.ofNat (tyW t) x).toInt else BitVec.ofNat 64 x), []) }
  | .vinsert d a b px =>
    let w := tyW (elTy 6 px)
    some { w := w, px := px, swept := [], ok := fun _ _ => true, flags := false, F := fun C vle =>
      (if (C.getS b.toNat).toNat < vle
        then C.setVel (physV C d.toNat) w (C.getS b.toNat).toNat ((C.getS a.toNat).toNat % 2 ^ w) else C, []) }
  | _ => none
where
  /-- N of R131 -/
  bitsN (C : Ctx) (_ : Nat) : Nat := min (C.rows * C.vl) 32768

/-- A mask-to-mask instruction: destination and the new bit p, for p below N (R131). -/
def maskRow (C : Ctx) : Instr → Option (BitVec 7 × Option Pfx × (Nat → Bool))
  | .mand d a b px => some (d, px, fun p => (C.getM a.toNat).getLsbD p && (C.getM b.toNat).getLsbD p)
  | .mor d a b px => some (d, px, fun p => (C.getM a.toNat).getLsbD p || (C.getM b.toNat).getLsbD p)
  | .mxor d a b px => some (d, px, fun p => (C.getM a.toNat).getLsbD p != (C.getM b.toNat).getLsbD p)
  | .mandn d a b px => some (d, px, fun p => (C.getM a.toNat).getLsbD p && !(C.getM b.toNat).getLsbD p)
  | .mset d a px => some (d, px, fun p => decide (p < (C.getS a.toNat).toNat))
  | _ => none

/-- Flags with their indexes, raised and merged (R27, R67). -/
def Ctx.raiseAll (c : Ctx) (fls : List (Nat × Nat)) : Ctx := fls.foldl (fun c f => c.raise f.1) c
/-- The least index of each flag of a list (R67). -/
def leastOf (fls : List (Nat × Nat)) : List Nat :=
  fls.foldl (fun m f => minFlags m f.1 f.2) [0xFFFF, 0xFFFF, 0xFFFF, 0xFFFF, 0xFFFF, 0xFFFF, 0xFFFF]

/-! ### Vector memory instructions (R194 to R199) -/

/-- What an access does. -/
inductive MemKind where
  | load
  /-- guarded by the watermark in a slot -/
  | guarded (k : Nat)
  | store
  | amo (op : Nat)
  deriving DecidableEq, Repr

/-- A vector memory instruction. at_ gives address, bit offset and bytes of an element, of the context at issue, the context at its
turn, VLe and its index. -/
structure MemRow where
  kind : MemKind
  /-- width of an element, and governing width -/
  w : Nat
  gw : Nat
  reg : BitVec 7
  px : Option Pfx
  swept : List (BitVec 7)
  ok : Ctx → Nat → Bool
  at_ : Ctx → Ctx → Nat → Nat → Nat × Nat × Nat

/-- The vector memory instructions. -/
def memRow : Instr → Option MemRow
  | .vld d a imm px => some (unit .load d px (fun C => ((C.getS a.toNat).toNat : Int) + imm.toInt))
  | .vst d a imm px => some (unit .store d px (fun C => ((C.getS a.toNat).toNat : Int) + imm.toInt))
  | .vldw d a k px => some (unit (.guarded k.toNat) d px (fun C => ((C.getS a.toNat).toNat : Int)))
  | .vlds d a b px => some (stride .load d a b px)
  | .vsts d a b px => some (stride .store d a b px)
  | .vldx d a b m px => some (index .load d a b m px)
  | .vstx d a b m px => some (index .store d a b m px)
  | .vamo d a b o px =>
    let w := tyW (elTy 10 px)
    some { kind := .amo o.toNat, w := w, gw := w, reg := d, px := px, swept := [d, b], ok := noOverlap d [b],
           at_ := fun C c vle p => (((C.getS a.toNat).toNat + elAt C c b w (p / vle) (p % vle)) % 2 ^ 64, 0, w / 8) }
  | _ => none
where
  unit (k : MemKind) (d : BitVec 7) (px : Option Pfx) (base : Ctx → Int) : MemRow :=
    let w := tyW (elTy 10 px)
    { kind := k, w := w, gw := w, reg := d, px := px, swept := [d], ok := fun _ _ => true,
      at_ := fun C _ _ p =>
        (((base C + (p * w / 8 : Nat)) % 2 ^ 64).toNat, p * w % 8, (p * w % 8 + w + 7) / 8) }
  stride (k : MemKind) (d a b : BitVec 7) (px : Option Pfx) : MemRow :=
    let w := tyW (elTy 10 px)
    { kind := k, w := w, gw := w, reg := d, px := px, swept := [d], ok := fun _ _ => true,
      at_ := fun C _ _ p => (((C.getS a.toNat).toNat + p * (C.getS b.toNat).toNat) % 2 ^ 64, 0, w / 8) }
  /-- modes 0 and 1: the index in bytes; 2 and 3: in elements; 0 and 2: 32-bit indices; 1 and 3: 64-bit indices -/
  index (k : MemKind) (d a b : BitVec 7) (m : BitVec 2) (px : Option Pfx) : MemRow :=
    let w := tyW (elTy 10 px)
    let iw := if m.toNat % 2 = 0 then 32 else 64
    { kind := k, w := w, gw := max w iw, reg := d, px := px, swept := [d, b], ok := fun _ _ => true,
      at_ := fun C c vle p =>
        (((C.getS a.toNat).toNat + elAt C c b iw (p / vle) (p % vle) * (if m.toNat < 2 then 1 else w / 8)) % 2 ^ 64, 0, w / 8) }

/-- The pattern with w bits from bit sh replaced by v. -/
def putBits (old sh w v : Nat) : Nat := old - old / 2 ^ sh % 2 ^ w * 2 ^ sh + v * 2 ^ sh

/-- Element p of a vector memory instruction (R123, R195 to R199). -/
def MemRow.access (R : MemRow) (C : Ctx) (h vle p : Nat) : M Unit := do
  let id := C.nextId
  let c := (← get).ctx h
  let put (v : Nat) : M Unit := modify (fun s => s.modCtx h (fun c => c.setVel (physV C R.reg.toNat + p / vle) R.w (p % vle) v))
  let x := R.at_ C c vle p
  if c.mbit (pfxOf R.px).m.toNat p then
    match R.kind with
    | .load => do
      let v ← vread h (coreOf h) x.1 x.2.2 .vector
      put (v / 2 ^ x.2.1 % 2 ^ R.w)
    | .guarded k => do
      let _ ← resolve h (coreOf h) x.1 x.2.2 .read .vector
      match sfind C.wmarks k with
      | none => throw (.freeze 0x26 0 0)
      | some b =>
        let last : Int := (x.1 : Int) + ((R.w + 7) / 8 : Nat) - 1 - b.base
        if 0 ≤ last then
          let m ← vread h (coreOf h) b.addr 8 .vector
          if (m : Int) ≤ last then throw .block
        let v ← vread h (coreOf h) x.1 x.2.2 .vector
        put (v / 2 ^ x.2.1 % 2 ^ R.w)
    | .store => do
      let ps ← resolve h (coreOf h) x.1 x.2.2 .write .vector
      let m := (← get).mem
      let old := ofLe (ps.flatMap (fun q => rdBytes m q.loc q.n))
      writePieces h id (putBits old x.2.1 R.w (elAt C c R.reg R.w (p / vle) (p % vle))) ps
    | .amo op => do
      let v := elAt C c R.reg R.w (p / vle) (p % vle)
      let old ← vatomic h id (coreOf h) x.1 x.2.2 .vector (fun old => some (atomicOp op x.2.2 old v))
      put old
  else if R.kind ≠ .store ∧ (pfxOf R.px).pol = 1 then put 0

/-- Element p of a vector memory instruction whose accesses lie in local windows: the context and memory after it. -/
def MemRow.winStep (R : MemRow) (s : State) (C : Ctx) (h vle : Nat) (x : Ctx × List Host.Cell) (p : Nat) :
    Option (Ctx × List Host.Cell) :=
  let put (v : Nat) : Ctx := x.1.setVel (physV C R.reg.toNat + p / vle) R.w (p % vle) v
  let (va, sh, n) := R.at_ C x.1 vle p
  let src := elAt C x.1 R.reg R.w (p / vle) (p % vle)
  if x.1.mbit (pfxOf R.px).m.toNat p then
    match R.kind with
    | .load => (s.winLoc h va n .read).map (fun loc => (put (ofLe (rdBytes x.2 loc n) / 2 ^ sh % 2 ^ R.w), x.2))
    | .guarded _ => none
    | .store => (s.winLoc h va n .write).map (fun loc =>
        (x.1, wrBytes x.2 loc (leBytes n (putBits (ofLe (rdBytes x.2 loc n)) sh R.w src))))
    | .amo op => (s.winLoc h va n .atomic).map (fun loc =>
        (put (ofLe (rdBytes x.2 loc n)), wrBytes x.2 loc (leBytes n (atomicOp op n (ofLe (rdBytes x.2 loc n)) src))))
  else some (if R.kind ≠ .store ∧ (pfxOf R.px).pol = 1 then put 0 else x.1, x.2)

/-! ### Synchronising instructions, and the events that end their waits -/

/-- Hart, destination, operation, access size, order, scope, address and operands of a scalar atomic (R200, R201): operation 15 is the
compare-and-swap. -/
def atomicOf (s : State) : Instr → Option (BitVec 7 × Nat × Nat × Nat × Nat × Word × Word × Word)
  | .amo d a p z o sc => if p.toNat ≤ 9 then
      some (d, p.toNat, if z = 0 then 8 else 4, o.toNat, sc.toNat, s.getS64 s.cur a.toNat, s.getS64 s.cur d.toNat, 0) else none
  | .amocas d a z o sc =>
      some (d, 15, if z = 0 then 8 else 4, o.toNat, sc.toNat, s.getS64 s.cur a.toNat, s.getS64 s.cur d.toNat,
        s.getS64 s.cur (d.toNat + 1))
  | _ => none

/-- The new value of the memory word of an atomic on n bytes (R201 Table 6). -/
def atomicNew (op n old : Nat) (b c : Word) : Nat :=
  if op = 15 then (if old = b.toNat % 2 ^ (8 * n) then c.toNat % 2 ^ (8 * n) else old) else atomicOp op n old (b.toNat % 2 ^ (8 * n))

/-- Hart, scope, order and direction of a fence at a scalar unit, executed or waiting (R184). -/
def fenceOf (s : State) : Instr → Option (Nat × Nat × Nat × Nat)
  | .fence sc o dir => if dir = 2 then none else some (s.cur, sc.toNat, o.toNat, dir.toNat)
  | .fenceComplete h =>
    match (s.hart h).run, (s.hart h).wait with
    | .running, some (.fence sc o dir) => some (h, sc, o, dir)
    | _, _ => none
  | _ => none

/-- A queued instruction that reads memory, a matrix store or an Electrum copy (R171, R182, R252): vector loads and atomics, engine
commands, FLD, FWALK and the matrix unit. -/
def queueReads (e : Entry) : Prop :=
  let m := e.word.toNat % 2 ^ 7
  let f := e.word.toNat / 2 ^ 28
  m ∈ [0x60, 0x61, 0x62, 0x66, 0x67, 0x6C, 0x6E, 0x71, 0x78, 0x79, 0x7A, 0x7B] ∨ m = 0x6D ∧ f < 4 ∨ m = 0x70 ∧ f = 0

/-- A queued instruction that writes there: vector stores and atomics, engine commands, Electrum writes, FST, the matrix unit, and
conversions that append to the exception list. -/
def queueWrites (e : Entry) : Prop :=
  let m := e.word.toNat % 2 ^ 7
  let f := e.word.toNat / 2 ^ 28
  m ∈ [0x63, 0x64, 0x65, 0x67, 0x6C, 0x6E, 0x6F, 0x78, 0x79, 0x7A, 0x7B] ∨ m = 0x6D ∧ f < 4 ∨ m = 0x70 ∧ f ≠ 0 ∨
    (m = 0x48 ∨ m = 0x49) ∧ e.xle = true

/-- An engine command of the task on a hart is neither complete nor stopped by a fault (R207): a copy, a sparse stream, an
indirect stream. -/
def State.engineBusy (s : State) (h : Nat) : Prop :=
  ∃ T, (s.hart h).task = some T ∧
    ((∃ n x, (n, x) ∈ (s.core (coreOf h)).chans ∧ x.owner = some (h, T) ∧ x.state = 1) ∨
     (∃ n x, (n, x) ∈ (s.core (coreOf h)).streams ∧ x.owner = some (h, T) ∧ x.hold ≠ .frozen) ∨
     ∃ n l x, (n, l) ∈ s.engines ∧ x ∈ l ∧ x.hart = h ∧ x.task = T ∧ x.hold ≠ .frozen)

/-- A copy command or an indirect stream of the task on a hart is running (R109, R207). -/
def State.commandOut (s : State) (h : Nat) : Prop :=
  ∃ T, (s.hart h).task = some T ∧
    ((∃ n x, (n, x) ∈ (s.core (coreOf h)).chans ∧ x.owner = some (h, T) ∧ x.state = 1) ∨
     ∃ n l x, (n, l) ∈ s.engines ∧ x ∈ l ∧ x.hart = h ∧ x.task = T ∧ x.hold ≠ .frozen)

/-- An awake copy of the hart's tower has yet to apply a slot write that the hart issued or observed (R191, R224). -/
def State.elecBehind (s : State) (h : Nat) : Prop :=
  let X := s.tower (towerOf (coreOf h))
  ∃ k, k < 9 ∧ (k = 8 ∨ X.layers.getD k .active = .active) ∧
    (nth X.applied k < (s.ctx h).elecEnd ∨ nth X.applied k < (s.ctx h).elecSeen)

/-- An access that a fence of an order and a direction keeps before later ones has yet to be performed, q being the earlier queued
instructions (R182, R184, R191, R224): of a source agent, a read, or, for a release, a read or a write; for a release also an Electrum
write that the hart issued or observed, at a copy of the tower. -/
def State.outstanding (s : State) (h order dir : Nat) (q : List Entry) : Prop :=
  (dir = 0 ∨ dir = 3) ∧ ((s.hart h).load ≠ none ∨ order ≠ 0 ∧ (s.hart h).pend ≠ []) ∨
  dir ≠ 0 ∧ ((∃ e ∈ q, queueReads e ∨ order ≠ 0 ∧ queueWrites e) ∨ s.engineBusy h) ∨
  order ≠ 0 ∧ ((∃ e ∈ q, e.word.toNat % 2 ^ 7 = 0x6F) ∨ s.elecBehind h)

/-- The order that a release of a direction leaves for later writes to keep (log entry 33): of every earlier access of the source
agents before the writes of the target agents. -/
def releaseLeft (c : Ctx) (dir : Nat) : Gate :=
  { id := c.nextId, srcS := dir == 0 || dir == 3, srcV := dir != 0, dstS := dir == 1 || dir == 3, dstV := dir != 1,
    fromWrites := true, toReads := false, elec := true }

/-- The order that an acquire of all directions leaves (R186): of every earlier read before every later access. -/
def acquireLeft (c : Ctx) : Gate :=
  { id := c.nextId, srcS := true, srcV := true, dstS := true, dstV := true, fromWrites := false, toReads := true, elec := false }

/-- Hart, scope and tie of a barrier, executed or waiting (R203). -/
def barOf (s : State) : Instr → Option (Nat × Nat × Word)
  | .bar sc a => some (s.cur, sc.toNat, s.getS64 s.cur a.toNat)
  | .barrierDeparture h =>
    match (s.hart h).run, (s.hart h).wait with
    | .running, some (.bar sc tie) => some (h, sc, tie)
    | _, _ => none
  | _ => none

/-- Hart, scope, address and threshold of a WAITGE, executed or waiting (R204). -/
def waitgeOf (s : State) : Instr → Option (Nat × Nat × Word × Word)
  | .waitge sc a b => some (s.cur, sc.toNat, s.getS64 s.cur a.toNat, s.getS64 s.cur b.toNat)
  | .waitgeSatisfied h =>
    match (s.hart h).run, (s.hart h).wait with
    | .running, some (.waitge sc a v) => some (h, sc, a, v)
    | _, _ => none
  | _ => none

/-- Hart, destination, status word, and whether the instruction still waits, of CWAIT, CWP and IWAIT, executed or waiting
(R212, R217). -/
def statusOf (s : State) : Instr → Option (Nat × Nat × CmdStat × Bool)
  | .cwait d ch b => cw s.cur d.toNat ch.toNat (s.getS64 s.cur b.toNat).toNat
  | .cwp d ch => cw s.cur d.toNat ch.toNat 0
  | .cwaitSatisfied h =>
    match (s.hart h).run, (s.hart h).wait with
    | .running, some (.cwait d ch v) => cw h d ch v.toNat
    | _, _ => none
  | .iwait d k => iw s.cur d.toNat k.toNat
  | .iwaitSatisfied h =>
    match (s.hart h).run, (s.hart h).wait with
    | .running, some (.iwait d k) => iw h d k
    | _, _ => none
  | _ => none
where
  /-- a copy command: still queued, or running with fewer bytes copied than asked -/
  cw (h d ch v : Nat) : Option (Nat × Nat × CmdStat × Bool) :=
    if (s.launchOf h).any (fun l => l.par.chan.testBit ch) then
      let x := (sfind (s.ctx h).cpys ch).getD ⟨0, 0⟩
      some (h, d, x, (s.ctx h).vq.any (fun e => e.major == 0x6C && e.func4 == 0 && e.fieldD == ch) ||
        (decide (x.state = 1) && decide (x.count < v)))
    else none
  /-- an indirect stream: still queued, or running -/
  iw (h d k : Nat) : Option (Nat × Nat × CmdStat × Bool) :=
    let x := (sfind (s.ctx h).istrs k).getD ⟨0, 0⟩
    some (h, d, x, (s.ctx h).vq.any (fun e => e.major == 0x6E && e.fieldD == k) || decide (x.state = 1))

/-- Hart, mode, address and threshold of an EWAIT, executed or waiting (R229). -/
def ewaitOf (s : State) : Instr → Option (Nat × Nat × Word × Word)
  | .ewait m a b => some (s.cur, m.toNat, s.getS64 s.cur a.toNat, s.getS64 s.cur b.toNat)
  | .ewaitSatisfied h =>
    match (s.hart h).run, (s.hart h).wait with
    | .running, some (.ewait m a v) => some (h, m, a, v)
    | _, _ => none
  | _ => none

/-- Hart of an EXIT, executed or waiting (R109). -/
def exitOf (s : State) : Instr → Option Nat
  | .exit => some s.cur
  | .exitComplete h =>
    match (s.hart h).run, (s.hart h).wait with
    | .running, some .exit => some h
    | _, _ => none
  | _ => none

/-- The 16 words of a launch parameter block, read by the scalar agent of hart h (R206, R298). -/
def blockRead (h : Nat) (a : Word) : M (List Word) :=
  (List.range 16).mapM (fun k => do
    let x ← sread h (a + BitVec.ofNat 64 (8 * k)).toNat 8
    pure (BitVec.ofNat 64 x))

/-! ### Fibre instructions (R254 to R273) -/

/-- A coordinate in its place in an ascending list without repeats. -/
def insertCoord (k : Nat) : List Nat → List Nat
  | [] => [k]
  | x :: l => if k < x then k :: x :: l else if k = x then x :: l else x :: insertCoord k l

/-- The coordinates of a list of pairs, ascending, each once. -/
def coordsOf (ps : List (Nat × Nat)) : List Nat := ps.foldr (fun p l => insertCoord p.1 l) []

/-- One result pair for each coordinate: the values found at it, in order, combined (R263). The result holds the value's flags. -/
def joined (t : Ty) (rm : Nat) (sat : Bool) (op : Nat) (ps : List (Nat × Nat)) (ks : List Nat) : List (Nat × Nat × Nat) :=
  ks.map (fun k => (k, combine t rm sat op ((ps.filter (fun p => decide (p.1 = k))).map (·.2))))

/-- The pairs that a source holds: a fibre's, or those of a queue in front of its terminator (R257). -/
def sourcePairs (C : Ctx) (x : Nat) : Option (List (Nat × Nat)) :=
  if x < 16 then some (C.fibre x).pairs
  else if terminator ∈ (C.queue (x - 16)).ents then
    some (((C.queue (x - 16)).ents.takeWhile (fun w => decide (w ≠ terminator))).map
      (fun w => (w.toNat % 2 ^ 32, w.toNat / 2 ^ 32)))
  else none

/-- A fibre instruction that reads whole sources from their start: destination, sources, whether these may be queues and must
ascend, whether it can raise flags, the pairs it writes, the place of each source in front of the result of a number (of FSORT the
coordinate of that result), and the progress words of such places (R258 Table 4). -/
structure FibreRow where
  d : BitVec 7
  srcs : List Nat
  queues : Bool
  asc : Bool
  flags : Bool
  px : Option Pfx
  out : List (List (Nat × Nat)) → List (Nat × Nat × Nat)
  pos : List (List (Nat × Nat)) → Nat → List Nat
  words : List Nat → Nat × Nat

/-- FSORT, FISECT, FUNION, FMERGE, FCOMPACT, FSLICE and FMAP (R268 to R271). -/
def fibreRow (C : Ctx) : Instr → Option FibreRow
  | .fsort d a o px => some
      { d := d, srcs := [a.toNat], queues := false, asc := false, flags := comb px, px := px,
        out := fun l => join px o.toNat l.flatten (coordsOf l.flatten),
        pos := fun l n => [(coordsOf l.flatten).getD n 0], words := fun p => (p.getD 0 0, 0) }
  | .funion d a b o px => some
      { d := d, srcs := [a.toNat, b.toNat], queues := true, asc := true, flags := comb px, px := px,
        out := fun l => join px o.toNat l.flatten (coordsOf l.flatten),
        pos := fun l n => below l ((coordsOf l.flatten).getD n 0), words := fun p => (p.getD 0 0, p.getD 1 0) }
  | .fmerge d a k o px => some
      { d := d, srcs := (List.range (k.toNat + 1)).map (fun i => a.toNat + i), queues := false,
        asc := true, flags := comb px, px := px, out := fun l => join px o.toNat l.flatten (coordsOf l.flatten),
        pos := fun l n => below l ((coordsOf l.flatten).getD n 0), words := fun p => (packed (p.take 4), packed (p.drop 4)) }
  | .fisect d a b o px => some
      { d := d, srcs := [a.toNat, b.toNat], queues := true, asc := true, flags := comb px, px := px,
        out := fun l => join px o.toNat l.flatten (shared l),
        pos := fun l n => below l ((shared l).getD n 0), words := fun p => (p.getD 0 0, p.getD 1 0) }
  | .fcompact d a px => some
      { d := d, srcs := [a.toNat], queues := false, asc := false, flags := false, px := px,
        out := fun l => (l.flatten.filter (fun p => !zeroVal (elTy 10 px) p.2)).map (fun p => (p.1, p.2, 0)),
        pos := fun l n => [upTo (fun p => !zeroVal (elTy 10 px) p.2) n l.flatten], words := fun p => (p.getD 0 0, 0) }
  | .fslice d a b px =>
    let keep (p : Nat × Nat) : Bool :=
      decide ((C.getS b.toNat).toNat % 2 ^ 32 ≤ p.1) && decide (p.1 ≤ (C.getS b.toNat).toNat / 2 ^ 32)
    some { d := d, srcs := [a.toNat], queues := true, asc := true, flags := false, px := px,
           out := fun l => (l.flatten.filter keep).map (fun p => (p.1, p.2, 0)),
           pos := fun l n => [upTo keep n l.flatten], words := fun p => (p.getD 0 0, 0) }
  | .fmap d a b o px => some
      { d := d, srcs := [a.toNat], queues := false, asc := false,
        flags := decide (elTy 10 px = .f32 ∧ (o.toNat < 4 ∨ o.toNat = 5)), px := px,
        out := fun l => l.flatten.map (fun p =>
          (p.1, fmapVal (elTy 10 px) (rmOf px C) ((pfxOf px).sat == 1) o.toNat p.2 ((C.getS b.toNat).toNat % 2 ^ 32))),
        pos := fun _ n => [n], words := fun p => (p.getD 0 0, 0) }
  | _ => none
where
  join (px : Option Pfx) (op : Nat) (ps : List (Nat × Nat)) (ks : List Nat) : List (Nat × Nat × Nat) :=
    joined (elTy 10 px) (rmOf px C) ((pfxOf px).sat == 1) op ps ks
  /-- the combining instructions that can raise flags: those of F32, by their description (R67, R263 Table 7) -/
  comb (px : Option Pfx) : Bool := decide (elTy 10 px = .f32)
  /-- coordinates that every source has -/
  shared (l : List (List (Nat × Nat))) : List Nat :=
    (coordsOf l.flatten).filter (fun k => l.all (fun ps => ps.any (fun p => decide (p.1 = k))))
  /-- pairs of each source below a coordinate -/
  below (l : List (List (Nat × Nat))) (k : Nat) : List Nat := l.map (fun ps => (ps.filter (fun p => decide (p.1 < k))).length)
  /-- pairs in front of the kept pair of a number -/
  upTo (keep : Nat × Nat → Bool) : Nat → List (Nat × Nat) → Nat
    | _, [] => 0
    | n, p :: l => if keep p then (match n with
        | 0 => 0
        | m + 1 => upTo keep m l + 1) else upTo keep n l + 1
  /-- places of 16 bits each in a word -/
  packed (p : List Nat) : Nat := (p.zipIdx.map (fun x => x.1 * 2 ^ (16 * x.2))).sum

/-- The sources of a fibre instruction can be read whole: each holds its pairs, ascending where that is asked, with coordinates of 32
bits, and queue sources are of this hart and distinct. -/
def State.readable (s : State) (h : Nat) (srcs : List Nat) (queues asc : Bool) (l : List (List (Nat × Nat))) : Prop :=
  srcs.map (sourcePairs (s.ctx h)) = l.map some ∧ (srcs.filter (fun x => decide (16 ≤ x))).Nodup ∧
  (∀ x ∈ srcs, 16 ≤ x → queues = true ∧ s.linkFrom h (x - 16) = none) ∧
  (∀ ps ∈ l, ps.length < 65536 ∧ (∀ p ∈ ps, p.1 < 2 ^ 32) ∧ (asc = true → (ps.map (·.1)).Pairwise (· < ·)))

/-- Source j of an instruction that joins ascending sources holds, after the pairs u, up to coordinate K, a pair p out of order; the other
sources ascend, and, in an intersection, each of them reaches K unless source j is a queue, which is consumed to its end (R257, R269). -/
def brokenAt (srcs : List Nat) (l : List (List (Nat × Nat))) (j K : Nat) (u v : List (Nat × Nat)) (p : Nat × Nat) (inter : Prop) : Prop :=
  l[j]? = some (u ++ p :: v) ∧ u.getLast?.map (·.1) = some K ∧ p.1 ≤ K ∧ (u.map (·.1)).Pairwise (· < ·) ∧
  ∀ k ps, l[k]? = some ps → k ≠ j → (ps.map (·.1)).Pairwise (· < ·) ∧
    (inter → 16 ≤ srcs.getD j 0 ∨ ∃ y ∈ ps, K ≤ y.1)

/-- The context c is that of a fibre instruction that has stopped with a status, after the result pairs out: those are in its
destination, each source has been consumed up to its place of p, the progress words hold w, and it has retired; nothing else has
changed (R259). -/
def Ctx.fibreStopped (c C : Ctx) (R : FibreRow) (out : List (Nat × Nat × Nat)) (p : List Nat) (w : Nat × Nat) (ovf ord : Bool) : Prop :=
  let fls := out.zipIdx.map (fun x => (x.1.2.2, x.2))
  c = ({ C.raiseAll fls with
    fibres := c.fibres, queues := c.queues, fprogA := BitVec.ofNat 64 w.1, fprogB := BitVec.ofNat 64 w.2, ovf := ovf, ord := ord }.retired C
      (if R.flags then leastOf fls else C.fexc)).advance (pxLen R.px) ∧
  (∀ f, c.fibre f = if f = R.d.toNat then { C.fibre f with pairs := out.map (fun x => (x.1, x.2.1)) } else C.fibre f) ∧
  ∀ q, c.queue q = match (R.srcs.zip p).find? (fun x => decide (x.1 = q + 16)) with
    | some x => { head := if x.2 = 0 then (C.queue q).head else ((C.queue q).head + x.2) % 64, ents := (C.queue q).ents.drop x.2 }
    | none => C.queue q

/-- A queue after its pairs and its terminator have been consumed (R257). -/
def drained (q : Queue) : Queue :=
  let n := (q.ents.takeWhile (fun w => decide (w ≠ terminator))).length + 1
  { head := (q.head + n) % 64, ents := q.ents.drop n }

/-- The context c is C with the queue sources consumed, FPROGA, FPROGB, OVF and ORD zero, the entry retired, and nothing else
changed but what c itself shows of fibres, scalar registers and flags. -/
def Ctx.fibreDone (c C : Ctx) (srcs : List Nat) (len : Nat) : Prop :=
  (∀ q, c.queue q = if q + 16 ∈ srcs then drained (C.queue q) else C.queue q) ∧
  { c with queues := C.queues, fibres := C.fibres, regs := C.regs, fflags := C.fflags, fexc := C.fexc, pc := C.pc, nest := C.nest } =
    { C with fprogA := 0, fprogB := 0, ovf := false, ord := false }.retired C C.fexc ∧
  c.pc = (C.advance len).pc ∧ c.nest = (C.advance len).nest

/-- The number at a local window address (R147). -/
def State.winRead (s : State) (h va n : Nat) : Option Nat :=
  (s.winLoc h va n .read).map (fun loc => ofLe (rdBytes s.mem loc n))

/-! ### The matrix unit, the accumulators and Billon (R232 to R252) -/

/-- The value of an accumulator cell of a core: the cell and 2^24 times its Billon count (R237). -/
def State.accVal (s : State) (core row col : Nat) : Int :=
  sget (s.core core).cells 0 (row * 256 + col) + 2 ^ 24 * sget (s.core core).billon 0 (row * 256 + col)

/-- The count that goes with a value, so that the cell lies in −2^23 to 2^23 − 1 (R238). -/
def countOf (v : Int) : Int := (v + 2 ^ 23) / 2 ^ 24

/-- A row operation: tile slot, format mode, type, accumulator operand, and the elements: index, tile row, value, flags
(R247, R248). -/
structure MacRow where
  slot : Nat
  four : Bool
  integer : Bool
  kbase : Bool
  m : Nat
  px : Option Pfx
  els : List (Nat × Nat × Int × Nat)

/-- The element of an array operand (R38, R39): an integer as it is, a float aligned to the exponent of its entry. -/
def arrayVal (t : Ty) (p : Nat) (ex : Int) : Int × Nat := if tyInt t then (intOf t p, 0) else align9 (valOf t p) ex

/-- MROW takes the first K elements of row 0 of its vector register; MROWG takes the pairs of its fibre whose coordinates lie in the
512 rows from its base. -/
def macRow (C : Ctx) (vle : Nat → Nat) : Instr → Option MacRow
  | .mrow v a c t px =>
    let ty := elTy 12 px
    let m := (C.getS a.toNat).toNat
    let ex := C.scale c.toNat (m / 2 ^ 16 % 2 ^ 11)
    some { slot := t.toNat, four := decide (ty = .s4 ∨ ty = .n4), integer := tyInt ty, kbase := false, m := m, px := px, els :=
      (List.range (min (vle (tyW ty)) (rowK ty))).map (fun k =>
        let x := arrayVal ty (elAt C C v (tyW ty) 0 k) ex
        (k, k, x.1, x.2)) }
  | .mrowg f a c t px =>
    let ty := elTy 12 px
    let m := (C.getS a.toNat).toNat
    let ex := C.scale c.toNat (m / 2 ^ 16 % 2 ^ 11)
    some { slot := t.toNat, four := false, integer := tyInt ty, kbase := true, m := m, px := px, els :=
      ((C.fibre f.toNat).pairs.zipIdx.filter (fun p => decide (m / 2 ^ 32 ≤ p.1.1) && decide (p.1.1 < m / 2 ^ 32 + 512))).map (fun p =>
        let x := if ty = .f32 then align9 (valOf .f32 p.1.2) ex
          else
            let n := intOf .s32 p.1.2
            (max (-255) (min 255 n), if -255 ≤ n ∧ n ≤ 255 then 0 else 64)
        (p.2, p.1.1 - m / 2 ^ 32, x.1, x.2)) }
  | _ => none

/-- Cell (k, j) of a tile; zero outside the loaded part (R232). -/
def Tile.cell (x : Tile) (k j : Nat) : Int := if k < x.nr ∧ j < x.nc then x.cells.getD (k * x.nc + j) 0 else 0

/-- The partial sum of column j (R234, R247). -/
def MacRow.sum (R : MacRow) (x : Tile) (j : Nat) : Int := (R.els.map (fun a => a.2.2.1 * x.cell a.2.1 j)).sum

/-- The elements whose NaN an alignment has replaced, for which a row operation appends records under XLE (R30, R247, R248). -/
def MacRow.nans (R : MacRow) (xle : Bool) : List Nat := if xle then (R.els.filter (fun a => a.2.2.2.testBit 5)).map (·.1) else []

/-- The flags of a row operation's elements, with their indexes. -/
def MacRow.fls (R : MacRow) : List (Nat × Nat) := (R.els.filter (fun a => decide (a.2.2.2 ≠ 0))).map (fun a => (a.2.2.2, a.1))

/-- The new value of column j of a row operation on an accumulator row (R238); bit 27 of the operand starts from zero. -/
def MacRow.new (R : MacRow) (s : State) (h : Nat) (x : Tile) (j : Nat) : Int :=
  (if R.m.testBit 27 then 0 else s.accVal (coreOf h) (s.rowBase h + R.m % 2 ^ 14) j) + R.sum x j

/-- Billon entries in use once a row's new values have been committed: those of the launch's rows, less the freed, and the new
(R238). -/
def State.usedWith (s : State) (h row : Nat) (v : Nat → Int) : Nat :=
  let old (j : Nat) : Int := sget (s.core (coreOf h)).billon 0 (row * 256 + j)
  s.used h - ((List.range 256).filter (fun j => decide (countOf (v j) = 0 ∧ old j ≠ 0))).length +
    ((List.range 256).filter (fun j => decide (countOf (v j) ≠ 0 ∧ old j = 0))).length

/-- Billon entries in use once a row operation has committed. -/
def MacRow.usedAfter (R : MacRow) (s : State) (h : Nat) (x : Tile) : Nat := s.usedWith h (s.rowBase h + R.m % 2 ^ 14) (R.new s h x)

/-- The legal state in which a row operation of a hart begins: nothing queued, no order to keep, its operand's zero fields zero, its slot and row
the launch's, its tile loaded in its mode, and, where it may append records, no other claim of memory (R174, R233, R236, R243, R244). -/
def MacRow.ready (R : MacRow) (s : State) (h : Nat) (x : Tile) : Prop :=
  (s.ctx h).vq = [] ∧ (s.ctx h).gates = [] ∧ s.move.delayIssue = false ∧ R.m / 2 ^ 28 % 2 ^ 4 = 0 ∧ R.m / 2 ^ 14 % 2 ^ 2 = 0 ∧
  (R.kbase = true ∨ R.m < 2 ^ 32) ∧ (s.launchOf h).any (fun l => l.par.tslot.testBit R.slot) = true ∧ R.m % 2 ^ 14 < s.acnt h ∧
  sget (s.core (coreOf h)).tiles Tile.init R.slot = x ∧ (x.state = 0 ∨ x.state = 1 ∧ fourBit x.fmt = R.four) ∧
  ((s.ctx h).xle = false ∨ R.integer = true ∨ s.liveIlocks h = [] ∧ s.dbgOf h = false)

/-- Only this hart, its core and event counts differ. -/
def State.coreOnly (s t : State) (h : Nat) : Prop :=
  s.othersSame t h ∧ (∀ c, c ≠ coreOf h → t.core c = s.core c) ∧
  t = { s with harts := t.harts, cores := t.cores, dbg := { s.dbg with ctrs := t.dbg.ctrs } }

/-- A hart's queue instruction of len bytes has completed in an untraced task, with registers c and the flags fls. -/
def State.queueDone (s t : State) (h : Nat) (c : Ctx) (fls : List (Nat × Nat)) (len : Nat) : Prop :=
  t.hart h = { s.hart h with wait := none, ctx := ((c.raiseAll fls).retired (s.ctx h) (leastOf fls)).advance len }

/-! ### Entries that wait in the queue, engine commands and Electrum (R47, R207 to R231) -/

/-- The event at which an instruction that was left in the vector queue, legal at its issue, takes its turn as the oldest entry. -/
def queueTurn (s : State) (i ev : Instr) : Prop :=
  match i with
  | .cpy _ a => ev = .engineDispatch s.cur ∧ (s.getS64 s.cur a.toNat).toNat % 8 = 0
  | .sstr _ a _ _ => ev = .engineDispatch s.cur ∧ (s.getS64 s.cur a.toNat).toNat % 4 = 0
  | .istr _ a => ev = .engineDispatch s.cur ∧ (s.getS64 s.cur a.toNat).toNat % 64 = 0
  | .sclose _ => ev = .scloseComplete s.cur
  | .vldw d _ _ _ => ev = .vldwElementReady s.cur ∧ d.toNat % (s.ctx s.cur).rows = 0
  | .mtload _ _ _ _ _ => ev = .tileLoadComplete s.cur
  | .mrow _ _ _ _ _ => ev = .rowOperationCommit s.cur
  | .mrowg _ _ _ _ _ => ev = .rowOperationCommit s.cur
  | .fence _ _ dir => ev = .fenceComplete s.cur ∧ dir = 2
  | _ => False

/-- The state with the choice of this move to leave a vector instruction in the queue, or not. -/
def State.leaving (s : State) (b : Bool) : State := { s with move := { s.move with delayIssue := b } }

/-- The loop dimension that advances after pass q of a copy's nest: the lowest whose counter is not at its last value (R96, R209). -/
def advDim (trips : List Nat) (q : Nat) : Nat :=
  ((List.range trips.length).find? (fun d => decide ((q + 1) % (trips.take (d + 1)).foldl (· * ·) 1 ≠ 0))).getD trips.length

/-- Trip counts of a copy descriptor's loop dimensions (R209). -/
def copyTrips (w : List Word) : List Nat := (List.range (wnth w 3 % 8 - 1)).map (fun d => wnth w (4 + d))

/-- Bytes a copy moves (R210). -/
def copyBytes (w : List Word) : Nat := wnth w 2 * (copyTrips w).foldl (· * ·) 1

/-- Address of byte n of a copy (R209, R210): the base, the steps of the dimensions that advanced before its run, and its place in the
run. Words 9 to 13 step the source of base word 0, words 14 to 18 the destination of base word 1. -/
def copyAt (w : List Word) (base step n : Nat) : Nat :=
  let moved := ((List.range (n / wnth w 2)).map (fun q => (w.getD (step + advDim (copyTrips w) q) 0).toInt)).sum
  (((wnth w base : Int) + moved + (n % wnth w 2 : Nat)) % 2 ^ 64).toNat

/-- Bytes b up to f of a channel's copy lie in local windows, byte n at location S n of the source and D n of the destination, which do
not meet (R209, R210). -/
def State.copies (s : State) (h : Nat) (x : Channel) (b f : Nat) (S D : Nat → Nat) : Prop :=
  (∀ n, b ≤ n → n < f → s.winLoc h (copyAt x.words 0 9 n) 1 .read = some (S n) ∧
    s.winLoc h (copyAt x.words 1 14 n) 1 .write = some (D n) ∧ sfind x.orig (S n) = none) ∧
  ∀ n m, b ≤ n → n < f → b ≤ m → m < f → S n ≠ D m ∧ (D n = D m → n = m)

/-- A word of n bytes at q that a copy neither reads nor writes. -/
def copyClear (S D : Nat → Nat) (b f q n : Nat) : Prop :=
  ∀ k, b ≤ k → k < f → (S k < q ∨ q + n ≤ S k) ∧ (D k < q ∨ q + n ≤ D k)

/-- Bytes b up to g of a copy have been moved, and a progress word, if any, holds its value; no other byte of memory has changed. -/
def State.copied (s t : State) (S D : Nat → Nat) (b g : Nat) (pub : Option (Nat × Nat)) : Prop :=
  (∀ n, b ≤ n → n < g → rdByte t.mem (D n) = rdByte s.mem (S n)) ∧
  (∀ q v, pub = some (q, v) → rdNum t.mem q 8 = v % 2 ^ 64) ∧
  ∀ a, (∀ n, b ≤ n → n < g → D n ≠ a) → (∀ q v, pub = some (q, v) → a < q ∨ q + 8 ≤ a) → rdByte t.mem a = rdByte s.mem a

/-- CRC32C of bytes: polynomial 0x1EDC6F41, reflected, from all ones, inverted at the end (R211). -/
def crc32c (bs : List Byte) : Nat :=
  (~~~(bs.foldl (fun (c : BitVec 32) (b : Byte) => (List.range 8).foldl (fun (x : BitVec 32) _ =>
    if x.getLsbD 0 then (x >>> 1) ^^^ 0x82F63B78 else x >>> 1) (c ^^^ b.setWidth 32)) (BitVec.allOnes 32))).toNat

/-- The command y that an indirect stream x is once it has read the descriptor of its table, and memory then: the descriptor of a
versioned table is read once, with 1 added to its reader count (R215, R216). -/
def State.tableRead (s : State) (h : Nat) (x y : Istr) (m : List Host.Cell) : Prop :=
  if x.begun = true ∨ (wnth x.words 1).testBit 47 = false then y = { x with begun := true } ∧ m = s.mem
  else ∃ p, s.winLoc h (wnth x.words 2) 8 .atomic = some p ∧
    let d := ofLe (rdBytes s.mem p 8)
    m = wrBytes s.mem p (leBytes 8 ((d + 2 ^ 48) % 2 ^ 64)) ∧
    y = { x with begun := true, base := d % 2 ^ 44 * 2 ^ 12, ver := d / 2 ^ 44 % 2 ^ 4 }

/-- Reads by the vector agent of hart h of successive doublewords from an address on: the words they return, and the state they leave
(R207). -/
def readsWords (h : Nat) : State → Word → List Word → State → Prop
  | s, _, [], t => t = s
  | s, a, w :: l, t => ∃ u, (vread h (coreOf h) a.toNat 8 .vector).run s = .ok w.toNat u ∧ readsWords h u (a + 8) l t

/-- Hart h after the issue of a vector instruction to an empty queue, its entry b begun (R47). -/
def State.issued (s : State) (h : Nat) (b : Entry) : State :=
  s.modHart h (fun y => { y with wait := none, ctx := { y.ctx.advance 4 with vq := [b], nextId := y.ctx.nextId + 1 } })

/-- The command y that an indirect stream x is once engine g has read the descriptor of its table, and the state then (R215, R216). -/
def State.tableOpens (s : State) (g : Nat) (x y : Istr) (t : State) : Prop :=
  if x.begun = true ∨ (wnth x.words 1).testBit 47 = false then y = { x with begun := true } ∧ t = s
  else ∃ d, (vatomic x.hart x.id (256 + g) (wnth x.words 2) 8 .engine (fun v => some ((v + 2 ^ 48) % 2 ^ 64))).run s = .ok d t ∧
    y = { x with begun := true, base := d % 2 ^ 44 * 2 ^ 12, ver := d / 2 ^ 44 % 2 ^ 4 }

/-- An engine's writes of bytes to an address, one for each aligned 8-byte unit that they meet, in ascending order (R180, R215). -/
def unitWrites (h id walker d : Nat) (bytes : List Byte) : M Unit :=
  (List.range ((d % 8 + bytes.length + 7) / 8)).forM (fun u =>
    let lo := 8 * u - d % 8
    let hi := min bytes.length (8 * u + 8 - d % 8)
    vwrite h id walker ((d + lo) % 2 ^ 64) (hi - lo) (ofLe ((bytes.drop lo).take (hi - lo))) .engine)

/-- A channel's copies of k bytes from byte n on for each size k of a list: every byte of a unit is read, then the unit is written; the
bytes (R180, R210). -/
def copyUnits (h id core : Nat) (w : List Word) : Nat → List Nat → M (List Byte)
  | _, [] => pure []
  | n, k :: ks => do
    let vs ← (List.range k).mapM (fun i => vread h core (copyAt w 0 9 (n + i)) 1 .engine)
    let bs := vs.map (BitVec.ofNat 8)
    vwrite h id core (copyAt w 1 14 n) k (ofLe bs) .engine
    pure (bs ++ (← copyUnits h id core w (n + k) ks))

/-- Sizes of the units of a copy of `total` bytes from byte n on, up to the first that reaches byte e: each holds as many bytes as follow
one another at the destination in one aligned 8-byte unit (R180). -/
def unitSizes (w : List Word) (total e : Nat) : Nat → List Nat → Prop
  | n, [] => e ≤ n
  | n, k :: ks => n < e ∧ 0 < k ∧ n + k ≤ total ∧
    (∀ i, i < k → copyAt w 1 14 (n + i) = copyAt w 1 14 n + i ∧ copyAt w 1 14 (n + i) / 8 = copyAt w 1 14 n / 8) ∧
    (n + k = total ∨ copyAt w 1 14 (n + k) ≠ copyAt w 1 14 n + k ∨ copyAt w 1 14 (n + k) / 8 ≠ copyAt w 1 14 n / 8) ∧
    unitSizes w total e (n + k) ks

/-- The words of memory at n successive doublewords of a local window. -/
def State.winWords (s : State) (h : Nat) (a : Word) (w : List Word) : Prop :=
  ∀ k, k < w.length → s.winRead h (a + BitVec.ofNat 64 (8 * k)).toNat 8 = some (wnth w k)

/-- An EST or EADD of hart h, of launch k in tower t, with its entry oldest and a slot write to send that hits no
watchpoint (R222, R227, R332). -/
def State.sends (s : State) (k t h : Nat) : Prop :=
  h ∈ s.members 3 t ∧ (s.taskOf h).any (fun x => x.launch == k) = true ∧ (s.hart h).run = .running ∧
  ∃ e l, (s.ctx h).vq = e :: l ∧ e.word.toNat % 2 ^ 7 = 0x6F ∧ e.word.toNat / 2 ^ 28 < 3 ∧ e.begun = true ∧
    e.estart < e.opB.toNat / 4 ∧ s.elecWatched h e = false

/-- The turn of hart h after hart `last` among those that satisfy p: the next higher number, or else the lowest (R222). -/
def inTurn (last : Option Nat) (p : Nat → Prop) (h : Nat) : Prop :=
  match last with
  | none => p h ∧ ∀ k, p k → h ≤ k
  | some x => p h ∧ ((x < h ∧ ∀ k, p k → x < k → h ≤ k) ∨ (h ≤ x ∧ ∀ k, p k → k ≤ x ∧ h ≤ k))

/-- The word that a slot write leaves at a copy (R227): the data, the sum modulo 2^32, or the F32 sum, of the word before. -/
def elecWord (kind old d : Nat) : Nat :=
  if kind = 0 then d else if kind = 1 then (old + d) % 2 ^ 32 else (opF (fmtOf .f32) 0 .add old d).1

/-! ### The memory system and accesses from outside (R153 to R170, R312 to R315) -/

/-- A scalar data cache has a place for a line: it holds the line's superblock, or one of the eight ways of its set is free (R155). -/
def State.dcSpace (s : State) (core line : Nat) : Prop :=
  sbOf (line * 64) ∈ s.dcSet core (sbOf (line * 64) % 64) ∨ (s.dcSet core (sbOf (line * 64) % 64)).length < 8

/-- No hart of a core but one, if named, has a load or a store on its way. -/
def State.quietCore (s : State) (core : Nat) (but : Option Nat) : Prop :=
  ∀ k, coreOf k = core → some k ≠ but → (s.hart k).pend = [] ∧ (s.hart k).load = none

/-- The transactions of other lines are the same. -/
def State.txnsBut (s t : State) (line : Nat) : Prop := ∀ l, l ≠ line → sfind t.txns l = sfind s.txns l

/-- Bytes of memory written: n bytes of v at a location; every other settled byte reads as before. -/
def State.stored (s t : State) (loc n v : Nat) : Prop :=
  (∀ k, k < n → rdByte t.mem (loc + k) = BitVec.ofNat 8 (v / 2 ^ (8 * k))) ∧
  (∀ x, (x < loc ∨ loc + n ≤ x) → s.settled x → rdByte t.mem x = rdByte s.mem x)

/-- An access within one line, to memory of this package below its register space that is in no transaction. -/
def State.plain (s : State) (acc : BusAccess) : Prop :=
  0 < acc.size ∧ acc.addr % 64 + acc.size ≤ 64 ∧ acc.addr < 2 ^ 56 ∧ acc.addr / 2 ^ 40 = s.pkg ∧
  acc.addr % 2 ^ 40 + acc.size ≤ regBase ∧ s.accBusy acc.addr acc.size = false

/-! ### The scheduler, registers and device events (R283 to R335) -/

/-- Word k of the descriptor of a work queue (R296). -/
def State.desc (s : State) (q k : Nat) : Nat := rdNum s.mem (s.sched.wqtBase + 32 * q + 8 * k) 8

/-- A queue is served and has an entry at HEAD that has not been taken before: head is its number and w its words (R296, R297). -/
def State.nextEntry (s : State) (q head : Nat) (w : List Word) : Prop :=
  (s.desc q 1).testBit 4 = true ∧ head = s.desc q 2 % 2 ^ 32 ∧ head ≠ (s.wq q).tail ∧ (s.wq q).ahead = 0 ∧
  (∀ x ∈ (s.wq q).items, x.idx ≠ head) ∧ w.length = 4 ∧
  ∀ k, k < 4 → wnth w k = rdNum s.mem
    (s.desc q 0 / 2 ^ 6 % 2 ^ 50 * 2 ^ 6 + 32 * (head % 2 ^ (s.desc q 0 % 2 ^ 4 + 4)) + 8 * k) 8

/-- An entry has been taken from a queue, and HEAD has risen past it (R297). -/
def State.took (s t : State) (q head : Nat) (ser : Bool) (work : WqWork) : Prop :=
  (t.wq q).items = (s.wq q).items ++ [{ idx := head, ser := ser, work := work }] ∧ t.desc q 2 = (head + 1) % 2 ^ 32

/-- A launch as it is made from a parameter block (R298, R300, R308). -/
def Launch.madeFrom (l : Launch) (b : List Word) (maxp root : Nat) (tlbm : Bool) (src : Source) : Prop :=
  l.par = parseBlock b ∧ l.prio = min (parseBlock b).prio maxp ∧ l.root = root ∧ l.tlbm = tlbm ∧ l.src = src ∧ l.next = 0 ∧
  l.started = 0 ∧ l.ended = 0 ∧ l.since = l.subm ∧ l.aged = 0 ∧ l.abort = none

/-- Nodes of a graph of queue q are tried in order, as graphNodeReady does it, while the queue stays enabled (R306). -/
def State.nodesTried (q seq : Nat) : List Nat → State → State → Prop
  | [], s, t => t = s
  | n :: l, s, t => (s.desc q 1).testBit 4 = true ∧ ∃ u, exec (.graphNodeReady seq n) s = .next u ∧ State.nodesTried q seq l u t

/-- The predicate of a node of a graph: whether the node runs, and the machine after the read (R305, R306). -/
def State.predicate (s t : State) (g : Graph) (x : GNode) (go : Bool) : Prop :=
  if x.pred = 0 then go = true ∧ t = s
  else x.pred % 8 = 0 ∧ ∃ v, (schedRead g.root x.pred).run s = .ok v t ∧ go = (v != 0)

/-- The completion of a node x of a graph brings node k to its last predecessor (R306). -/
def Graph.madeReady (g : Graph) (x : GNode) (k : Nat) : Prop :=
  ∃ z, g.nodes[k]? = some z ∧ z.state = .waiting ∧ z.got < z.npred ∧ z.npred ≤ z.got + x.succ.count k

/-- Node n of graph seq of the machine s, x before, is done, and has counted once for each of its successors (R306). -/
def State.nodeClosed (s t : State) (seq n : Nat) (x : GNode) : Prop :=
  ∃ g y, sfind s.sched.graphs seq = some g ∧ sfind t.sched.graphs seq = some y ∧ y.nodes[n]? = some { x with state := .done } ∧
    ∀ k z, k ≠ n → g.nodes[k]? = some z → y.nodes[k]? = some { z with got := z.got + x.succ.count k }

/-- The writes of a completion word: none, or the word at its translated address (R309). -/
def State.reported (s t : State) (root compl word : Nat) : Prop :=
  compl ≠ 0 → ∀ a s1, (schedLoc root compl .write).run s = .ok a s1 → rdNum t.mem a 8 = word % 2 ^ 64

/-- A completion vector is raised (R311, R316): its message is sent, or pending while it is masked, and a coalescing window opens; while a
window of it is open, that notes the completion instead. -/
def State.interrupted (s t : State) (vec : Nat) : Prop :=
  let a := s.irq.cmpBase + 16 * vec
  let d := rdNum s.mem (a + 8) 8
  ((∀ w ∈ s.irq.windows, w.1 ≠ (false, vec)) →
    (d.testBit 32 = false → t.irq.sent = (rdNum s.mem a 8 / 4 * 4, d % 2 ^ 32) :: s.irq.sent) ∧
    (d.testBit 32 = true → (false, vec) ∈ t.irq.pending ∧ t.irq.sent = s.irq.sent) ∧
    t.irq.windows = s.irq.windows ++ (if s.sched.ciwin = 0 then [] else [((false, vec), s.time + s.sched.ciwin, false)])) ∧
  ∀ n b l, s.irq.windows = ((false, vec), n, b) :: l → (∀ w ∈ l, w.1 ≠ (false, vec)) → s.time < n → s.sched.ciwin ≠ 0 →
    t.irq.sent = s.irq.sent ∧ t.irq.windows = ((false, vec), n, true) :: l

/-- Nothing restricts a write to a control register: no launch in flight or made, no fault record held or unread, no report under way,
trace off, no boot that failed (R283, R295, R314, R319, R327, R329). -/
def State.registersFree (s : State) : Prop :=
  s.boot.fail = 0 ∧ s.sched.launches = [] ∧ s.sched.graphs = [] ∧ s.port.launched = false ∧ s.fb.head = s.fb.tail ∧ s.fb.held = [] ∧
  s.boot.rptGo = false ∧ s.dbg.trOn = false ∧ s.boot.nonce.length = 4 ∧ s.dbg.watch.length = 4

/-- Control registers, and what each reads as after a write of v (R283, R295, R314, R316, R322 to R325, R327, R329). -/
def regBack (v : Nat) : List (Nat × Nat) :=
  [(0x00020, v), (0x00028, v), (0x00030, v), (0x00038, v), (0x00040, v / 2 ^ 6 % 2 ^ 50 * 2 ^ 6),
   (0x10000, v / 2 ^ 12 % 2 ^ 44 * 2 ^ 12), (0x10010, v / 2 ^ 20 % 2 ^ 36 * 2 ^ 20 + min 1280 (v % 2 ^ 11)), (0x10018, v % 2 ^ 32),
   (0x20000, v / 2 ^ 12 % 2 ^ 44 * 2 ^ 12 + v % 2 ^ 4), (0x20008, v % 2 ^ 3), (0x20028, 0),
   (0x30000, v / 2 ^ 4 % 2 ^ 52 * 2 ^ 4), (0x30008, v / 2 ^ 4 % 2 ^ 52 * 2 ^ 4), (0x40008, v % 2 ^ 12),
   (0x40010, v / 2 ^ 12 % 2 ^ 44 * 2 ^ 12), (0x50000, v % 2 ^ 32), (0x50008, v % 2 ^ 32), (0x50010, v % 2 ^ 12), (0x60000, v),
   (0x60008, v), (0x60018, v), (0x61000, v / 2 ^ 12 % 2 ^ 44 * 2 ^ 12 + v % 2 ^ 4), (0x61008, v / 2 ^ 32 * 2 ^ 32 + v % 2),
   (0x61018, v % 2 ^ 32), (0x61020, 0), (0x61208, v / 2 ^ 12 % 2 ^ 44 * 2 ^ 12)] ++
  (List.range 4).map (fun n => (0x61100 + 16 * n, v % 2 ^ 56)) ++
  (List.range 4).map (fun n => (0x61108 + 16 * n, v / 2 ^ 32 * 2 ^ 32 + v / 2 ^ 8 % 2 ^ 6 * 2 ^ 8 + v % 2 ^ 4)) ++
  (List.range 64).map (fun n => (0x62000 + 16 * n, v / 2 ^ 31 * 2 ^ 31 + v % 2 ^ 24)) ++
  (List.range 64).map (fun n => (0x62008 + 16 * n, v))

/-- The event that writes a control register, beside the general one (R283, R295, R325, R329). -/
def writesRegister (i : Instr) (off : Nat) (v : Word) : Prop :=
  i = .registerWrite off v ∨ off = 0x10000 ∧ i = .wqtbase v ∨ off = 0x10010 ∧ i = .frpool v ∨ off = 0x20000 ∧ i = .fbbase v ∨
  off = 0x20008 ∧ i = .fbctl v ∨ off = 0x20028 ∧ i = .fbovf v ∨ off = 0x60018 ∧ i = .tstreq v ∨ off = 0x61000 ∧ i = .trbase v

/-- The context of hart h, which ran task k, is on its way to its frame, saved for event code `code`, in t (R62, R288). A halt asked for
that has yet to take effect is kept as a freeze due (R294, R330). -/
def State.savedAs (s t : State) (h k code : Nat) (ready : Bool) (onRec : Option Nat) : Prop :=
  let c := s.ctx h
  (t.hart h).run = .idle ∧ (t.hart h).task = none ∧ (t.core (coreOf h)).bank = .outgoing k ∧
  ∃ x v, sfind t.sched.tasks k = some x ∧ x.saved = some v ∧ v.code = code ∧ v.ready = ready ∧ v.onRec = onRec ∧ v.spilled = false ∧
    { v.ctx with vq := [], dueStop := none } = { c with vq := [], dueStop := none } ∧ v.ctx.vq.length = c.vq.length ∧
    (c.dueStop ≠ none ∨ (s.hart h).halt = false → v.ctx.dueStop = c.dueStop) ∧
    (c.dueStop = none → (s.hart h).halt = true → v.ctx.dueStop.map (·.code) = some 0x2B)

/-- What a frame can hold of a context (R68 to R70, R254): registers of the architecture's numbers, fibres and queues within their
capacities, 32 queue entries. -/
def Ctx.fits (c : Ctx) : Prop :=
  (keysUp c.regs = true ∧ ∀ e ∈ c.regs, e.1 < 512) ∧ (keysUp c.vregs = true ∧ ∀ e ∈ c.vregs, e.1 < 256) ∧
  (keysUp c.masks = true ∧ ∀ e ∈ c.masks, e.1 < 16) ∧ c.vq.length ≤ 32 ∧ (∀ f, (c.fibre f).pairs.length ≤ (c.fibre f).cap) ∧
  ((List.range 16).map (fun f => (c.fibre f).cap)).sum ≤ 16384 ∧ ∀ q, (c.queue q).head < 64 ∧ (c.queue q).ents.length ≤ 64

/-- The header of a frame at F (R69 Table 10): offsets and words. -/
def frameHeader (v : Saved) (maxb : Nat) : List (Nat × Nat) :=
  let c := v.ctx
  [(0x000, 2 ^ 48 + v.code * 2 ^ 16 + v.cls * 2 ^ 4), (0x008, (if c.passOpen then c.closePass else c).pc.toNat), (0x010, c.vl),
   (0x018, c.rows), (0x020, 32 * c.swb), (0x028, 32 * c.vwb), (0x030, c.fflags.toNat), (0x038, c.fctl), (0x040, c.fexca),
   (0x048, c.fexcb), (0x050, c.fprogA.toNat), (0x058, c.fprogB.toNat), (0x060, c.fstat), (0x068, c.mctl), (0x070, c.lmapSel),
   (0x078, maxb), (0x088, c.vq.length)] ++
  (List.range 16).map (fun f => (0x100 + 8 * f, (c.fibre f).cap * 2 ^ 32 + (c.fibre f).pairs.length)) ++
  (List.range 16).map (fun q => (0x180 + 8 * q, (c.queue q).ents.length * 2 ^ 8 + (c.queue q).head))

/-- ESTART of a queue entry as a frame holds it, in 16 bits (R70, R336; log entry 66). -/
def Entry.framedEstart (e : Entry) : Nat := (if e.pendRec.isSome then e.recDone else e.estart) % 2 ^ 16

/-- A snapshot entry (R70 Table 11): offsets and words. -/
def entryWords (e : Entry) : List (Nat × Nat) :=
  [(0x00, e.word.toNat + (e.pre.map BitVec.toNat).getD 0 * 2 ^ 32), (0x08, e.opA.toNat), (0x10, e.opB.toNat), (0x18, e.opC.toNat),
   (0x20, e.vle + e.rows * 2 ^ 16 + e.rm * 2 ^ 20 + e.maxb * 2 ^ 32),
   (0x28, e.physD % 2 ^ 8 + e.physA % 2 ^ 8 * 2 ^ 8 + e.physB % 2 ^ 8 * 2 ^ 16 + e.physC % 2 ^ 8 * 2 ^ 24),
   (0x30, e.xsz * 2 ^ 60 + e.xbase * 2 ^ 12 + (if e.xle then 2 ^ 4 else 0)),
   (0x38, e.framedEstart + (if e.begun then 2 ^ 16 else 0) + (if e.pendRec.isSome then 2 ^ 17 else 0)),
   (0x50, e.progA.toNat), (0x58, e.progB.toNat), (0x70, e.addr)]

/-- The frame at F holds the context of a saved task (R68 to R70, R254). -/
def State.holdsContext (t : State) (F : Nat) (v : Saved) (maxb : Nat) : Prop :=
  let c := v.ctx
  let word (off w : Nat) : Prop := rdNum t.mem (F + off) 8 = w % 2 ^ 64
  let byte (off b : Nat) : Prop := (rdByte t.mem (F + off)).toNat = b
  (∀ x ∈ frameHeader v maxb, word x.1 x.2) ∧ (∀ e, c.vq.head? = some e → word 0x080 e.framedEstart) ∧
  (∀ p, p < 512 → p ≠ 0 → word (0x1000 + 8 * p) (c.getP p).toNat) ∧
  (∀ k e, c.vq[k]? = some e → (∀ x ∈ entryWords e, word (0x2000 + 128 * k + x.1) x.2) ∧
    (∀ i, i < 7 → rdNum t.mem (F + 0x2000 + 128 * k + 0x40 + 2 * i) 2 = nth e.mins i % 2 ^ 16) ∧
    (v.cls = 3 → ∀ i, i < 8 → rdNum t.mem (F + 0x2000 + 128 * k + 0x60 + 2 * i) 2 = nth e.restart i)) ∧
  (∀ q i w, q < 16 → (c.queue q).ents[i]? = some w → word (0x8000 + 512 * q + 8 * (((c.queue q).head + i) % 64)) w.toNat) ∧
  (∀ r j, r < 8 → j < 2048 → byte (0xA000 + 2048 * r + j) (getEl (sget c.scales scaleInit r) 8 j)) ∧
  (∀ j, j < 8192 → byte (0xE000 + j) 0) ∧
  (∀ m j, m < 16 → j < 4096 → byte (0x10000 + 4096 * m + j) (getEl (c.getM m) 8 j)) ∧
  (∀ f i, f < 16 → i < (c.fibre f).cap →
    word (0x20000 + 8 * (((List.range f).map (fun g => (c.fibre g).cap)).sum + i)) (match (c.fibre f).pairs[i]? with
      | some p => p.1 % 2 ^ 32 + p.2 % 2 ^ 32 * 2 ^ 32
      | none => 0)) ∧
  ∀ p j, p < 256 → j < 2048 → byte (0x40000 + 2048 * p + j) (if j < maxb then getEl (c.getV p) 8 j else 0)

/-- The shadow bank of hart h's core is free for it: empty, or staging a task of another hart, which a swap abandons (R288). -/
def State.bankFree (s : State) (h : Nat) : Prop :=
  (s.core (coreOf h)).bank = .empty ∨
  ∃ j y, (s.core (coreOf h)).bank = .staging j ∧ sfind s.sched.tasks j = some y ∧ y.hart ≠ h

/-- No engine keeps a stop for the return of task k to hart h (R294). -/
def State.keepsNone (s : State) (h k : Nat) : Prop :=
  (∀ e ∈ (s.core (coreOf h)).chans, e.2.owner = some (h, k) → e.2.hold.kept = none) ∧
  (∀ e ∈ (s.core (coreOf h)).streams, e.2.owner = some (h, k) → e.2.hold.kept = none) ∧
  ∀ e ∈ s.engines, ∀ x ∈ e.2.head?, x.hart = h → x.task = k → x.hold.kept = none

/-- No hart of a core that is to be evicted has a load in flight. -/
def State.evictQuiet (s : State) (c : Nat) : Prop := ∀ h, coreOf h = c → (s.hart h).evict = false ∨ (s.hart h).load = none

/-- What the turn of a hart fetches an instruction in: nothing awaited, or something that its instruction tries anew (R48, R69, R82,
R166). -/
def Wait.refetches : Option Wait → Bool
  | none => true
  | some .queueFull => true
  | some .scalarReg => true
  | some .sysreg => true
  | some .access => true
  | some .queueOrder => true
  | some .maint => true
  | some (.clean _ _ _) => false
  | _ => false

/-- The machine in which the turn of hart h at a listed move m stands, before anything of it happens. -/
def State.turnOf (s : State) (m : Move) (l : List Move) (h : Nat) : State :=
  { ({ s with agenda := l } : State).begin m with cur := h }

end Sys2Proof.Machine
end

