-- ==== Sys2Proof/Certificates/Slice0/Obligations.lean ====
section
/-! DEFINITION. The statements for the provers. In every statement about an instruction, s.cur is the hart that executes it. -/

open Sys2Proof Sys2Proof.Machine

/-- R85, R86: every row of majors 0x01 and 0x02 writes its result of Tables 7 and 8 to rd, and the hart goes on at the next
instruction; nothing else changes.
R87, R88: the immediate forms, LIH and ADDPC. -/
def Obligations.ScalarIntegerResult : Prop :=
  (∀ (i : Instr) (d a b : BitVec 7) (f : Word → Word → Word → Word) (s : State), scalarRR i = some (d, a, b, f) →
     ∃ t, exec i s = .next t ∧
       s.doneWith t s.cur (((s.ctx s.cur).setS d.toNat
         (f ((s.ctx s.cur).getS a.toNat) ((s.ctx s.cur).getS b.toNat) ((s.ctx s.cur).getS d.toNat))).advance 4)) ∧
  (∀ (i : Instr) (d a : BitVec 7) (f : Word → Word → BitVec 56 → Word) (s : State), scalarImm i = some (d, a, f) →
     ∃ t, exec i s = .next t ∧
       s.doneWith t s.cur (((s.ctx s.cur).setS d.toNat
         (f ((s.ctx s.cur).getS a.toNat) ((s.ctx s.cur).getS d.toNat) (s.ctx s.cur).pc)).advance 4))

/-- R89, R90, R91: every scalar floating-point instruction completes, writes its result with the upper half zero for F32, and raises its
flags; FEXCA and FEXCB stay, and so does all else of the hart. In the mode of FCTL.RM the result and the flags are those of Table 9 and,
for FCVT, of Table 7 of R35: arithmetic by R21 (NaNs), R90 (invalid operations, division by zero) and R33 (the exact value rounded once
in the mode of R25, overflow, underflow and inexactness, and the sign of zero); FMIN and FMAX, comparisons and class masks by R21 and
R90.
R33: the element operations of all four formats round their exact results in the same way. -/
def Obligations.ScalarFloatResult : Prop :=
  (∀ (i : Instr) (k : FpKind) (ty : Ty) (d a b : BitVec 7) (s : State), scalarFp i = some (k, ty, d, a, b) →
    ∃ (v fl : Nat) (t : State), exec i s = .next t ∧
      s.doneWith t s.cur ((((s.ctx s.cur).raise fl).setS d.toNat (BitVec.ofNat 64 v)).advance 4) ∧ v < 2 ^ 64 ∧ fl < 2 ^ 7 ∧
      fpResult (s.ctx s.cur).rm k ty ((s.ctx s.cur).getS a.toNat) ((s.ctx s.cur).getS b.toNat) ((s.ctx s.cur).getS d.toNat) v fl) ∧
  (∀ (ty : Ty) (rm x y z : Nat), ty ∈ [Ty.f64, Ty.f32, Ty.f16, Ty.b16] →
    let f := fmtOf ty
    let is (o : FpArith) (r : Nat × Nat) : Prop := (ieee ty).arith rm o x y z r.1 r.2
    is .add (opF f rm .add x y) ∧ is .sub (opF f rm .sub x y) ∧ is .mul (opF f rm .mul x y) ∧ is .div (opF f rm .div x y) ∧
    is .sqrt (sqrtV f rm (decodeF f x)) ∧ is .fma (fmaF f rm false x y z))

/-- R83 to R91: every scalar integer and floating-point row completes. Its frame, outside the end of a nest's pass: the program counter
moves to the next word; every register but rd, the flags at an integer row, every other register file and system register of the hart,
every other hart, every core and tower, and every byte of memory are unchanged; s0 still reads zero. What a floating-point row does to
FFLAGS is stated apart. -/
def Obligations.ScalarFrame : Prop :=
  ∀ (i : Instr) (d : BitVec 7) (fl : Bool) (s : State), scalarDest i = some (d, fl) → ∃ t, exec i s = .next t ∧
    ((s.ctx s.cur).endsPass 4 = false →
    (t.ctx s.cur).pc = (s.ctx s.cur).pc + 4#56 ∧
    (∀ n, physS (s.ctx s.cur) n ≠ physS (s.ctx s.cur) d.toNat → (t.ctx s.cur).getS n = (s.ctx s.cur).getS n) ∧
    (t.ctx s.cur).getS 0 = 0 ∧
    (fl = false → (t.ctx s.cur).fflags = (s.ctx s.cur).fflags) ∧
    { t.ctx s.cur with pc := (s.ctx s.cur).pc, regs := (s.ctx s.cur).regs, fflags := (s.ctx s.cur).fflags } = s.ctx s.cur ∧
    s.othersSame t s.cur ∧ t.cores = s.cores ∧ t.towers = s.towers ∧ s.memSame t)

/-- R33: rounding a value of the format gives its own pattern and raises no flag, in every rounding mode. -/
def Obligations.RoundingKeepsRepresentableValues : Prop :=
  ∀ (ty : Ty) (rm p : Nat) (sg : Bool) (m : Nat) (e : Int), ty ∈ [Ty.f64, Ty.f32, Ty.f16, Ty.b16] →
    p < 2 ^ ((fmtOf ty).eb + (fmtOf ty).fb + 1) → decodeF (fmtOf ty) p = .fin sg m e →
    roundF (fmtOf ty) rm sg m e false = (p, 0)

/-- R93: a branch goes to PC + 4 × off11 when its condition holds, else to the next word; it writes no register.
R94: JAL and JALR write the next address to rd and jump; a JALR target off a word boundary traps with cause 2 and writes
nothing. -/
def Obligations.ControlTransferResult : Prop :=
  (∀ (i : Instr) (a b : BitVec 7) (o : BitVec 11) (p : Word → Word → Bool) (s : State), branchOf i = some (a, b, o, p) →
     ∃ t, exec i s = .next t ∧
       s.doneWith t s.cur (if p ((s.ctx s.cur).getS a.toNat) ((s.ctx s.cur).getS b.toNat)
         then { s.ctx s.cur with pc := BitVec.ofInt 56 ((s.ctx s.cur).pc.toNat + 4 * o.toInt) }
         else (s.ctx s.cur).advance 4)) ∧
  ((∀ (d : BitVec 7) (o : BitVec 18) (s : State), ∃ t, exec (.jal d o) s = .next t ∧
     s.doneWith t s.cur { (s.ctx s.cur).setS d.toNat (BitVec.ofNat 64 (((s.ctx s.cur).pc.toNat + 4) % 2 ^ 56)) with
       pc := BitVec.ofInt 56 ((s.ctx s.cur).pc.toNat + 4 * o.toInt) }) ∧
   (∀ (d a : BitVec 7) (i : BitVec 11) (s : State),
     let x := (((s.ctx s.cur).getS a.toNat).toNat + i.toInt : Int) % 2 ^ 56
     (x % 4 = 0 → ∃ t, exec (.jalr d a i) s = .next t ∧
       s.doneWith t s.cur { (s.ctx s.cur).setS d.toNat (BitVec.ofNat 64 (((s.ctx s.cur).pc.toNat + 4) % 2 ^ 56)) with
         pc := BitVec.ofInt 56 x }) ∧
     (x % 4 ≠ 0 → exec (.jalr d a i) s = .next (s.takeTrap s.cur 2 (BitVec.ofInt 64 x) false))))


/-- R84, R92: a scalar load whose address is aligned and translates reads its bytes little-endian at the access's location, extends
them, and writes rd; a load of a DEVICE word of the register space reads the register. No settled byte of memory changes (log entry 12),
nor anything of the hart but rd, the program counter and the notes of the read that the scope checker and a later fence use. -/
def Obligations.LoadResult : Prop :=
  ∀ (i : Instr) (d a : BitVec 7) (o : BitVec 11) (n : Nat) (sg : Bool) (s s1 : State) (p : Piece),
    loadOf i = some (d, a, o, n, sg) →
    let h := s.cur
    let va := (BitVec.ofInt 64 (((s.ctx h).getS a.toNat).toNat + o.toInt)).toNat
    va % n = 0 → s.calm → (spiece h va n .read).run s = .ok p s1 → (s1.move.delayMiss && s1.scalarMisses h p false) = false →
    ∃ t, exec i s = .next t ∧
      (∃ v : Word,
        { t.ctx h with lastS := (s.ctx h).lastS, elecSeen := (s.ctx h).elecSeen } = ((s.ctx h).setS d.toNat v).advance 4 ∧
        (p.device = false → v = memVal t.mem p.loc n sg) ∧
        (p.device = true → pkgOf p.loc = s.pkg → regBase ≤ offOf p.loc →
          v = (if sg then sext64 (s.regRead (offOf p.loc - regBase)) (8 * n)
               else BitVec.ofNat 64 (s.regRead (offOf p.loc - regBase))))) ∧
      (t.hart h).wait = none ∧ s.othersSame t h ∧ (∀ x, s.settled x → rdByte t.mem x = rdByte s.mem x)

/-- R84, R92: a scalar store whose address is aligned and translates to memory writes the low bytes of its source, little-endian, at the
access's location, and no other settled byte (log entry 12); it writes no register. R312: a store to a word of the register space completes and is the write
of that register. -/
def Obligations.StoreResult : Prop :=
  ∀ (i : Instr) (r a : BitVec 7) (o : BitVec 11) (n : Nat) (s s1 : State) (p : Piece), storeOf i = some (r, a, o, n) →
    let h := s.cur
    let va := (BitVec.ofInt 64 (((s.ctx h).getS a.toNat).toNat + o.toInt)).toNat
    va % n = 0 → s.calm → (spiece h va n .write).run s = .ok p s1 → (s1.move.delayMiss && s1.scalarMisses h p true) = false →
    (s1.isReg p = false →
     ∃ t, exec i s = .next t ∧
       { t.ctx h with relS := (s.ctx h).relS } = (s.ctx h).advance 4 ∧
       (t.hart h).wait = none ∧ s.othersSame t h ∧
       (∀ k, k < n → rdByte t.mem (p.loc + k) = BitVec.ofNat 8 (((s.ctx h).getS r.toNat).toNat / 2 ^ (8 * k))) ∧
       (∀ x, (x < p.loc ∨ p.loc + n ≤ x) → s.settled x → rdByte t.mem x = rdByte s.mem x)) ∧
    (p.device = true → pkgOf p.loc = s1.pkg → regBase ≤ offOf p.loc → s1.boot.fail = 0 →
     ∃ t, s1.othersSame t h ∧ s1.restSame t ∧ (t.hart h).wait = none ∧
       { t.ctx h with relS := (s.ctx h).relS } = (s.ctx h).advance 4 ∧
       exec i s = exec (.registerWrite (offOf p.loc - regBase) ((s.ctx h).getS r.toNat)) t)

/-- R84, R92: a scalar load or store off its natural alignment traps with cause 2 and the address, and accesses nothing; an aligned
address at or above 2^56 freezes the hart with event code 0x20. That an address which is both traps is the model's choice (log entry
58). -/
def Obligations.LoadStoreAlignment : Prop :=
  ∀ (i : Instr) (a : BitVec 7) (o : BitVec 11) (n k : Nat) (s : State),
    ((∃ d sg, loadOf i = some (d, a, o, n, sg)) ∧ k = 1 ∨ (∃ r, storeOf i = some (r, a, o, n)) ∧ k = 2) →
    let va := BitVec.ofInt 64 (((s.ctx s.cur).getS a.toNat).toNat + o.toInt)
    (va.toNat % n ≠ 0 → exec i s = .next (s.takeTrap s.cur 2 va false)) ∧
    (va.toNat % n = 0 → 2 ^ 56 ≤ va.toNat → exec i s = .next (s.freezeScalar s.cur 0x20 va.toNat k))

/-- R104, R105, R82: a scalar-side trap whose earlier vector instructions and loads have completed, in a task with a handler and with
SWB.IDX at most 11, enters the handler: SWB moves by 3; s32 to s35 of the new window receive the return address, the cause with the
prefix mark in bit 16, the value and the trapping address; the program counter is the handler; a nest is suspended; every other
register, flag and byte of memory stays.
R63, R104: a trap waits, with the program counter at the trapping instruction, while earlier vector instructions are queued or a load
is in flight; with no handler, or with SWB.IDX above 11, it freezes the hart with event code 0x2C and the program counter there. -/
def Obligations.TrapEntering : Prop :=
  (∀ (i : Instr) (h cause : Nat) (val : Word) (prefixed : Bool) (s : State), trapOf s i = some (h, cause, val, prefixed) →
     (s.ctx h).vq = [] → (s.hart h).load = none → s.handlerOf h ≠ 0 → (s.ctx h).swb ≤ 11 →
     ∃ t, exec i s = .next t ∧
       (t.ctx h).swb = (s.ctx h).swb + 3 ∧
       (t.ctx h).pc = BitVec.ofNat 56 (s.handlerOf h) ∧
       (t.ctx h).getS 32 = (if cause = 3 ∨ cause = 4 then (s.ctx h).pc + 4#56 else (s.ctx h).pc).setWidth 64 ∧
       (t.ctx h).getS 33 = BitVec.ofNat 64 (cause + if prefixed then 2 ^ 16 else 0) ∧
       (t.ctx h).getS 34 = val ∧
       (t.ctx h).getS 35 = (s.ctx h).pc.setWidth 64 ∧
       (∀ q, (∀ k, k < 4 → q ≠ physS (t.ctx h) (32 + k)) → (t.ctx h).getP q = (s.ctx h).getP q) ∧
       { t.ctx h with pc := (s.ctx h).pc, regs := (s.ctx h).regs, swb := (s.ctx h).swb, nest := (s.ctx h).nest } = s.ctx h ∧
       (t.ctx h).nest = (s.ctx h).nest.map (fun n => { n with suspended := true }) ∧
       (t.hart h).run = (s.hart h).run ∧ (t.hart h).wait = none ∧ (s.quietFor h → s.othersSame t h) ∧ (s.traced h = false → s.restSame t)) ∧
  (∀ (i : Instr) (h cause : Nat) (val : Word) (prefixed : Bool) (s : State), trapOf s i = some (h, cause, val, prefixed) →
     ((s.ctx h).vq ≠ [] ∨ (s.hart h).load ≠ none → ∃ t, exec i s = .next t ∧
       t.hart h = { s.hart h with wait := some (.trap cause val prefixed) } ∧ s.othersSame t h ∧ s.restSame t) ∧
     ((s.ctx h).vq = [] → (s.hart h).load = none → s.handlerOf h = 0 ∨ 11 < (s.ctx h).swb → ∃ t, exec i s = .next t ∧
       (t.hart h).run = .frozen 0x2C ∧ (t.ctx h).pc = (s.ctx h).pc ∧ (t.ctx h).regs = (s.ctx h).regs ∧
       (t.ctx h).swb = (s.ctx h).swb))

/-- R106, R98: TRET in a window with SWB.IDX at least 3 and a word-aligned s32 moves the window back by 3 and goes to s32's low 56 bits;
a suspended nest resumes when the target is in its body and ends otherwise. With SWB.IDX below 3 it traps with cause 5, and with
a target off a word boundary with cause 2. -/
def Obligations.TrapReturn : Prop :=
  ∀ s : State,
    let h := s.cur
    let c := s.ctx h
    let x := (c.getS 32).toNat
    (3 ≤ c.swb → x % 4 = 0 → ∃ t, exec .tret s = .next t ∧
      s.doneWith t h { c with swb := c.swb - 3, pc := BitVec.ofNat 56 x, nest :=
        match c.nest with
        | none => none
        | some n =>
          if n.suspended then
            (if n.start + 4 ≤ x % 2 ^ 56 ∧ x % 2 ^ 56 < n.start + 4 + 4 * n.body.length then some { n with suspended := false }
             else none)
          else some n }) ∧
    (c.swb < 3 → exec .tret s = .next (s.takeTrap h 5 (BitVec.ofInt 64 (-3)) false)) ∧
    (3 ≤ c.swb → x % 4 ≠ 0 → exec .tret s = .next (s.takeTrap h 2 (c.getS 32) false))

/-- R95 to R97: a NEST whose body has no offending word (R97's list: a branch, JAL, JALR, NEST, WIN, TRET, EXIT, an illegal word, a
prefix as the last word) and whose descriptor is aligned and valid (R96's test over the fields of Table 12) starts the nest with every
counter 0 and its names resolved, or passes over its body when a trip count is 0. A body with an offending word traps with cause 1 and
the first of them (which one it is where a pair offends is the model's reading, log entry 22), a misaligned descriptor with cause 2, an
invalid one with cause 6, in this order; a NEST while another runs or is suspended traps with cause 1.
R83, R96: an instruction of len bytes that does not end a pass of a running nest continues at PC + len and changes nothing else;
at the end of a pass with a dimension left to advance, the lower counters become 0, that counter rises by one, each address
register receives its step of that dimension, one named twice both, and the body starts again; after the last pass the nest is over. -/
def Obligations.NestResult : Prop :=
  (∀ (a : BitVec 7) (n : BitVec 5) (s s1 : State) (body : List (BitVec 32)),
     let h := s.cur
     let c := s.ctx h
     c.nest = none → (nestBody h (n.toNat + 1)).run s = .ok body s1 →
     (∀ x, offender body (some x) → exec (.nest a n) s = .next (s1.takeTrap h 1 (x.setWidth 64) false)) ∧
     (offender body none → (c.getS a.toNat).toNat % 8 ≠ 0 →
      exec (.nest a n) s = .next (s1.takeTrap h 2 (c.getS a.toNat) false)) ∧
     (offender body none → (c.getS a.toNat).toNat % 8 = 0 →
      ∀ (w : List Word) (s2 : State), (nestWords h (c.getS a.toNat)).run s1 = .ok w s2 →
      (badNest w → exec (.nest a n) s = .next (s2.takeTrap h 6 (c.getS a.toNat) false)) ∧
      (¬ badNest w →
       let nd := wnth w 0 % 8
       let na := wnth w 0 / 2 ^ 4 % 8
       ∃ t, exec (.nest a n) s = .next t ∧ (t.hart h).wait = none ∧ (s.calm → s.othersSame t h) ∧
         ((∃ d, d < nd ∧ wnth w (1 + d) = 0) → (t.ctx h).nest = none ∧
           (t.ctx h).pc = c.pc + BitVec.ofNat 56 (4 + 4 * (n.toNat + 1))) ∧
         ((∀ d, d < nd → wnth w (1 + d) ≠ 0) → (t.ctx h).pc = c.pc + 4#56 ∧
           ∃ m, (t.ctx h).nest = some m ∧ m.suspended = false ∧ m.start = c.pc.toNat ∧ m.body = body ∧
             m.trips = (List.range nd).map (fun d => wnth w (1 + d)) ∧ m.ctrs = List.replicate nd 0 ∧
             m.regs = (List.range na).map (fun k => physS c (wnth w 0 / 2 ^ (8 + 8 * k) % 2 ^ 7)) ∧
             m.steps = (List.range na).map (fun k => (List.range nd).map (fun d => BitVec.ofNat 64 (wnth w (7 + 6 * k + d)))))))) ∧
  (∀ (a : BitVec 7) (n : BitVec 5) (s : State), (s.ctx s.cur).nest ≠ none →
     exec (.nest a n) s = .next (s.takeTrap s.cur 1 ((encBase (.nest a n)).setWidth 64) false)) ∧
  (∀ (c : Ctx) (len : Nat),
     (c.endsPass len = false → c.advance len = { c with pc := c.pc + BitVec.ofNat 56 len }) ∧
     (∀ n, c.nest = some n → c.endsPass len = true →
       ((∀ d, d < n.trips.length → nth n.trips d ≤ nth n.ctrs d + 1) →
         c.advance len = { c with nest := none, pc := c.pc + BitVec.ofNat 56 len }) ∧
       (∀ d, d < n.trips.length → nth n.ctrs d + 1 < nth n.trips d →
         (∀ j, j < d → nth n.trips j ≤ nth n.ctrs j + 1) →
         (c.advance len).pc = BitVec.ofNat 56 (n.start + 4) ∧
         (∃ m, (c.advance len).nest = some m ∧ m.ctrs.length = n.trips.length ∧
           (∀ j, j < n.trips.length →
             nth m.ctrs j = if j < d then 0 else if j = d then nth n.ctrs j + 1 else nth n.ctrs j) ∧
           { m with ctrs := n.ctrs } = n) ∧
         (∀ q, (c.advance len).getP q = if q = 0 then 0
           else ((List.range n.regs.length).filter (fun a => decide (nth n.regs a = q))).foldl
             (fun v a => v + (n.steps.getD a []).getD d 0) (c.getP q)))))

/-- R99: WIN moves both window bases when both stay in range; otherwise it traps with cause 5 and leaves both. -/
def Obligations.WindowMove : Prop :=
  ∀ (ds dv : BitVec 4) (s : State),
    let h := s.cur
    let c := s.ctx h
    let ns : Int := c.swb + ds.toInt
    let nv : Int := c.vwb + dv.toInt
    (0 ≤ ns → ns ≤ 14 → 0 ≤ nv → nv ≤ 6 → ∃ t, exec (.win ds dv) s = .next t ∧
      s.doneWith t h ({ c with swb := ns.toNat, vwb := nv.toNat }.advance 4)) ∧
    (ns < 0 ∨ 14 < ns ∨ nv < 0 ∨ 6 < nv →
      exec (.win ds dv) s = .next (s.takeTrap h 5 (BitVec.ofInt 64 (ds.toInt + 16 * dv.toInt)) false))

/-- R102, R29: SRR writes the register of Table 14 to rd. SRR of a register that earlier vector instructions can change waits, with
nothing written, until the queue is empty. An unassigned number is an illegal encoding. R12, R13, R242: the fields of HID, LMAP and
BSTAT (FIRST keeps its low 8 bits, log entry 25; CAUSE to FREE are of the hart and its launch, log entry 44).
R28, R66, R241, R258: the fields of FCTL, FEXCA, FEXCB, FSTAT and MCTL, where every field of the context fits its own.
R27, R28, R67, R241, R258, R14: SRW writes each field of its register by the field's own rule, once the earlier vector instructions
have completed; until then it waits with nothing written. SRW LMAP writes SEL at once. -/
def Obligations.SystemRegisterAccess : Prop :=
  (∀ (d : BitVec 7) (n : BitVec 11) (s : State),
     let h := s.cur
     (∀ v, (n.toNat, v) ∈ sysTable s h → (waitsForQueue n.toNat = true → (s.ctx h).vq = []) →
       ∃ t, exec (.srr d n) s = .next t ∧ s.doneTraced t h (((s.ctx h).setS d.toNat (BitVec.ofNat 64 v)).advance 4)) ∧
     (waitsForQueue n.toNat = true → (s.ctx h).vq ≠ [] → s.quietFor h →
       ∃ t, exec (.srr d n) s = .next t ∧ t.hart h = { s.hart h with wait := some .sysreg } ∧ s.othersSame t h) ∧
     ((∀ v, (n.toNat, v) ∉ sysTable s h) →
       exec (.srr d n) s = .next (s.takeTrap h 1 (BitVec.ofNat 64 (encBase (.srr d n)).toNat) false))) ∧
  (∀ (s : State) (h : Nat), h < 1024 →
     fieldsOf (s.hid h) [(63, 48, 0), (47, 32, s.pkg % 2 ^ 16), (31, 24, 0), (23, 16, (s.workingIn 0 (coreOf h)).length),
       (15, 14, h / 256), (13, 11, h / 32 % 8), (10, 8, (s.workingIn (h / 32 * 8) (coreOf h)).length), (7, 2, 0), (1, 0, h % 4)] ∧
     (let col := (s.ctx h).lmapSel % 32
      fieldsOf (s.lmap (s.ctx h).lmapSel) ([(63, 41, 0), (40, 32, (s.workingIn 0 256).length),
        (23, 16, (s.workingIn 0 (8 * col)).length % 2 ^ 8), (15, 12, (s.workingIn (8 * col) (8 * col + 8)).length), (11, 5, 0), (4, 0, col)] ++
        (List.range 8).map (fun k => (24 + k, 24 + k, if s.coreMask.testBit (8 * col + k) then 1 else 0)))) ∧
     (let l := s.launchOf h
      let quota := (l.map (·.par.quota)).getD 0
      let lo := (l.bind (fun l => sfind l.rows (coreOf h))).getD 0
      let used := ((s.core (coreOf h)).billon.filter (fun e => decide (lo ≤ e.1 / 256) &&
        decide (e.1 / 256 < lo + (l.map (·.par.acnt)).getD 0))).length
      fieldsOf (s.bstat h) [(63, 60, (s.hart h).bcause % 2 ^ 4), (59, 46, (s.hart h).barow % 2 ^ 14), (45, 42, 0),
        (41, 32, quota % 2 ^ 10), (31, 26, 0), (25, 16, used % 2 ^ 10), (15, 11, 0),
        (10, 10, if (s.ctx h).vq.head?.any (·.stallSince.isSome) then 1 else 0), (9, 0, (quota - used) % 2 ^ 10)])) ∧
  (∀ c : Ctx, c.fieldsFit →
     let bit (b : Bool) : Nat := if b then 1 else 0
     fieldsOf c.fctl [(63, 60, c.xsz), (59, 56, 0), (55, 12, c.xbase), (11, 6, 0), (5, 5, bit c.xlovf), (4, 4, bit c.xle), (3, 3, 0), (2, 0, c.rm)] ∧
     fieldsOf c.fexca [(63, 48, nth c.fexc 3), (47, 32, nth c.fexc 2), (31, 16, nth c.fexc 1), (15, 0, nth c.fexc 0)] ∧
     fieldsOf c.fexcb [(63, 48, 0), (47, 32, nth c.fexc 6), (31, 16, nth c.fexc 5), (15, 0, nth c.fexc 4)] ∧
     fieldsOf c.fstat [(63, 3, 0), (2, 2, bit c.rng), (1, 1, bit c.ord), (0, 0, bit c.ovf)] ∧
     fieldsOf c.mctl [(63, 34, 0), (33, 32, c.mode), (31, 0, c.tmo)]) ∧
  (∀ (i : Instr) (a : BitVec 7) (f : Nat → Ctx → Ctx) (c : Ctx) (x : Nat), srwOf i = some (a, f) → c.fieldsFit → (f x c).fieldsFit) ∧
  ((∀ (i : Instr) (a : BitVec 7) (f : Nat → Ctx → Ctx) (s : State), srwOf i = some (a, f) →
     let h := s.cur
     ((s.ctx h).vq = [] → ∃ t, exec i s = .next t ∧
       s.doneWith t h ((f ((s.ctx h).getS a.toNat).toNat (s.ctx h)).advance 4)) ∧
     ((s.ctx h).vq ≠ [] → ∃ t, exec i s = .next t ∧
       t.hart h = { s.hart h with wait := some .sysreg } ∧ s.othersSame t h ∧ s.restSame t)) ∧
   (∀ (a : BitVec 7) (s : State), ∃ t, exec (.srwLmap a) s = .next t ∧
     s.doneWith t s.cur ({ s.ctx s.cur with lmapSel := ((s.ctx s.cur).getS a.toNat).toNat % 2 ^ 5 }.advance 4)))

/-- R100, R101: with no earlier vector instruction that names the queue and no link from it, QPUSH appends its operand at the tail of a
queue with room, QPOP removes the head entry of a queue that is not empty and writes it to rd, and QCNT writes the number of entries; so
does a QPUSH or QPOP that has waited, once there is room or an entry.
R100, R101: QPUSH to a full queue and QPOP from an empty one wait with nothing changed; QPUSH to the destination of an open stream
freezes the hart with event code 0x26. -/
def Obligations.ScalarQueueAccess : Prop :=
  ((∀ (i : Instr) (h q : Nat) (v : Word) (s : State), qpushOf s i = some (h, q, v) → s.queueNamed h q = false →
     s.linkFrom h q = none → ((s.ctx h).queue q).ents.length < 64 → s.streamDst h q = false →
     ∃ t, exec i s = .next t ∧ s.doneTraced t h
       (((s.ctx h).setQueue q { (s.ctx h).queue q with ents := ((s.ctx h).queue q).ents ++ [v] }).advance 4)) ∧
   (∀ (i : Instr) (h d q : Nat) (w : Word) (l : List Word) (s : State), qpopOf s i = some (h, d, q) → s.queueNamed h q = false →
     s.linkFrom h q = none → ((s.ctx h).queue q).ents = w :: l →
     ∃ t, exec i s = .next t ∧ s.doneTraced t h
       ((((s.ctx h).setQueue q { head := (((s.ctx h).queue q).head + 1) % 64, ents := l }).setS d w).advance 4)) ∧
   (∀ (d q : BitVec 7) (s : State), s.queueNamed s.cur q.toNat = false → s.linkFrom s.cur q.toNat = none →
     ∃ t, exec (.qcnt d q) s = .next t ∧ s.doneTraced t s.cur
       (((s.ctx s.cur).setS d.toNat (BitVec.ofNat 64 ((s.ctx s.cur).queue q.toNat).ents.length)).advance 4))) ∧
  ((∀ (i : Instr) (h q : Nat) (v : Word) (s : State), qpushOf s i = some (h, q, v) → s.queueNamed h q = false →
     s.linkFrom h q = none → s.traced h = false →
     (64 ≤ ((s.ctx h).queue q).ents.length → s.streamDst h q = false → ∃ t, exec i s = .next t ∧
       t.hart h = { s.hart h with wait := some (.qpush q v) } ∧ s.othersSame t h ∧ s.restSame t) ∧
     (s.streamDst h q = true → ∃ t, exec i s = .next t ∧ (t.hart h).run = .frozen 0x26)) ∧
   (∀ (i : Instr) (h d q : Nat) (s : State), qpopOf s i = some (h, d, q) → s.queueNamed h q = false →
     s.linkFrom h q = none → s.traced h = false → ((s.ctx h).queue q).ents = [] →
     ∃ t, exec i s = .next t ∧ t.hart h = { s.hart h with wait := some (.qpop d q) } ∧ s.othersSame t h ∧ s.restSame t))

/-- R218: QLINK with bit 63 of its operand set and a link that is allowed adds the link from the producer's queue to this hart's queue;
a QPUSH of the producer then appends to the consumer's queue; QLINK with bit 63 clear removes the link once the queue is empty. That
entries which the producer's own queue holds stay there, and that a QLINK with bit 63 clear on a queue without a link completes, is the
model's choice (log entry 60). -/
def Obligations.QueueLinks : Prop :=
  ∀ (q a : BitVec 7) (s : State),
    let h := s.cur
    let c := s.ctx h
    let v := (c.getS a.toNat).toNat
    s.queueNamed h q.toNat = false → bits v 62 24 = 0 → bits v 15 6 = 0 → s.quietFor h →
    (∀ l, v.testBit 63 = true → s.newLink h q.toNat v = some l → l.ch = h ∧ l.cq = q.toNat ∧ l.pq = v % 16 ∧
      ∃ t, exec (.qlink q a) s = .next t ∧ t.links = s.links ++ [l] ∧ t.ctx h = c.advance 4 ∧ s.othersSame t h) ∧
    (v.testBit 63 = false → (c.queue q.toNat).ents = [] → ∃ t, exec (.qlink q a) s = .next t ∧
      t.links = s.links.filter (fun l => !(l.ch == h && l.cq == q.toNat && some l.ct == (s.hart h).task)) ∧
      t.ctx h = c.advance 4 ∧ s.othersSame t h) ∧
    (∀ (r : BitVec 7) (l : Link), s.linkFrom h q.toNat = some l → l.ch ≠ h → (s.hart l.ch).task = some l.ct →
      ((s.ctx l.ch).queue l.cq).ents.length < 64 → (s.ctx l.ch).exiting = 0 → s.streamDst h q.toNat = false →
      ∃ t, exec (.qpush r q) s = .next t ∧ t.ctx h = c.advance 4 ∧
        ((t.ctx l.ch).queue l.cq).ents = ((s.ctx l.ch).queue l.cq).ents ++ [c.getS r.toNat])

/-- R110: CLEAN of a range writes back every dirty line of it and changes no byte of memory; CDROP of an aligned range gives back, in
every resident line of it, what the backing memory holds, and leaves every other byte. Both wait for the earlier accesses, with
nothing changed and their operands kept.
R110: a range of length 0 changes nothing; CDROP of a range off line boundaries traps with cause 2; else an address at or above 2^56
freezes the hart with event code 0x20. Parts of the range that do not translate are passed over (log entry 26). That a misaligned CDROP
at or above 2^56 traps is the model's choice (log entry 58). -/
def Obligations.CacheMaintenanceResult : Prop :=
  (∀ (a b : BitVec 7) (s : State),
     let h := s.cur
     let lo := ((s.ctx h).getS a.toNat).toNat
     let n := ((s.ctx h).getS b.toNat).toNat
     let hit := fun line => lineIn (s.leaves lo (lo + n) 4 (s.rootOf h) 0) lo (lo + n) line
     s.fenceAll h 2 = true → s.dbgOf h = false → lo < 2 ^ 56 → n ≠ 0 →
     (∃ t, exec (.clean a b) s = .next t ∧ t.ctx h = (s.ctx h).advance 4 ∧ s.othersSame t h ∧ s.memSame t ∧
       (∀ line, line ∈ t.dirty ↔ line ∈ s.dirty ∧ hit line = false)) ∧
     (lo % 64 = 0 → n % 64 = 0 → s.calm →
       ∃ t, exec (.cdrop a b) s = .next t ∧ t.ctx h = (s.ctx h).advance 4 ∧ s.othersSame t h ∧
         (∀ line, line ∈ s.residentLines → hit line = true → line ∉ t.dirty ∧ sfind t.stale line = none) ∧
         (∀ x bs, x / 64 ∈ s.residentLines → hit (x / 64) = true → sfind s.stale (x / 64) = some bs → bs.length = 64 →
           rdByte t.mem x = bs.getD (x % 64) 0) ∧
         (∀ x, x / 64 ∉ s.residentLines ∨ hit (x / 64) = false ∨ sfind s.stale (x / 64) = none →
           rdByte t.mem x = rdByte s.mem x))) ∧
  (∀ (a b : BitVec 7) (s : State),
     let h := s.cur
     let lo := (s.ctx h).getS a.toNat
     let n := ((s.ctx h).getS b.toNat).toNat
     (s.fenceAll h 2 = false → ∀ drop, ∃ t, exec (if drop then .cdrop a b else .clean a b) s = .next t ∧
       t.hart h = { s.hart h with wait := some (.clean drop lo ((s.ctx h).getS b.toNat)) } ∧ s.othersSame t h ∧ s.restSame t) ∧
     (s.fenceAll h 2 = true → 2 ^ 56 ≤ lo.toNat →
       exec (.clean a b) s = .next (s.freezeScalar h 0x20 lo.toNat 0) ∧
       (lo.toNat % 64 = 0 → n % 64 = 0 → exec (.cdrop a b) s = .next (s.freezeScalar h 0x20 lo.toNat 0))) ∧
     (s.fenceAll h 2 = true → s.dbgOf h = false →
     (n = 0 → lo.toNat < 2 ^ 56 → ∃ t, exec (.clean a b) s = .next t ∧ s.doneWith t h ((s.ctx h).advance 4)) ∧
     (n = 0 → lo.toNat < 2 ^ 56 → lo.toNat % 64 = 0 → ∃ t, exec (.cdrop a b) s = .next t ∧ s.doneWith t h ((s.ctx h).advance 4)) ∧
     (lo.toNat % 64 ≠ 0 ∨ n % 64 ≠ 0 → exec (.cdrop a b) s = .next (s.takeTrap h 2 lo false))))

/-- R111, R280: TLBINV by a task of a launch that may use it, with every earlier access performed and no access in flight through a
translation of the range, drops from every walker the cached translations of its address space that meet the range, and keeps
the others; without the right it freezes the hart with event code 0x24. Work of other harts above what they have committed is done anew
(R281).
R280: TLBINVs in flight have sent their invalidations to the walkers; each walker that no access in flight holds up drops the
translations of their ranges and acknowledges, and an instruction completes once none is left to acknowledge. -/
def Obligations.TranslationInvalidation : Prop :=
  (∀ (a b : BitVec 7) (s : State),
     let h := s.cur
     let lo := ((s.ctx h).getS a.toNat).toNat
     let n := ((s.ctx h).getS b.toNat).toNat
     ((s.launchOf h).any (·.tlbm) = true → s.fenceAll h 3 = true → s.dbgOf h = false → s.move.delayMiss = false →
       (∀ w ∈ s.walkers, s.walkerBusy (s.rootOf h) lo n w = false) →
       ∃ t, exec (.tlbinv a b) s = .next t ∧ t.ctx h = (s.ctx h).advance 4 ∧ (∀ k, k ≠ h → s.committedSame t k) ∧ t.mem = s.mem ∧
         ∀ w ∈ s.walkers, t.tlbOf w = (s.tlbOf w).filter (fun e => !(e.root == s.rootOf h && e.meets lo n))) ∧
     ((s.launchOf h).any (·.tlbm) = false → ∃ t, exec (.tlbinv a b) s = .next t ∧ (t.hart h).run = .frozen 0x24)) ∧
  ((∀ (s : State) (w : Nat), w < 514 →
     (∀ k lo n ws, (s.hart k).inval = some (lo, n, ws) → w ∈ ws → s.walkerBusy (s.rootOf k) lo n w = false) →
     ∃ t, exec (.walkerInvalidate w) s = .next t ∧ t.mem = s.mem ∧
       (∀ k, (t.hart k).inval = (s.hart k).inval.map (fun x => (x.1, x.2.1, x.2.2.erase w)) ∧
         { t.hart k with inval := (s.hart k).inval }.committed = (s.hart k).committed) ∧
       (∀ e, e ∈ t.tlbOf w ↔ e ∈ s.tlbOf w ∧
         ∀ k lo n ws, (s.hart k).inval = some (lo, n, ws) → w ∈ ws → ¬ (e.root = s.rootOf k ∧ e.meets lo n = true)) ∧
       ∀ v, v ≠ w → v < 514 → t.tlbOf v = s.tlbOf v) ∧
   (∀ (s : State) (h lo n : Nat), (s.hart h).run = .running → (s.hart h).wait = some .tlbinv →
     (s.hart h).inval = some (lo, n, []) →
     ∃ t, exec (.tlbinvComplete h) s = .next t ∧ t.hart h = { s.hart h with
       wait := none, inval := none, ctx := (s.ctx h).advance 4 } ∧ s.othersSame t h ∧ s.restSame t))


/-- R123, R127 to R138, R27, R67: every elementwise vector instruction, with no earlier entry queued, applies its function to each
active element in ascending index, zeroes or keeps the others by POL, raises the flags, and replaces FEXCA and FEXCB by the least
index of each flag when it can raise one; nothing else changes.
R30 to R32: with XLE = 1 and the exception list in a granted local window, each element that raises CN also adds 1 to the list's count
and writes its record, or sets XLOVF when the list is full; no other byte of memory changes. -/
def Obligations.VectorElementResult : Prop :=
  ∀ (i : Instr) (R : ElemRow) (s : State), elemRow i = some R →
    let h := s.cur
    let C := s.ctx h
    let vle := s.vleOf h R.w
    (∀ v ∈ R.swept, v.toNat % C.rows = 0) → R.ok C vle = true → C.vq = [] → s.move.delayIssue = false →
    (C.xle = false → ∃ t, exec i s = .next t ∧
      s.doneTraced t h (((R.sweep C vle).1.retired C (if R.flags then (R.sweep C vle).2 else C.fexc)).advance (pxLen R.px))) ∧
    (∀ x, C.xle = true → R.dst.isSome = true → C.gates = [] → s.liveIlocks h = [] → s.dbgOf h = false →
      (List.range (C.rows * vle)).foldlM (R.listStep s C h vle) ((C, [0xFFFF, 0xFFFF, 0xFFFF, 0xFFFF, 0xFFFF, 0xFFFF, 0xFFFF]), s.mem)
        = some x →
      ∃ t, exec i s = .next t ∧ (t.hart h).wait = none ∧
        { t.ctx h with ilocks := C.ilocks } =
          { (x.1.1.retired C (if R.flags then x.1.2 else C.fexc)).advance (pxLen R.px) with ilocks := C.ilocks } ∧
        t.mem = x.2 ∧ s.othersSame t h ∧ { s with mem := t.mem }.restSame t)

/-- R44, R122, R104: a vector word whose swept registers are not all multiples of ROWS, or whose operands overlap or do not fit, traps
with cause 1 and its words as the value, whatever is queued.
R47, R48, R54: with earlier entries queued and the queue not full, a vector instruction only takes its place in the queue, with the
values of its scalar operands, the numbers of its vector registers under the window bases, its vector length, rows, rounding mode and
list registers as they are at its issue (operands that it does not have are those of register name 0, log entry 61); with a full
queue it waits. -/
def Obligations.VectorIssue : Prop :=
  (∀ (i : Instr) (R : ElemRow) (s : State), elemRow i = some R →
     let h := s.cur
     ((∃ v ∈ R.swept, v.toNat % (s.ctx h).rows ≠ 0) ∨ R.ok (s.ctx h) (s.vleOf h R.w) = false) →
     exec i s = .next (s.takeTrap h 1
       (BitVec.ofNat 64 ((R.px.map (fun p => (pfxWord p).toNat)).getD 0 * 2 ^ 32 + (encBase i).toNat)) R.px.isSome)) ∧
  (∀ (i : Instr) (R : ElemRow) (s : State), elemRow i = some R →
     let h := s.cur
     let C := s.ctx h
     (∀ v ∈ R.swept, v.toNat % C.rows = 0) → R.ok C (s.vleOf h R.w) = true → C.vq ≠ [] →
     (C.vq.length < 32 → ∃ (t : State) (e : Entry), exec i s = .next t ∧
       s.doneWith t h ({ C with vq := C.vq ++ [e], nextId := C.nextId + 1 }.advance (pxLen R.px)) ∧
       e.id = C.nextId ∧ e.word = encBase i ∧ e.pre = R.px.map pfxWord ∧ e.addr = C.pc.toNat ∧
       e.vle = s.vleOf h R.w ∧ e.rows = C.rows ∧ e.vl = C.vl ∧ e.rm = rmOf R.px C ∧ e.maxb = s.maxvl (coreOf h) ∧
       e.opA = C.getS R.srcs.1.toNat ∧ e.opB = C.getS R.srcs.2.1.toNat ∧ e.opC = C.getS R.srcs.2.2.toNat ∧
       e.physA = physV C R.srcs.1.toNat ∧ e.physB = physV C R.srcs.2.1.toNat ∧ e.physC = physV C R.srcs.2.2.toNat ∧
       e.physD = physV C R.d.toNat ∧ e.xsz = C.xsz ∧ e.xbase = C.xbase ∧ e.xle = C.xle ∧
       e.estart = 0 ∧ e.begun = false) ∧
     (32 ≤ C.vq.length → ∃ t, exec i s = .next t ∧
       t.hart h = { s.hart h with wait := some .queueFull } ∧ s.othersSame t h ∧ s.restSame t))

/-- R131, R135, R139 to R143, R40: MPOPC, MFIRST, SMAXE, the reductions, the permutations, VMERGE, VRESHAPE, VCOMPRESS, VEXTRACT and
VINSERT, with no earlier entry queued, have the effect of their rule and no other. What VFREDMAX with no active element gives, its start
value or, where that is a NaN, the default NaN, is the model's reading (log entry 28). -/
def Obligations.VectorWholeResult : Prop :=
  ∀ (i : Instr) (R : WholeRow) (s : State), wholeRow i = some R →
    let h := s.cur
    let C := s.ctx h
    let vle := s.vleOf h R.w
    let x := R.F C vle
    (∀ v ∈ R.swept, v.toNat % C.rows = 0) → R.ok C vle = true → C.vq = [] → s.move.delayIssue = false → C.rows ≤ 8 →
    ∃ t, exec i s = .next t ∧
      s.doneTraced t h (((x.1.raiseAll x.2).retired C (if R.flags then leastOf x.2 else C.fexc)).advance (pxLen R.px))

/-- R131: MAND, MOR, MXOR, MANDN and MSET write the bits below N = min(ROWS × VL, 32768) of a mask that may be written; every other
bit of it, every other mask and the rest of the context stay. -/
def Obligations.MaskResult : Prop :=
  ∀ (i : Instr) (d : BitVec 7) (px : Option Pfx) (f : Nat → Bool) (s : State),
    let h := s.cur
    let C := s.ctx h
    maskRow C i = some (d, px, f) → C.vq = [] → s.move.delayIssue = false → d ≠ 0 →
    ∃ (t : State) (c : Ctx), exec i s = .next t ∧ s.doneTraced t h ((c.retired C C.fexc).advance (pxLen px)) ∧
      (∀ p, p < 32768 → (c.getM d.toNat).getLsbD p =
        if p < min (C.rows * C.vl) 32768 then f p else (C.getM d.toNat).getLsbD p) ∧
      (∀ n, n ≠ d.toNat → c.getM n = C.getM n) ∧ { c with masks := C.masks } = C

/-- R144, R145: VQPOP takes ⌈VLe/n⌉ entries for each row from a queue that holds them, n elements of width w from each, and VQPUSH
appends as many to a queue with room. -/
def Obligations.VectorQueueTransfers : Prop :=
  ∀ (r q : BitVec 7) (px : Option Pfx) (s : State),
    let h := s.cur
    let C := s.ctx h
    let w := tyW (elTy 7 px)
    let n := 64 / w
    let vle := s.vleOf h w
    let k := (vle + n - 1) / n
    let ents := (C.queue q.toNat).ents
    C.vq = [] → s.move.delayIssue = false → r.toNat % C.rows = 0 → s.linkFrom h q.toNat = none →
    (C.rows * k ≤ ents.length → ∃ (t : State) (c : Ctx), exec (.vqpop r q px) s = .next t ∧
      s.doneTraced t h ((((List.range (C.rows * k)).foldl (fun c _ => c.pop q.toNat) c).retired C C.fexc).advance (pxLen px)) ∧
      c = (List.range (C.rows * vle)).foldl (fun c p =>
        if C.mbit (pfxOf px).m.toNat p then c.setVel (physV C r.toNat + p / vle) w (p % vle)
          ((ents.getD (p / vle * k + p % vle / n) 0).toNat / 2 ^ (w * (p % vle % n)) % 2 ^ w)
        else if (pfxOf px).pol = 1 then c.setVel (physV C r.toNat + p / vle) w (p % vle) 0 else c) C) ∧
    (ents.length + C.rows * k ≤ 64 → s.streamDst h q.toNat = false → ∃ t, exec (.vqpush q r px) s = .next t ∧
      s.doneTraced t h ((((List.range (C.rows * k)).foldl (fun c x => c.push q.toNat
        (BitVec.ofNat 64 (((List.range (min n (vle - x % k * n))).map (fun j =>
          elAt C C r w (x / k) (x % k * n + j) * 2 ^ (w * j))).sum))) C).retired C C.fexc).advance (pxLen px)))

/-- R126: SETVL and SETVLI set VL to the lesser of the request and MAXVL, ROWS to the power of two at or below the request, and
write VL to rd. -/
def Obligations.VectorLengthResult : Prop :=
  ∀ (d a b : BitVec 7) (k : BitVec 2) (code : BitVec 4) (px : Option Pfx) (s : State),
    let h := s.cur
    let C := s.ctx h
    let vl := min (C.getS a.toNat).toNat (s.maxvl (coreOf h) * 8 / tyW (tyOf code))
    let req := (C.getS b.toNat).toNat
    (∃ t rows, exec (.setvl d a b code px) s = .next t ∧
      s.doneWith t h (({ C with vl := vl, rows := rows }.setS d.toNat (BitVec.ofNat 64 vl)).advance (pxLen px)) ∧
      rows ∈ [1, 2, 4, 8] ∧ rows ≤ max 1 req ∧ min req 8 < 2 * rows) ∧
    (∃ t, exec (.setvli d a k code px) s = .next t ∧
      s.doneWith t h (({ C with vl := vl, rows := 2 ^ k.toNat }.setS d.toNat (BitVec.ofNat 64 vl)).advance (pxLen px)))


/-- R123, R147, R194 to R196, R199: a vector load, store or atomic whose active elements lie in local windows granted to the task's
launch reads and writes exactly the bits of its elements, in ascending index; a store replaces the bits of the element and no other bit of
memory, and every element's address comes from the base and the register contents at its turn. -/
def Obligations.VectorWindowAccess : Prop :=
  ∀ (i : Instr) (R : MemRow) (s : State) (x : Ctx × List Host.Cell), memRow i = some R →
    let h := s.cur
    let C := s.ctx h
    let vle := s.vleOf h R.gw
    (∀ v ∈ R.swept, v.toNat % C.rows = 0) → R.ok C vle = true → C.vq = [] → s.move.delayIssue = false →
    C.gates = [] → s.liveIlocks h = [] → s.dbgOf h = false → (∀ k, R.kind ≠ .guarded k) →
    (List.range (C.rows * vle)).foldlM (R.winStep s C h vle) (C, s.mem) = some x →
    ∃ t, exec i s = .next t ∧ (t.hart h).wait = none ∧
      { t.ctx h with ilocks := C.ilocks, elecSeen := C.elecSeen } =
        { (x.1.retired C C.fexc).advance (pxLen R.px) with ilocks := C.ilocks, elecSeen := C.elecSeen } ∧
      t.mem = x.2 ∧ s.othersSame t h ∧ { s with mem := t.mem }.restSame t

/-- R123, R171, R194 to R199: a vector memory instruction with nothing queued and no interlock in its way, in a task that is not
traced, performs the accesses of its active elements in ascending index, and, when none of them stops, completes.
R198, R205: VLDW of a slot that no WMBIND has bound freezes the hart with event code 0x26 before any element. -/
def Obligations.VectorMemoryAccesses : Prop :=
  (∀ (i : Instr) (R : MemRow) (s : State), memRow i = some R →
     let h := s.cur
     let C := s.ctx h
     let vle := s.vleOf h R.gw
     (∀ v ∈ R.swept, v.toNat % C.rows = 0) → R.ok C vle = true → C.vq = [] → s.move.delayIssue = false →
     C.gates = [] → s.liveIlocks h = [] → s.dbgOf h = false → (∀ k, R.kind = .guarded k → (sfind C.wmarks k).isSome) →
     ∃ (e : Entry) (il : List Ilock), e.id = C.nextId ∧
       ∀ s1, ((List.range (C.rows * vle)).forM (R.access C h vle)).run
           (s.modHart h (fun x => { x with
             wait := none, ctx := { x.ctx.advance (pxLen R.px) with vq := [e], nextId := C.nextId + 1, ilocks := il } })) = .ok () s1 →
         ∃ t, exec i s = .next t ∧
           t.hart h = { s1.hart h with ctx := { s1.ctx h with
             vq := (s1.ctx h).vq.filter (fun x => decide (x.id ≠ e.id)),
             ilocks := (s1.ctx h).ilocks.filter (fun l => l.owner != .entry e.id) } } ∧
           s1.othersSame t h ∧ (s1.traced h = false → s1.restSame t)) ∧
  (∀ (d a : BitVec 7) (k : BitVec 2) (px : Option Pfx) (s : State),
     let h := s.cur
     let C := s.ctx h
     d.toNat % C.rows = 0 → C.vq = [] → s.move.delayIssue = false → C.gates = [] → s.liveIlocks h = [] → s.dbgOf h = false →
     sfind C.wmarks k.toNat = none →
     ∃ t, exec (.vldw d a k px) s = .next t ∧ (t.hart h).run = .frozen 0x26 ∧ (t.ctx h).vregs = C.vregs)


/-- R201, R200, R167: AMO and AMOCAS at an aligned address that translates, with the accesses before a release performed, read the word
of memory, write its new value with nothing in between, and write the old value, zero-extended, to rd; no other settled byte of memory
changes. R186: with an acquire part, a read that is still queued leaves the order that later accesses wait for it; that the atomic itself
completes before that read is the model's reading (log entry 33). A misaligned address traps with cause 2, also at or above 2^56: that is
the model's choice (log entry 58). -/
def Obligations.AtomicResult : Prop :=
  ∀ (i : Instr) (d : BitVec 7) (op n order sc : Nat) (va b c : Word) (s : State),
    atomicOf s i = some (d, op, n, order, sc, va, b, c) →
    let h := s.cur
    (∀ (s1 : State) (p : Piece), va.toNat % n = 0 → (2 ≤ order → s.fenceAll h (order - 1) = true) →
      s.calm → (spiece h va.toNat n .atomic).run s = .ok p s1 → (s1.move.delayMiss = false ∨ p.window = true) → s.dbgOf h = false →
      ∃ t, exec i s = .next t ∧
        let old := ofLe (rdBytes s1.mem p.loc n)
        { t.ctx h with gates := (s.ctx h).gates } = ((s.ctx h).setS d.toNat (BitVec.ofNat 64 old)).advance 4 ∧
        (order = 0 ∨ order = 2 → (t.ctx h).gates = (s.ctx h).gates) ∧
        (order = 1 ∨ 3 ≤ order → (∃ e ∈ (s.ctx h).vq, queueReads e ∧ e.id < (s.ctx h).nextId) →
          acquireLeft (s.ctx h) ∈ (t.ctx h).gates) ∧
        (t.hart h).wait = none ∧ s.othersSame t h ∧
        (∀ k, k < n → rdByte t.mem (p.loc + k) = BitVec.ofNat 8 (atomicNew op n old b c / 2 ^ (8 * k))) ∧
        (∀ x, (x < p.loc ∨ p.loc + n ≤ x) → s1.settled x → rdByte t.mem x = rdByte s1.mem x)) ∧
    (va.toNat % n ≠ 0 → exec i s = .next (s.takeTrap h 2 va false)) ∧
    (va.toNat % n = 0 → va.toNat < 2 ^ 56 → 2 ≤ order → s.fenceAll h (order - 1) = false →
      ∃ t, exec i s = .next t ∧ t.hart h = { s.hart h with wait := some .maint } ∧ s.othersSame t h ∧ s.restSame t)

/-- R182, R184, R191, R202, R224: a fence at the scalar unit completes once no access that it orders is outstanding: a load in
flight or, for a release, a store in flight, of the scalar agent; a queued instruction that reads or, for a release, writes, or an engine
command, of the vector agent; for a release, an Electrum write that an awake copy of the tower has yet to apply. Until then it waits.
As the move chooses, its release part is left as an order instead (log entry 33), once a fence of the vector agent has no Electrum write
to wait for: the fence completes, and a later store of a target agent waits until what it orders has been performed. A fence vector→vector takes its place in the vector queue and completes there by the
same rule. Neither changes a register or a byte of memory. With nothing queued, nothing in flight, no engine command and no slot write
to apply, every fence completes. -/
def Obligations.FenceResult : Prop :=
  (∀ (i : Instr) (h sc o dir : Nat) (s : State), fenceOf s i = some (h, sc, o, dir) → s.dbgOf h = false →
    let c := s.ctx h
    let left : Prop := s.move.delayMiss = true ∧ (o = 1 ∨ o = 2) ∧
      (dir = 0 ∨ (∀ e ∈ c.vq, e.word.toNat % 2 ^ 7 ≠ 0x6F) ∧ ¬ s.elecBehind h)
    let held : Prop := left ∧ o = 2 ∧ s.outstanding h 0 dir c.vq ∨ ¬ left ∧ s.outstanding h o dir c.vq
    (¬ held → ∃ t gs, exec i s = .next t ∧ s.doneWith t h ({ c with gates := gs }.advance 4) ∧
      (∀ g ∈ gs, g ∈ c.gates ∨ left ∧ g = releaseLeft c dir) ∧
      (left → (∀ e ∈ c.vq, e.id < c.nextId) → s.outstanding h 1 dir c.vq → releaseLeft c dir ∈ gs)) ∧
    (held → ∃ t, exec i s = .next t ∧
      t.hart h = { s.hart h with wait := some (.fence sc o dir) } ∧ s.othersSame t h ∧ s.restSame t)) ∧
  (∀ (i : Instr) (r a : BitVec 7) (x : BitVec 11) (n : Nat) (s s1 : State) (p : Piece) (ps : List Piece) (c : Ctx) (dir : Nat),
    storeOf i = some (r, a, x, n) →
    let h := s.cur
    let va := (BitVec.ofInt 64 (((s.ctx h).getS a.toNat).toNat + x.toInt)).toNat
    va % n = 0 → (resolve h (coreOf h) va n .write .scalar).run s = .ok (p :: ps) s1 →
    releaseLeft c dir ∈ (s1.ctx h).gates → dir = 1 ∨ dir = 3 → c.nextId ≤ (s1.ctx h).nextId →
    s1.outstanding h 1 dir ((s1.ctx h).vq.filter (fun e => decide (e.id < c.nextId))) → exec i s = .next (s1.waitOn h .access)) ∧
  (∀ (sc : BitVec 3) (o : BitVec 2) (s : State),
    let h := s.cur
    s.dbgOf h = false → (s.ctx h).vq = [] → s.move.delayIssue = false →
    (¬ s.outstanding h o.toNat 2 [] → ∃ t, exec (.fence sc o 2) s = .next t ∧
      s.doneWith t h (((s.ctx h).retired (s.ctx h) (s.ctx h).fexc).advance 4)) ∧
    (s.outstanding h o.toNat 2 [] → ∃ t, exec (.fence sc o 2) s = .next t ∧ (t.ctx h).vq.length = 1 ∧
      { t.ctx h with vq := [] } = { s.ctx h with nextId := (s.ctx h).nextId + 1 }.advance 4)) ∧
  (∀ (sc : BitVec 3) (o dir : BitVec 2) (s : State),
    let h := s.cur
    s.dbgOf h = false → (s.ctx h).vq = [] → s.move.delayIssue = false → (s.hart h).load = none → (s.hart h).pend = [] →
    ¬ s.engineBusy h → ¬ s.elecBehind h →
    ∃ t, exec (.fence sc o dir) s = .next t ∧ (t.hart h).wait = none ∧ (t.ctx h).vq = [] ∧
      (t.ctx h).pc = ((s.ctx h).advance 4).pc ∧ (t.ctx h).regs = ((s.ctx h).advance 4).regs ∧ s.othersSame t h ∧ s.restSame t)

/-- R203, R9, R294: a barrier at a scope up to the launch's level, whose tie has completed and whose earlier accesses have been performed, is
counted; it departs once every member of the group has arrived, and then its generation of the scope is complete, and each other
member that waits at it, on its hart or saved, will depart, whichever members end before. Until then the hart waits at it. At a scope of
one hart it departs at once. A scope wider than the launch's level, domain scope and system scope freeze the hart with event code 0x26,
and else an operand above 8 with 0x25, at the BAR and with no register changed; that a BAR with both violations takes the first is the
model's choice (log entry 71). -/
def Obligations.BarrierResult : Prop :=
  (∀ (i : Instr) (h sc : Nat) (tie : Word) (s : State), barOf s i = some (h, sc, tie) →
    let stops (code : Nat) : Prop := ∃ t, exec i s = .next t ∧ (t.hart h).run = .frozen code ∧ (t.ctx h).pc = (s.ctx h).pc ∧
      (t.ctx h).regs = (s.ctx h).regs ∧ (t.ctx h).barGen = (s.ctx h).barGen
    (((s.launchOf h).map (·.par.level)).getD 0 < sc ∨ 5 ≤ sc → stops 0x26) ∧
    (sc ≤ ((s.launchOf h).map (·.par.level)).getD 0 → sc < 5 → 8 < tie.toNat → stops 0x25)) ∧
  (∀ (i : Instr) (h sc : Nat) (tie : Word) (b : BarWait) (s : State), barOf s i = some (h, sc, tie) → s.dbgOf h = false →
    sc ≤ ((s.launchOf h).map (·.par.level)).getD 0 → sc < 5 → tie.toNat ≤ 8 →
    b.scope = sc → b.gen = sget (s.ctx h).barGen 0 sc + 1 → b.counted = true →
    ((s.ctx h).bar = some b ∨
     (s.ctx h).bar = none ∧ b.tie = (if tie = 0 then none else some (tie.toNat - 1)) ∧ s.fenceAll h 1 = true ∧
       s.tieDone h b.tie = true ∧ b.complete = false) →
    let s1 := s.modCtx h (fun c => { c with bar := some b })
    let gone : Ctx := { s.ctx h with bar := none, barGen := sset (s.ctx h).barGen 0 sc b.gen }.advance 4
    let here (x : BarWait) : Prop := x.scope = sc ∧ x.gen = b.gen
    (sc = 0 ∨ b.complete = true → ∃ t, exec i s = .next t ∧ s.doneWith t h gone) ∧
    (sc ≠ 0 → b.complete = false → s1.allArrived h sc b.gen = true → ∃ t, exec i s = .next t ∧
      t.hart h = { s.hart h with wait := none, ctx := gone } ∧
      (∀ k, k ≠ h → { t.hart k with ctx := { t.ctx k with bar := (s.ctx k).bar } } = s.hart k ∧
        ((t.ctx k).bar = (s.ctx k).bar ∨
          ∃ x, (s.ctx k).bar = some x ∧ here x ∧ (t.ctx k).bar = some { x with complete := true })) ∧
      (∀ T y x, some T ∈ s.barTasks h sc → sfind s.sched.tasks T = some y → here x →
        ((s.hart y.hart).task = some T → y.hart ≠ h → (s.ctx y.hart).bar = some x →
          (t.ctx y.hart).bar = some { x with complete := true }) ∧
        (∀ v, (s.hart y.hart).task ≠ some T → y.saved = some v → v.ctx.bar = some x →
          sfind t.sched.tasks T =
            some { y with saved := some { v with ctx := { v.ctx with bar := some { x with complete := true } } } })) ∧
      t = { s with harts := t.harts, sched := { s.sched with tasks := t.sched.tasks }, dbg := { s.dbg with ctrs := t.dbg.ctrs } }) ∧
    (sc ≠ 0 → b.complete = false → s1.allArrived h sc b.gen = false → ∃ t, exec i s = .next t ∧
      t.hart h = { s.hart h with wait := some (.bar sc tie), ctx := { s.ctx h with bar := some b } } ∧
      s.othersSame t h ∧ s.restSame t))

/-- R204, R205, R186, R188: WAITGE whose word has reached the threshold completes as an acquire, which leaves the order that later
accesses wait for reads still queued (that it completes before them is the model's reading, log entry 33), and changes no register; below
it the hart waits. WMPUB
raises its word to the operand where that is larger, after its release; WMBIND binds the slot. -/
def Obligations.ProgressWords : Prop :=
  (∀ (i : Instr) (h sc : Nat) (a v : Word) (s s1 : State) (p : Piece), waitgeOf s i = some (h, sc, a, v) → s.dbgOf h = false →
    a.toNat % 8 = 0 → s.calm → (spiece h a.toNat 8 .read).run s = .ok p s1 → p.device = false →
    ∃ t gs n, exec i s = .next t ∧ s.othersSame t h ∧ (∀ x, s1.settled x → rdByte t.mem x = rdByte s1.mem x) ∧
      (∀ g ∈ gs, g ∈ (s.ctx h).gates ∨ g = acquireLeft (s.ctx h)) ∧
      (v.toNat ≤ ofLe (rdBytes t.mem p.loc 8) →
        t.ctx h = { s.ctx h with gates := gs, elecSeen := n }.advance 4 ∧ (t.hart h).wait = none ∧
        ((∃ e ∈ (s.ctx h).vq, queueReads e ∧ e.id < (s.ctx h).nextId) → acquireLeft (s.ctx h) ∈ gs)) ∧
      (ofLe (rdBytes t.mem p.loc 8) < v.toNat →
        t.hart h = { s.hart h with wait := some (.waitge sc a v), ctx := { s.ctx h with elecSeen := n } })) ∧
  (∀ (sc : BitVec 3) (a b : BitVec 7) (s s1 : State) (p : Piece),
    let h := s.cur
    let va := s.getS64 h a.toNat
    va.toNat % 8 = 0 → s.fenceAll h 1 = true → s.calm → (spiece h va.toNat 8 .atomic).run s = .ok p s1 → s.dbgOf h = false →
    ∃ t, exec (.wmpub sc a b) s = .next t ∧ t.ctx h = (s.ctx h).advance 4 ∧ s.othersSame t h ∧
      ofLe (rdBytes t.mem p.loc 8) = max (ofLe (rdBytes s1.mem p.loc 8)) (s.getS64 h b.toNat).toNat ∧
      (∀ x, (x < p.loc ∨ p.loc + 8 ≤ x) → s1.settled x → rdByte t.mem x = rdByte s1.mem x)) ∧
  (∀ (k : BitVec 2) (sc : BitVec 3) (a b : BitVec 7) (s : State),
    let h := s.cur
    let va := s.getS64 h a.toNat
    va.toNat % 8 = 0 → va.toNat < 2 ^ 56 → ∃ t c, exec (.wmbind k sc a b) s = .next t ∧ s.doneWith t h (Ctx.advance c 4) ∧
      sfind c.wmarks k.toNat = some { addr := va.toNat, base := (s.getS64 h b.toNat).toNat, scope := sc.toNat } ∧
      (∀ j, j ≠ k.toNat → sfind c.wmarks j = sfind (s.ctx h).wmarks j) ∧ { c with wmarks := (s.ctx h).wmarks } = s.ctx h)

/-- R212, R217: CWAIT, CWP and IWAIT write STATE in bits 63 to 60 and COUNT, modulo 2^48, in bits 47 to 0 to rd once the command is dispatched and, for CWAIT and
IWAIT, far enough; until then the hart waits; that an IWAIT waits for a queued ISTR, too, is the model's reading (log entry 49). R208:
a channel that is not granted is a violation, and that CWAIT and CWP of one freeze the hart with event code 0x24 is the model's choice
(log entry 49). -/
def Obligations.EngineStatus : Prop :=
  (∀ (i : Instr) (h d : Nat) (x : CmdStat) (waits : Bool) (s : State), statusOf s i = some (h, d, x, waits) →
    (waits = false → ∃ t, exec i s = .next t ∧
      s.doneWith t h (((s.ctx h).setS d (BitVec.ofNat 64 (x.state * 2 ^ 60 + x.count % 2 ^ 48))).advance 4)) ∧
    (waits = true → ∃ t w, exec i s = .next t ∧ t.hart h = { s.hart h with wait := some w } ∧ s.othersSame t h ∧ s.restSame t)) ∧
  (∀ (d b : BitVec 7) (ch : BitVec 3) (s : State), (s.launchOf s.cur).any (fun l => l.par.chan.testBit ch.toNat) = false →
    (∃ t, exec (.cwait d ch b) s = .next t ∧ (t.hart s.cur).run = .frozen 0x24) ∧
    (∃ t, exec (.cwp d ch) s = .next t ∧ (t.hart s.cur).run = .frozen 0x24))

/-- R228, R229, R147: ESEQ writes the replica's sequence number to rd. EWAIT completes when the sequence number, or the word of the
replica at its address, has reached the threshold, as an acquire (R186) that has observed the slot writes up to it (R191), and the hart
waits until then. That its acquire part is left as an order where reads are still queued is the model's reading (log entry 33). -/
def Obligations.ElectrumWaits : Prop :=
  (∀ (d : BitVec 7) (s : State), ∃ t, exec (.eseq d) s = .next t ∧
    s.doneWith t s.cur (((s.ctx s.cur).setS d.toNat (BitVec.ofNat 64 (s.eseq s.cur))).advance 4)) ∧
  (∀ (i : Instr) (h m : Nat) (a v : Word) (s : State), ewaitOf s i = some (h, m, a, v) → s.dbgOf h = false →
    let go (ok : Bool) : Prop :=
      (ok = true → ∃ t gs n, exec i s = .next t ∧ s.doneWith t h ({ s.ctx h with gates := gs, elecSeen := n }.advance 4) ∧
        (s.ctx h).elecSeen ≤ n ∧ (m = 0 → v.toNat ≤ n) ∧ (∀ g ∈ gs, g ∈ (s.ctx h).gates ∨ g = acquireLeft (s.ctx h)) ∧
        ((∃ e ∈ (s.ctx h).vq, queueReads e ∧ e.id < (s.ctx h).nextId) → acquireLeft (s.ctx h) ∈ gs)) ∧
      (ok = false → ∃ t n, exec i s = .next t ∧
        t.hart h = { s.hart h with wait := some (.ewait m a v), ctx := { s.ctx h with elecSeen := n } } ∧ s.othersSame t h ∧
        s.restSame t)
    (m = 0 → go (decide (v.toNat ≤ s.eseq h))) ∧
    (∀ loc, m = 1 → a.toNat % 8 = 0 → s.winLoc h a.toNat 8 .read = some loc → elecBase ≤ a.toNat → a.toNat + 8 ≤ elecBase + elecSize →
      s.pendOn h loc = false → s.scalarBlocked h .read = false → go (decide (v.toNat ≤ ofLe (rdBytes s.mem loc 8)))) ∧
    (∀ loc, m = 2 → a.toNat % 4 = 0 → s.winLoc h a.toNat 4 .read = some loc → elecBase ≤ a.toNat → a.toNat + 4 ≤ elecBase + elecSize →
      s.pendOn h loc = false → s.scalarBlocked h .read = false → go (decide ((BitVec.ofNat 32 v.toNat).toInt ≤ (BitVec.ofNat 32 (ofLe (rdBytes s.mem loc 4))).toInt))))

/-- R108, R109, R304: YIELD with no ready task of equal or higher priority for its slot (which tasks these are is the model's reading, log
entry 35) goes on with the next instruction; with one, no load in flight and the shadow bank free, the task is saved ready, with its
program counter after the YIELD, and its slot is idle. EXIT with its queue
empty closes the task's open streams and ends the links of its queue registers; with its engine commands complete and its accesses
performed it then ends the task; else the hart waits: with entries in its queue, with a stream that a fault holds, which stays open, with
an engine command running, with an access or an Electrum write not performed. -/
def Obligations.TaskEnd : Prop :=
  (∀ s : State, s.yieldsTo s.cur = false → ∃ t, exec .yield s = .next t ∧ s.doneWith t s.cur ((s.ctx s.cur).advance 4)) ∧
  (∀ (s : State) (k : Nat) (x : Task), s.yieldsTo s.cur = true → (s.core (coreOf s.cur)).bank = .empty →
    (s.hart s.cur).task = some k → sfind s.sched.tasks k = some x → s.traced s.cur = false → (s.hart s.cur).load = none →
    ∃ t, exec .yield s = .next t ∧ (t.hart s.cur).run = .idle ∧ (t.hart s.cur).task = none ∧
      (t.core (coreOf s.cur)).bank = .outgoing k ∧
      ∃ y v, sfind t.sched.tasks k = some y ∧ y.saved = some v ∧ v.ready = true ∧ v.code = 0x10 ∧ v.cls = 1 ∧
        { v.ctx with vq := [] } = { (s.ctx s.cur).advance 4 with vq := [] } ∧ v.ctx.vq.length = (s.ctx s.cur).vq.length) ∧
  (∀ (i : Instr) (h : Nat) (s : State), exitOf s i = some h →
    let own (e : Nat × Stream) : Prop := s.owns h e.2.owner = true
    let streams := (s.core (coreOf h)).streams
    let busy := s.commandOut h ∨ (s.hart h).load ≠ none ∨ (s.hart h).pend ≠ [] ∨ s.elecBehind h
    (∀ (k : Nat) (x : Task) (l : Launch), (s.ctx h).vq = [] → ¬ busy → s.traced h = false → keysUp streams = true →
      ((s.ctx h).exiting = 0 ∧ (∀ e ∈ streams, own e → e.2.hold = .run ∨ e.2.hold = .frozen) ∨
       (s.ctx h).exiting ≠ 0 ∧ ∀ e ∈ streams, own e → e.2.hold = .frozen) →
      (s.hart h).task = some k → sfind s.sched.tasks k = some x → x.hart = h → sfind s.sched.launches x.launch = some l →
      ∃ t, exec i s = .next t ∧ (t.hart h).run = .idle ∧ (t.hart h).task = none ∧
        (∀ e ∈ (t.core (coreOf h)).streams, own e → e.2.hold = .frozen) ∧ (∀ y ∈ t.links, y.ct ≠ k ∧ y.pt ≠ k) ∧
        sfind t.sched.tasks k = none ∧ (sfind t.sched.launches x.launch).map (·.ended) = some (l.ended + 1)) ∧
    ((s.ctx h).vq ≠ [] → ∃ t, exec i s = .next t ∧ t.hart h = { s.hart h with wait := some .exit } ∧ s.othersSame t h ∧ s.restSame t) ∧
    ((s.ctx h).vq = [] → (s.ctx h).exiting = 0 → s.traced h = false → keysUp streams = true →
      let waits (t : State) : Prop := exec i s = .next t ∧ (t.hart h).wait = some .exit ∧ (t.hart h).task = (s.hart h).task ∧
        (t.hart h).run = (s.hart h).run ∧ (t.ctx h).regs = (s.ctx h).regs ∧ (t.ctx h).pc = (s.ctx h).pc ∧ t.mem = s.mem ∧
        s.othersSame t h ∧ (∀ e ∈ (t.core (coreOf h)).streams, own e → e.2.hold ≠ .run)
      ((∃ e ∈ streams, own e ∧ ∃ n, e.2.hold = .fault n) → ∃ t, waits t ∧ (t.ctx h).exiting = 0 ∧ t.links = s.links ∧
        ∀ e ∈ streams, own e → (∃ n, e.2.hold = .fault n) → e ∈ (t.core (coreOf h)).streams) ∧
      ((∀ e ∈ streams, own e → e.2.hold = .run ∨ e.2.hold = .frozen) → busy → ∃ t, waits t ∧ (t.ctx h).exiting = 1 ∧
        ∀ y, y ∈ t.links ↔ y ∈ s.links ∧ some y.ct ≠ (s.hart h).task ∧ some y.pt ≠ (s.hart h).task)) ∧
    ((s.ctx h).vq = [] → (s.ctx h).exiting ≠ 0 → busy → ∃ t, exec i s = .next t ∧ t.hart h = { s.hart h with wait := some .exit } ∧
      s.othersSame t h ∧ s.restSame t))

/-- R206, R298 to R300, R307, R308: LAUNCH of an aligned, valid block by a task of a launch, with the earlier accesses performed and fewer than
4096 device launches in flight, creates a launch with the block's fields, the lesser of its priority and the launching one's, its
address space, and a sequence number that is not 0, and writes its handle to rd; with 4096 in flight it writes 0. -/
def Obligations.LaunchResult : Prop :=
  ∀ (d a : BitVec 7) (s s1 : State) (w : List Word) (me : Launch),
    let h := s.cur
    let va := s.getS64 h a.toNat
    va.toNat % 64 = 0 → s.fenceAll h 1 = true → (blockRead h va).run s = .ok w s1 → blockBad w = false → s1.launchOf h = some me →
    me.par.dbg = false →
    let n := (s1.sched.launches.filter (fun e => e.2.src == .device)).length
    (n < 4096 → ∃ t seq l, exec (.launch d a) s = .next t ∧ seq ≠ 0 ∧
      (s1.sched.seq < 2 ^ 32 - 1 → seq = s1.sched.seq + 1) ∧ t.sched.seq = seq ∧
      { t.ctx h with elecSeen := (s.ctx h).elecSeen } =
        ((s.ctx h).setS d.toNat (BitVec.ofNat 64 (2 ^ 48 + s.logical (coreOf h) * 2 ^ 32 + seq))).advance 4 ∧
      sfind t.sched.launches seq = some l ∧ l.par = parseBlock w ∧ l.prio = min (parseBlock w).prio me.prio ∧ l.root = me.root ∧
      l.tlbm = me.tlbm ∧ l.next = 0 ∧ l.started = 0 ∧ l.ended = 0 ∧
      (∀ k, k ≠ seq → sfind t.sched.launches k = sfind s1.sched.launches k) ∧ t.mem = s1.mem) ∧
    (4096 ≤ n → ∃ t, exec (.launch d a) s = .next t ∧
      { t.ctx h with elecSeen := (s.ctx h).elecSeen } = ((s.ctx h).setS d.toNat 0).advance 4 ∧ t.sched = s1.sched)

/-- R255 to R264, R268 to R271: FSORT, FISECT, FUNION, FMERGE, FCOMPACT, FSLICE and FMAP, started from zero progress words on sources that
can be read whole, with room for the result, write the result's pairs to the destination, consume queue sources with their
terminators, clear the progress words and the OVF and ORD flags, and raise the values' flags; nothing else changes. Which of them can
raise a flag, and so replace FEXCA and FEXCB, is the model's reading (log entry 18).
R269: FISECTC adds to rd the number of coordinates that its two sources share.
R258 to R260: each of the seven that finds its destination full stops with OVF, the results before in it, its sources consumed up to the
next result and its progress words there; FISECT, FUNION, FMERGE, FSLICE and FISECTC that meet a pair out of order stop with ORD, the
results of the pairs before it written, and their progress words at it; a FCOMPACT resumed from its words writes the pairs that
follow. -/
def Obligations.FibreResults : Prop :=
  ((∀ (i : Instr) (R : FibreRow) (s : State) (l : List (List (Nat × Nat))),
      let h := s.cur
      let C := s.ctx h
      let out := R.out l
      let fls := out.zipIdx.map (fun x => (x.1.2.2, x.2))
      fibreRow C i = some R → C.vq = [] → s.move.delayIssue = false → C.fprogA = 0 → C.fprogB = 0 →
      R.d.toNat ∉ R.srcs → s.readable h R.srcs R.queues R.asc l → out.length ≤ (C.fibre R.d.toNat).cap →
      C.nest = none → s.quietFor h →
      ∃ t, exec i s = .next t ∧ (t.ctx h).fibreDone C R.srcs (pxLen R.px) ∧
        (∀ f, (t.ctx h).fibre f =
          if f = R.d.toNat then { C.fibre f with pairs := out.map (fun x => (x.1, x.2.1)) } else C.fibre f) ∧
        (t.ctx h).regs = C.regs ∧ (t.ctx h).fflags = (C.raiseAll fls).fflags ∧
        (t.ctx h).fexc = (if R.flags then leastOf fls else C.fexc) ∧
        (t.hart h).wait = none ∧ s.othersSame t h ∧ (s.traced h = false → s.restSame t)) ∧
   (∀ (d a b : BitVec 7) (px : Option Pfx) (s : State) (x y : List (Nat × Nat)),
      let h := s.cur
      let C := s.ctx h
      C.vq = [] → s.move.delayIssue = false → C.fprogA = 0 → C.fprogB = 0 → C.nest = none → s.quietFor h →
      s.readable h [a.toNat, b.toNat] true true [x, y] →
      ∃ t, exec (.fisectc d a b px) s = .next t ∧ (t.ctx h).fibreDone C [a.toNat, b.toNat] (pxLen px) ∧
        (∀ p, (t.ctx h).getP p = if p = physS C d.toNat ∧ p ≠ 0
          then C.getP p + BitVec.ofNat 64 (x.filter (fun u => y.any (fun v => decide (v.1 = u.1)))).length else C.getP p) ∧
        (∀ f, (t.ctx h).fibre f = C.fibre f) ∧ (t.ctx h).fflags = C.fflags ∧ (t.ctx h).fexc = C.fexc ∧
        (t.hart h).wait = none ∧ s.othersSame t h ∧ (s.traced h = false → s.restSame t))) ∧
  (∀ (d a : BitVec 7) (px : Option Pfx) (s : State) (ps qs : List (Nat × Nat)),
     let h := s.cur
     let C := s.ctx h
     let keep (l : List (Nat × Nat)) := l.filter (fun p => !zeroVal (elTy 10 px) p.2)
     C.vq = [] → s.move.delayIssue = false → a.toNat < 16 → a ≠ d → (C.fibre a.toNat).pairs = ps ++ qs → ps.length + qs.length < 65536 →
     C.fprogA = BitVec.ofNat 64 ps.length →
     ((keep qs).length ≤ (C.fibre d.toNat).cap → ∃ t, exec (.fcompact d a px) s = .next t ∧
       ((t.ctx h).fibre d.toNat).pairs = keep qs ∧ (t.ctx h).ovf = false ∧ (t.ctx h).fprogA = 0) ∧
     ((C.fibre d.toNat).cap < (keep qs).length → ∃ t us vs, exec (.fcompact d a px) s = .next t ∧ qs = us ++ vs ∧
       ((t.ctx h).fibre d.toNat).pairs = keep us ∧ (keep us).length = (C.fibre d.toNat).cap ∧ (t.ctx h).ovf = true ∧
       (t.ctx h).fprogA = BitVec.ofNat 64 (ps.length + us.length))) ∧
  (∀ (i : Instr) (R : FibreRow) (s : State) (l : List (List (Nat × Nat))),
     let h := s.cur
     let C := s.ctx h
     let n := (C.fibre R.d.toNat).cap
     fibreRow C i = some R → C.vq = [] → s.move.delayIssue = false → C.fprogA = 0 → C.fprogB = 0 → R.d.toNat ∉ R.srcs → s.quietFor h →
     s.readable h R.srcs R.queues R.asc l → n < (R.out l).length →
     ∃ t, exec i s = .next t ∧ (t.ctx h).fibreStopped C R ((R.out l).take n) (R.pos l n) (R.words (R.pos l n)) true false ∧
       (t.hart h).wait = none ∧ s.othersSame t h ∧ (s.traced h = false → s.restSame t)) ∧
  ((∀ (i : Instr) (R : FibreRow) (s : State) (l : List (List (Nat × Nat))) (j K : Nat) (u v : List (Nat × Nat)) (p : Nat × Nat),
      let h := s.cur
      let C := s.ctx h
      let m := l.zipIdx.map (fun x => if x.2 = j then u else x.1.filter (fun y => decide (y.1 ≤ K)))
      fibreRow C i = some R → R.asc = true → C.vq = [] → s.move.delayIssue = false → C.fprogA = 0 → C.fprogB = 0 →
      R.d.toNat ∉ R.srcs → s.quietFor h → s.readable h R.srcs R.queues false l →
      brokenAt R.srcs l j K u v p (∃ d a b o px, i = .fisect d a b o px) → (R.out m).length ≤ (C.fibre R.d.toNat).cap →
      ∃ t, exec i s = .next t ∧
        (t.ctx h).fibreStopped C R (R.out m) (m.map List.length) (R.words (m.map List.length)) false true ∧
        (t.hart h).wait = none ∧ s.othersSame t h ∧ (s.traced h = false → s.restSame t)) ∧
   (∀ (d a b : BitVec 7) (px : Option Pfx) (s : State) (x y : List (Nat × Nat)) (j K : Nat) (u v : List (Nat × Nat)) (p : Nat × Nat),
      let h := s.cur
      let C := s.ctx h
      let x' := if j = 0 then u else x.filter (fun z => decide (z.1 ≤ K))
      let y' := if j = 1 then u else y.filter (fun z => decide (z.1 ≤ K))
      C.vq = [] → s.move.delayIssue = false → C.fprogA = 0 → C.fprogB = 0 → C.nest = none → s.quietFor h →
      s.readable h [a.toNat, b.toNat] true false [x, y] → brokenAt [a.toNat, b.toNat] [x, y] j K u v p True →
      ∃ t, exec (.fisectc d a b px) s = .next t ∧ (t.ctx h).ord = true ∧ (t.ctx h).ovf = false ∧
        (t.ctx h).fprogA = BitVec.ofNat 64 x'.length ∧ (t.ctx h).fprogB = BitVec.ofNat 64 y'.length ∧
        (∀ q, (t.ctx h).getP q = if q = physS C d.toNat ∧ q ≠ 0
          then C.getP q + BitVec.ofNat 64 (x'.filter (fun z => y'.any (fun w => decide (w.1 = z.1)))).length else C.getP q) ∧
        (t.ctx h).fibres = C.fibres ∧ (t.ctx h).fflags = C.fflags ∧ (t.ctx h).fexc = C.fexc ∧ (t.ctx h).vq = [] ∧
        (t.hart h).wait = none ∧ s.othersSame t h))

/-- R265, R267: FLD, FST and FWALK on arrays in local windows: the pairs of the arrays, the stores of a fibre's pairs, and the pairs
of one segment of a compressed level. FLD and FWALK stop with OVF at a pair that finds the fibre full, FWALK with ORD at a coordinate not
above the one before it and at a segment that ends before it begins, with FPROGA at that pair (R258, R259). -/
def Obligations.FibreMemory : Prop :=
  ∀ (s : State),
    let h := s.cur
    let C := s.ctx h
    C.vq = [] → s.move.delayIssue = false → C.gates = [] → s.liveIlocks h = [] → s.dbgOf h = false → C.fprogA = 0 →
    (∀ (d a b : BitVec 7) (px : Option Pfx) (cs vs : List Nat),
      let A := C.getS a.toNat
      let B := C.getS (a.toNat + 1)
      let n := (C.getS b.toNat).toNat % 2 ^ 32
      A.toNat % 4 = 0 → B.toNat % 4 = 0 → n ≤ (C.fibre d.toNat).cap → n < 65536 → cs.length = n → vs.length = n →
      (∀ i, i < n → s.winRead h (A + BitVec.ofNat 64 (4 * i)).toNat 4 = some (nth cs i) ∧
        (if B = 0 then nth vs i = 0 else s.winRead h (B + BitVec.ofNat 64 (4 * i)).toNat 4 = some (nth vs i))) →
      ∃ t, exec (.fld d a b px) s = .next t ∧ (t.ctx h).fibre d.toNat = { C.fibre d.toNat with pairs := cs.zip vs } ∧
        (∀ f, f ≠ d.toNat → (t.ctx h).fibre f = C.fibre f) ∧ (t.ctx h).regs = (C.advance (pxLen px)).regs ∧
        (t.ctx h).pc = (C.advance (pxLen px)).pc ∧ (t.ctx h).vq = [] ∧ t.mem = s.mem ∧ s.othersSame t h) ∧
    (∀ (f a : BitVec 7) (px : Option Pfx) (m : List Host.Cell),
      let A := C.getS a.toNat
      let B := C.getS (a.toNat + 1)
      A.toNat % 4 = 0 → B.toNat % 4 = 0 →
      ((C.fibre f.toNat).pairs.zipIdx.foldlM (fun m (x : (Nat × Nat) × Nat) => do
        let p ← s.winLoc h (A + BitVec.ofNat 64 (4 * x.2)).toNat 4 .write
        let m := wrBytes m p (leBytes 4 x.1.1)
        if B = 0 then pure m else
          let q ← s.winLoc h (B + BitVec.ofNat 64 (4 * x.2)).toNat 4 .write
          pure (wrBytes m q (leBytes 4 x.1.2))) s.mem) = some m →
      ∃ t, exec (.fst f a px) s = .next t ∧ t.mem = m ∧ (t.ctx h).vq = [] ∧ (t.ctx h).fibres = C.fibres ∧
        (t.ctx h).regs = (C.advance (pxLen px)).regs ∧ (t.ctx h).pc = (C.advance (pxLen px)).pc ∧ s.othersSame t h) ∧
    (∀ (d a b : BitVec 7) (px : Option Pfx) (d0 d1 d2 d3 lo hi : Nat) (cs vs : List Nat),
      let A := C.getS a.toNat
      let S := C.getS b.toNat
      let n := if d3 = 1 then 8 else 4
      A.toNat % 8 = 0 → s.winRead h A.toNat 8 = some d0 → s.winRead h (A + 8).toNat 8 = some d1 → s.winRead h (A + 16).toNat 8 = some d2 →
      s.winRead h (A + 24).toNat 8 = some d3 → d3 ≤ 1 →
      s.winRead h (BitVec.ofNat 64 (d0 + n * S.toNat)).toNat n = some lo →
      s.winRead h (BitVec.ofNat 64 (d0 + n * (S.toNat + 1))).toNat n = some hi → lo ≤ hi → hi - lo ≤ (C.fibre d.toNat).cap →
      hi - lo < 65536 → cs.length = hi - lo → vs.length = hi - lo → cs.Pairwise (· < ·) →
      (∀ i, i < hi - lo → s.winRead h (BitVec.ofNat 64 (d1 + 4 * (lo + i))).toNat 4 = some (nth cs i) ∧
        (if d2 = 0 then nth vs i = (lo + i) % 2 ^ 32
         else s.winRead h (BitVec.ofNat 64 (d2 + 4 * (lo + i))).toNat 4 = some (nth vs i))) →
      ∃ t, exec (.fwalk d a b px) s = .next t ∧ (t.ctx h).fibre d.toNat = { C.fibre d.toNat with pairs := cs.zip vs } ∧
        (∀ f, f ≠ d.toNat → (t.ctx h).fibre f = C.fibre f) ∧ (t.ctx h).ord = false ∧ (t.ctx h).ovf = false ∧
        (t.ctx h).pc = (C.advance (pxLen px)).pc ∧ t.mem = s.mem ∧ s.othersSame t h) ∧
    (let stopped (t : State) (d : BitVec 7) (ps : List (Nat × Nat)) (px : Option Pfx) (ovf : Bool) : Prop :=
       (t.ctx h).fibre d.toNat = { C.fibre d.toNat with pairs := ps } ∧ (∀ f, f ≠ d.toNat → (t.ctx h).fibre f = C.fibre f) ∧
       (t.ctx h).ovf = ovf ∧ (t.ctx h).ord = !ovf ∧ (t.ctx h).fprogA = BitVec.ofNat 64 ps.length ∧ (t.ctx h).fprogB = 0 ∧
       (t.ctx h).vq = [] ∧ (t.ctx h).pc = (C.advance (pxLen px)).pc ∧ t.mem = s.mem ∧ s.othersSame t h
     (∀ (d a b : BitVec 7) (px : Option Pfx) (cs vs : List Nat),
       let A := C.getS a.toNat
       let B := C.getS (a.toNat + 1)
       let n := (C.fibre d.toNat).cap
       A.toNat % 4 = 0 → B.toNat % 4 = 0 → n < (C.getS b.toNat).toNat % 2 ^ 32 → n < 65536 → cs.length = n → vs.length = n →
       (∀ i, i < n → s.winRead h (A + BitVec.ofNat 64 (4 * i)).toNat 4 = some (nth cs i) ∧
         (if B = 0 then nth vs i = 0 else s.winRead h (B + BitVec.ofNat 64 (4 * i)).toNat 4 = some (nth vs i))) →
       ∃ t, exec (.fld d a b px) s = .next t ∧ stopped t d (cs.zip vs) px true) ∧
     (∀ (d a b : BitVec 7) (px : Option Pfx) (d0 d1 d2 d3 lo hi : Nat) (cs vs : List Nat),
       let A := C.getS a.toNat
       let S := C.getS b.toNat
       let n := if d3 = 1 then 8 else 4
       let m := (C.fibre d.toNat).cap
       let coord (i : Nat) : Prop := s.winRead h (BitVec.ofNat 64 (d1 + 4 * (lo + i))).toNat 4 = some (nth cs i)
       let value (i : Nat) : Prop := if d2 = 0 then nth vs i = (lo + i) % 2 ^ 32
         else s.winRead h (BitVec.ofNat 64 (d2 + 4 * (lo + i))).toNat 4 = some (nth vs i)
       A.toNat % 8 = 0 → s.winRead h A.toNat 8 = some d0 → s.winRead h (A + 8).toNat 8 = some d1 → s.winRead h (A + 16).toNat 8 = some d2 →
       s.winRead h (A + 24).toNat 8 = some d3 → d3 ≤ 1 →
       s.winRead h (BitVec.ofNat 64 (d0 + n * S.toNat)).toNat n = some lo →
       s.winRead h (BitVec.ofNat 64 (d0 + n * (S.toNat + 1))).toNat n = some hi →
       (hi < lo → ∃ t, exec (.fwalk d a b px) s = .next t ∧ stopped t d [] px false) ∧
       (m < hi - lo → m < 65535 → cs.length = m + 1 → vs.length = m + 1 → cs.Pairwise (· < ·) →
         (∀ i, i ≤ m → coord i) → (∀ i, i < m → value i) →
         ∃ t, exec (.fwalk d a b px) s = .next t ∧ stopped t d ((cs.zip vs).take m) px true) ∧
       (∀ j, 0 < j → j < hi - lo → j ≤ m → j < 65535 → cs.length = j + 1 → vs.length = j + 1 → (cs.take j).Pairwise (· < ·) →
         nth cs j ≤ nth cs (j - 1) → (∀ i, i ≤ j → coord i) → (∀ i, i ≤ j → i < m → value i) →
         ∃ t, exec (.fwalk d a b px) s = .next t ∧ stopped t d ((cs.zip vs).take j) px false)))

/-- R272, R273: FEXPAND writes each pair's value at its coordinate less the base, zeroing the other elements under POL, and FGATHER takes
the pairs' values from there; a coordinate outside the sweep sets RNG. FCLR empties a fibre, FCFG sets its capacity when the whole
fits, FLENR reads capacity and length. -/
def Obligations.FibreTransfers : Prop :=
  ∀ (s : State),
    let h := s.cur
    let C := s.ctx h
    let vle := s.vleOf h 32
    let n := C.rows * vle
    C.vq = [] → s.move.delayIssue = false →
    (∀ (d f b : BitVec 7) (px : Option Pfx), d.toNat % C.rows = 0 →
      let base := (C.getS b.toNat).toNat % 2 ^ 32
      let ps := (C.fibre f.toNat).pairs
      let inside := fun p : Nat × Nat => decide (base ≤ p.1) && decide (p.1 < base + n)
      let c1 := (ps.filter inside).foldl (fun c p =>
        c.setVel (physV C d.toNat + (p.1 - base) / vle) 32 ((p.1 - base) % vle) p.2) C
      let c2 := if (pfxOf px).pol = 1 then
          ((List.range n).filter (fun k => ps.all (fun p => decide (p.1 ≠ base + k)))).foldl
            (fun c k => c.setVel (physV C d.toNat + k / vle) 32 (k % vle) 0) c1
        else c1
      ∃ t, exec (.fexpand d f b px) s = .next t ∧
        s.doneTraced t h (({ c2 with rng := C.rng || ps.any (fun p => !inside p) }.retired C C.fexc).advance (pxLen px))) ∧
    (∀ (f v b : BitVec 7) (px : Option Pfx), v.toNat % C.rows = 0 → s.quietFor h →
      let base := (C.getS b.toNat).toNat % 2 ^ 32
      let ps := (C.fibre f.toNat).pairs
      let inside := fun p : Nat × Nat => decide (base ≤ p.1) && decide (p.1 < base + n)
      ∃ t, exec (.fgather f v b px) s = .next t ∧
        (t.ctx h).fibre f.toNat = { C.fibre f.toNat with pairs := ps.map (fun p =>
          (p.1, if inside p then getEl (C.getV (physV C v.toNat + (p.1 - base) / vle)) 32 ((p.1 - base) % vle) else 0)) } ∧
        (∀ g, g ≠ f.toNat → (t.ctx h).fibre g = C.fibre g) ∧ (t.ctx h).rng = (C.rng || ps.any (fun p => !inside p)) ∧
        { t.ctx h with fibres := C.fibres, rng := C.rng } = (C.retired C C.fexc).advance (pxLen px) ∧ s.othersSame t h) ∧
    (∀ (f : BitVec 7) (px : Option Pfx), ∃ t, exec (.fclr f px) s = .next t ∧
        s.doneTraced t h (((C.setFibre f.toNat { C.fibre f.toNat with pairs := [] }).retired C C.fexc).advance (pxLen px))) ∧
    (∀ (f a : BitVec 7) (px : Option Pfx),
      let k := (C.getS a.toNat).toNat
      let rest := (((List.range 16).filter (fun g => decide (g ≠ f.toNat))).map (fun g => (C.fibre g).cap)).sum
      (k % 4 = 0 → k + rest ≤ 16384 → ∃ t, exec (.fcfg f a px) s = .next t ∧
        s.doneTraced t h (((C.setFibre f.toNat { cap := k, pairs := [] }).retired C C.fexc).advance (pxLen px))) ∧
      (k % 4 ≠ 0 ∨ 16384 < k + rest → ∃ t, exec (.fcfg f a px) s = .next t ∧ (t.hart h).run = .frozen 0x25 ∧
        (t.ctx h).fibres = C.fibres)) ∧
    (∀ (d f : BitVec 7) (px : Option Pfx), ∃ t, exec (.flenr d f px) s = .next t ∧
        s.doneTraced t h (((C.setS d.toNat
          (BitVec.ofNat 64 ((C.fibre f.toNat).cap * 2 ^ 32 + (C.fibre f.toNat).pairs.length))).retired C C.fexc).advance (pxLen px)))

/-- R234, R235, R237, R238, R247, R248: a row operation whose counts fit commits: every column of its accumulator row receives the sum of
its elements times the tile's cells, added to the old value or to zero; each cell lies in −2^23 to 2^23 − 1 and its Billon count holds
the rest; every other row and the tiles stay, and so does memory, but for the exception list.
R30 to R32: with XLE = 1 and the list in a granted local window, each element whose NaN the alignment replaces, in ascending order, adds
1 to the list's count and writes its record, or sets XLOVF when the list is full. That it replaces FEXCA and FEXCB with an integer type too is the model's reading
(log entry 18). -/
def Obligations.RowOperationResult : Prop :=
  ∀ (i : Instr) (R : MacRow) (s : State) (x : Tile),
    let h := s.cur
    let c := coreOf h
    let row := s.rowBase h + R.m % 2 ^ 14
    macRow (s.ctx h) (s.vleOf h) i = some R → R.ready s h x → s.traced h = false →
    (∀ j, j < 256 → -32768 ≤ countOf (R.new s h x j) ∧ countOf (R.new s h x j) ≤ 32767) → R.usedAfter s h x ≤ s.quota h →
    ∀ (m : List Host.Cell) (full : Bool),
    s.listedAll (s.ctx h) h (s.ctx h).pc.toNat (R.nans (s.ctx h).xle) = some (m, full) →
    ∃ t, exec i s = .next t ∧ { s with mem := m }.coreOnly t h ∧
      t.hart h = { s.hart h with wait := none, ctx := t.ctx h } ∧
      { t.ctx h with ilocks := [] } = { ((({ (s.ctx h).raiseAll R.fls with xlovf := (s.ctx h).xlovf || full } : Ctx).retired (s.ctx h)
        (leastOf R.fls)).advance (pxLen R.px)) with ilocks := [] } ∧
      ((s.ctx h).xle = false ∨ R.integer = true →
        (t.ctx h).ilocks = (s.ctx h).ilocks.filter (fun l => l.owner != .entry (s.ctx h).nextId)) ∧
      (∀ j, j < 256 → t.accVal c row j = R.new s h x j ∧ -2 ^ 23 ≤ sget (t.core c).cells 0 (row * 256 + j) ∧
        sget (t.core c).cells 0 (row * 256 + j) < 2 ^ 23) ∧
      (∀ k, k / 256 ≠ row → sget (t.core c).cells 0 k = sget (s.core c).cells 0 k ∧
        sget (t.core c).billon 0 k = sget (s.core c).billon 0 k) ∧
      (t.core c).tiles = (s.core c).tiles ∧ (t.core c).failed = (s.core c).failed.filter (fun k => decide (k ≠ h))

/-- R238, R240, R242: a row operation with a count out of range freezes its hart with event code 0x27 and BSTAT cause 3; one without room
freezes it with cause 2 in mode 1, with cause 1 when MCTL.TMO is 0, and else waits in the queue with its partial sums. None of these
changes a cell or a count. A waiting row operation commits its sums, and appends its records under the XLE of its issue (R30 to R32), when it is tried again with
room, once its launch's use of Billon on the core has fallen, and freezes its hart with cause 1 once it has waited MCTL.TMO cycles; before that the timeout event is no change
(log entry 11). -/
def Obligations.RowOperationStops : Prop :=
  (∀ (i : Instr) (R : MacRow) (s : State) (x : Tile),
     let h := s.cur
     let c := coreOf h
     let inRange := ∀ j, j < 256 → -32768 ≤ countOf (R.new s h x j) ∧ countOf (R.new s h x j) ≤ 32767
     macRow (s.ctx h) (s.vleOf h) i = some R → R.ready s h x → s.traced h = false →
     let frozen (cause : Nat) : Prop := ∃ t, exec i s = .next t ∧ (t.hart h).run = .frozen 0x27 ∧ (t.hart h).bcause = cause ∧
       (t.hart h).barow = R.m % 2 ^ 14 ∧ (t.core c).cells = (s.core c).cells ∧ (t.core c).billon = (s.core c).billon
     (¬ inRange → frozen 3) ∧
     (inRange → s.quota h < R.usedAfter s h x → (s.ctx h).mode = 1 → frozen 2) ∧
     (inRange → s.quota h < R.usedAfter s h x → (s.ctx h).mode ≠ 1 → (s.ctx h).tmo = 0 → frozen 1) ∧
     (inRange → s.quota h < R.usedAfter s h x → (s.ctx h).mode ≠ 1 → (s.ctx h).tmo ≠ 0 →
       ∃ (t : State) (e : Entry), exec i s = .next t ∧ (t.ctx h).vq = [e] ∧ e.begun = true ∧ e.stallSince = some s.time ∧
         (∀ y, e.part = some y → ∀ j, j < 256 → y.sums.getD j 0 = R.sum x j) ∧ e.part.isSome ∧
         (t.hart h).run = (s.hart h).run ∧ h ∈ (t.core c).failed ∧
         (t.core c).cells = (s.core c).cells ∧ (t.core c).billon = (s.core c).billon)) ∧
  (∀ (ev i : Instr) (h : Nat) (s : State) (e : Entry) (y : RowSum) (px : Option Pfx),
    let c := coreOf h
    let row := s.rowBase h + e.opA.toNat % 2 ^ 14
    let v := fun j => (if e.opA.toNat.testBit 27 then 0 else s.accVal c row j) + y.sums.getD j 0
    (ev = .rowOperationCommit h ∧ e.stallSince = none ∨
     ev = .billonCommitRetry h ∧ (s.core c).failed = [h] ∧ (s.taskOf h).any (fun k => (s.core c).fell.contains k.launch) = true) →
    ((∃ v a k t, i = .mrow v a k t px) ∨ ∃ f a k t, i = .mrowg f a k t px) → i.wellFormed = true →
    e.word = encBase i → e.pre = px.map pfxWord → e.begun = true → e.pendRec = none → e.part = some y → (e.xle = true → s.dbgOf h = false) →
    s.canMove h = true → (s.ctx h).vq = [e] → s.traced h = false →
    (∀ j, j < 256 → -32768 ≤ countOf (v j) ∧ countOf (v j) ≤ 32767) → s.usedWith h row v ≤ s.quota h →
    ∀ (m : List Host.Cell) (full : Bool),
    s.listedAll { s.ctx h with xbase := e.xbase, xsz := e.xsz } h e.addr (if e.xle then y.recs else []) = some (m, full) →
    ∃ t, exec ev s = .next t ∧ (t.ctx h).vq = [] ∧ { s with mem := m }.coreOnly t h ∧ (t.ctx h).xlovf = ((s.ctx h).xlovf || full) ∧
      (t.ctx h).fflags = ((s.ctx h).raiseAll y.flags).fflags ∧ (∀ j, j < 256 → t.accVal c row j = v j) ∧
      (∀ k, k / 256 ≠ row → sget (t.core c).cells 0 k = sget (s.core c).cells 0 k ∧
        sget (t.core c).billon 0 k = sget (s.core c).billon 0 k) ∧ h ∉ (t.core c).failed) ∧
  (∀ (h n : Nat) (s : State) (e : Entry) (l : List Entry), (s.ctx h).vq = e :: l → (∀ x ∈ l, x.begun = false) → e.stallSince = some n →
    (s.hart h).run = .running →
    ((s.ctx h).tmo ≤ s.time - n → ∃ t, exec (.billonStallTimeout h) s = .next t ∧ (t.hart h).run = .frozen 0x27 ∧
      (t.hart h).bcause = 1 ∧ (t.hart h).barow = e.opA.toNat % 2 ^ 14 ∧ (t.core (coreOf h)).cells = (s.core (coreOf h)).cells ∧
      (t.core (coreOf h)).billon = (s.core (coreOf h)).billon) ∧
    (s.time - n < (s.ctx h).tmo → exec (.billonStallTimeout h) s = .next s))

/-- R232, R244, R245, R246: MTLOAD of B from local windows fills its slot with the loaded cells, their format and extents, and with XLE =
1 appends to the list in a local window a record for each cell whose NaN it has replaced, with its row (R30 to R32); MTZERO empties
its slot. Both wait only for a slot that is LOADING, so that they complete on a PARTIAL one: the model's reading (log entry 27). -/
def Obligations.TileResult : Prop :=
  ∀ (s : State),
    let h := s.cur
    let C := s.ctx h
    C.vq = [] → C.gates = [] → s.move.delayIssue = false → s.traced h = false → s.dbgOf h = false →
    (∀ (c a b : BitVec 7) (t : BitVec 2) (px : Option Pfx) (B : Nat → Nat → Nat),
      let ty := elTy 12 px
      let w := tyW ty
      let g := (C.getS b.toNat).toNat
      let nr := g % 2 ^ 11
      let nc := g / 2 ^ 16 % 2 ^ 9
      let ce := g / 2 ^ 26 % 2 ^ 11
      let bit (k j : Nat) : Nat := k * (g / 2 ^ 40) * 8 + j * w
      let v (k j : Nat) : Int × Nat := arrayVal ty (B k j) (C.scale c.toNat (ce + j))
      s.liveIlocks h = [] → (s.launchOf h).any (fun l => l.par.tslot.testBit t.toNat) = true →
      (sget (s.core (coreOf h)).tiles Tile.init t.toNat).state ≠ 2 →
      g / 2 ^ 37 % 8 = 0 → g / 2 ^ 25 % 2 = 0 → g / 2 ^ 11 % 32 = 0 → 1 ≤ nc → nc ≤ 256 → 1 ≤ nr →
      nr ≤ (if ty = .s4 ∨ ty = .n4 then 1024 else 512) → (tyInt ty = true ∨ ce + nc - 1 ≤ 2047) →
      (∀ k j, k < nr → j < nc → ∃ n, s.winRead h (((C.getS a.toNat).toNat + bit k j / 8) % 2 ^ 64) ((bit k j % 8 + w + 7) / 8) = some n ∧
        B k j = n / 2 ^ (bit k j % 8) % 2 ^ w) →
      ∀ (m : List Host.Cell) (full : Bool),
      s.listedAll C h C.pc.toNat (if C.xle then (List.range nr).flatMap (fun k =>
        ((List.range nc).filter (fun j => (v k j).2.testBit 5)).map (fun _ => k)) else []) = some (m, full) →
      ∃ u, exec (.mtload c a b t px) s = .next u ∧ (u.ctx h).xlovf = (C.xlovf || full) ∧
        (let x := sget (u.core (coreOf h)).tiles Tile.init t.toNat
         x.state = 1 ∧ x.fmt = tyCode ty ∧ x.nr = nr ∧ x.nc = nc ∧ ∀ k j, k < nr → j < nc → x.cell k j = (v k j).1) ∧
        (∀ n, n ≠ t.toNat → sget (u.core (coreOf h)).tiles Tile.init n = sget (s.core (coreOf h)).tiles Tile.init n) ∧
        (u.core (coreOf h)).cells = (s.core (coreOf h)).cells ∧ (u.core (coreOf h)).billon = (s.core (coreOf h)).billon ∧
        (u.ctx h).vq = [] ∧ (u.ctx h).pc = (C.advance (pxLen px)).pc ∧
        (u.ctx h).fflags.toNat = (List.range nr).foldl (fun f k => (List.range nc).foldl (fun f j => f ||| (v k j).2) f) C.fflags.toNat ∧
        u.mem = m ∧ s.othersSame u h) ∧
    (∀ (t : BitVec 2) (px : Option Pfx), (s.launchOf h).any (fun l => l.par.tslot.testBit t.toNat) = true →
      (sget (s.core (coreOf h)).tiles Tile.init t.toNat).state ≠ 2 →
      ∃ u, exec (.mtzero t px) s = .next u ∧ u.ctx h = (C.retired C C.fexc).advance (pxLen px) ∧ s.coreOnly u h ∧
        u.core (coreOf h) = { s.core (coreOf h) with tiles := sset (s.core (coreOf h)).tiles Tile.init t.toNat { state := 0, fmt := 0, nr := 0, nc := 0, cells := [] } })

/-- R249 to R251: MDRAIN writes the values of an accumulator row from its first column, clamped to S32 under SAT and modulo 2^32
else, and clears what it has read unless it keeps it; MCLR clears rows; MSTAT reads the status words of a row and of a slot. That
MDRAIN replaces FEXCA and FEXCB without SAT too is the model's reading (log entry 18), and that an MCLR of no row does nothing whatever
its AROW is, its choice (log entry 63). -/
def Obligations.AccumulatorReads : Prop :=
  ∀ (s : State),
    let h := s.cur
    let C := s.ctx h
    let c := coreOf h
    C.vq = [] → C.gates = [] → s.move.delayIssue = false → s.traced h = false →
    (∀ (d a : BitVec 7) (px : Option Pfx) (keep : Bool),
      let m := (C.getS a.toNat).toNat
      let c0 := m / 2 ^ 16 % 2 ^ 8
      let row := s.rowBase h + m % 2 ^ 14
      let n := min (256 - c0) (s.maxvl c / 4)
      let v (j : Nat) : Int := s.accVal c row (c0 + j)
      let y (j : Nat) : Int := if (pfxOf px).sat = 1 then max (-2 ^ 31) (min (2 ^ 31 - 1) (v j)) else v j
      let fls := ((List.range n).filter (fun j => decide (y j ≠ v j))).map (fun j => (64, j))
      m < 2 ^ 24 → m / 2 ^ 14 % 4 = 0 → m % 2 ^ 14 < s.acnt h →
      ∃ t, exec (if keep then .mdrainKeep d a px else .mdrain d a px) s = .next t ∧
        s.queueDone t h ((List.range n).foldl (fun k j =>
          k.setVel (physV C d.toNat) 32 j (y j % 2 ^ 32).toNat) C) fls (pxLen px) ∧ s.coreOnly t h ∧
        (∀ j, j < 256 → t.accVal c row j = if keep = false ∧ c0 ≤ j ∧ j < c0 + n then 0 else s.accVal c row j) ∧
        (∀ k, k / 256 ≠ row → sget (t.core c).cells 0 k = sget (s.core c).cells 0 k ∧
          sget (t.core c).billon 0 k = sget (s.core c).billon 0 k)) ∧
    (∀ (a : BitVec 7) (px : Option Pfx),
      let x := (C.getS a.toNat).toNat
      let lo := s.rowBase h + x % 2 ^ 14
      let n := x / 2 ^ 16
      x < 2 ^ 30 → x / 2 ^ 14 % 4 = 0 → (n = 0 ∨ x % 2 ^ 14 + n ≤ s.acnt h) →
      ∃ t, exec (.mclr a px) s = .next t ∧ t.ctx h = (C.retired C C.fexc).advance (pxLen px) ∧ s.coreOnly t h ∧
        (∀ k, sget (t.core c).cells 0 k = if lo ≤ k / 256 ∧ k / 256 < lo + n then 0 else sget (s.core c).cells 0 k) ∧
        (∀ k, sget (t.core c).billon 0 k = if lo ≤ k / 256 ∧ k / 256 < lo + n then 0 else sget (s.core c).billon 0 k)) ∧
    (∀ (d a : BitVec 7) (px : Option Pfx),
      let r := (C.getS a.toNat).toNat
      let es := (s.core c).billon.filter (fun x => decide (x.1 / 256 = s.rowBase h + r))
      r < s.acnt h → r < 2 ^ 14 → ∃ t, exec (.mstatRow d a px) s = .next t ∧
        s.doneTraced t h (((C.setS d.toNat (BitVec.ofNat 64
          (s.acnt h * 2 ^ 48 + (es.map (fun x => x.2.natAbs)).foldl max 0 * 2 ^ 32 + es.length))).retired C C.fexc).advance (pxLen px))) ∧
    (∀ (d a : BitVec 7) (px : Option Pfx),
      let k := (C.getS a.toNat).toNat
      let x := sget (s.core c).tiles Tile.init k
      k < 4 → (s.launchOf h).any (fun l => l.par.tslot.testBit k) = true → ∃ t, exec (.mstatSlot d a px) s = .next t ∧
        s.doneTraced t h (((C.setS d.toNat (BitVec.ofNat 64 (x.state * 2 ^ 60 +
          (if x.state = 0 then 0 else x.fmt * 2 ^ 48 + x.nc * 2 ^ 32 + x.nr)))).retired C C.fexc).advance (pxLen px)))

/-- R47, R50, R198, R207, R213, R240, R245: a legal engine command, VLDW, MTLOAD, row operation or vector fence that is left in the empty
queue of a running hart on a core that may issue has, when its event lets it take its turn, exactly the effect it has when it runs at
issue.
R49 to R51: a lane group of a core that may issue serves the one hart of its core with work: an elementwise instruction of
one element group that was left in the queue has in one beat of lane group 0 the effect it has when it runs at issue, and the lane
group's pointer moves to the hart. R174, R224: entries of the interlock table whose last slot write the hart's replica has applied
leave it at the release; the others stay. -/
def Obligations.QueueTurns : Prop :=
  (∀ (i ev : Instr) (s : State), queueTurn s i ev → i.wellFormed = true →
     let h := s.cur
     (s.ctx h).vq = [] → (s.ctx h).gates = [] → s.canMove h = true →
     ∃ s1 e t, exec i (s.leaving true) = .next s1 ∧ (s1.ctx h).vq = [e] ∧ e.begun = false ∧ s.othersSame s1 h ∧
       s1.mem = s.mem ∧ exec i (s.leaving false) = .next t ∧ exec ev (s1.leaving false) = .next t) ∧
  ((∀ (i : Instr) (R : ElemRow) (s : State), elemRow i = some R → i.wellFormed = true →
     let h := s.cur
     let C := s.ctx h
     let c := coreOf h
     let vle := s.vleOf h R.w
     (∀ v ∈ R.swept, v.toNat % C.rows = 0) → R.ok C vle = true → C.vq = [] → C.xle = false → s.canMove h = true →
     C.rows = 1 → 0 < vle → vle * R.w ≤ 256 →
     (∀ k, coreOf k = c → k ≠ h → (s.ctx k).vq = [] ∨ s.canMove k = false) →
     ∃ s1 t, exec i (s.leaving true) = .next s1 ∧ (s1.ctx h).vq.length = 1 ∧ exec i (s.leaving false) = .next t ∧
       exec (.vectorBeat c 0) (s1.leaving false) =
         .next (t.modCore c (fun k => { k with rr := setAt k.rr 0 (h % 4) }))) ∧
   (∀ (h k : Nat) (s : State), (s.ctx h).ilocks.length ≤ k → ∃ t, exec (.interlockRelease h k) s = .next t ∧
     t.hart h = { s.hart h with ctx := { s.ctx h with ilocks := (s.ctx h).ilocks.filter (fun l => match l.owner with
       | .electrum n => decide (nth (s.tower (towerOf (coreOf h))).applied (layerOf (coreOf h)) ≤ n)
       | _ => true) } } ∧ s.othersSame t h ∧ s.restSame t))

/-- R207 to R210, R213, R214: CPY of a granted, free channel with a valid descriptor starts the channel, or, when it
moves no byte, completes at once, after it has published 0 if PUB asks for that; SSTR opens a granted, closed stream on its array;
SCLOSE ends the hart's open stream with no terminator; ISTR with a valid parameter block becomes the command of the engine of its
index array's stack, that engine being free. Descriptor, parameter block and array lie in local windows, where their reads change
nothing, or anywhere that the hart's reads complete, in translated global memory or host memory too. Which engine a command has whose
array lies in a window is the model's choice (log entry 23). -/
def Obligations.EngineCommands : Prop :=
  ∀ (s : State) (T : Nat) (L : Launch),
    let h := s.cur
    let C := s.ctx h
    let c := coreOf h
    C.vq = [] → C.gates = [] → s.move.delayIssue = false → s.traced h = false → s.dbgOf h = false → (s.hart h).task = some T →
    s.launchOf h = some L → s.liveIlocks h = [] →
    (∀ (ch : BitVec 3) (a : BitVec 7) (w : List Word),
      let nd := wnth w 3 % 8
      L.par.chan.testBit ch.toNat = true → (C.getS a.toNat).toNat % 8 = 0 → w.length = 21 → s.winWords h (C.getS a.toNat) w →
      1 ≤ nd → nd ≤ 6 → wnth w 3 < 32 → 0 < wnth w 2 → wnth w 2 < 2 ^ 32 → (∀ n ∈ copyTrips w, n < 2 ^ 32) →
      ((wnth w 3).testBit 4 = true → wnth w 19 % 8 = 0) → ((wnth w 3).testBit 3 = true → wnth w 20 % 4 = 0) →
      ((s.core c).chan ch.toNat).owner = none →
      (copyBytes w ≠ 0 → ∃ t x rd wr far, exec (.cpy ch a) s = .next t ∧ s.coreOnly t h ∧ (t.hart h).wait = none ∧
        t.core c = { s.core c with chans := sset (s.core c).chans Channel.init ch.toNat x } ∧ x.owner = some (h, T) ∧
        x.words = w ∧ x.total = copyBytes w ∧ x.wp = 0 ∧ x.ahead = 0 ∧ x.pubDue = false ∧ x.state = 1 ∧ x.hold = .run ∧
        { t.ctx h with elecSeen := C.elecSeen } = ({ C.retired C C.fexc with
          cpys := sput C.cpys ch.toNat ⟨1, 0⟩, ilocks := [⟨.channel ch.toNat, rd, wr, far⟩] } : Ctx).advance 4) ∧
      (∀ m, copyBytes w = 0 → (if (wnth w 3).testBit 4 then
          (s.winLoc h (wnth w 19) 8 .write).map (fun q => wrBytes s.mem q (leBytes 8 0)) else some s.mem) = some m →
        ∃ t, exec (.cpy ch a) s = .next t ∧ t.mem = m ∧ ({ s with mem := m } : State).coreOnly t h ∧ (t.hart h).wait = none ∧
          (∀ n, (t.core c).chan n = if n = ch.toNat then Channel.init else (s.core c).chan n) ∧
          { t.core c with chans := (s.core c).chans } = s.core c ∧ sfind (t.ctx h).cpys ch.toNat = some ⟨0, 0⟩ ∧
          (∀ n, n ≠ ch.toNat → sfind (t.ctx h).cpys n = sfind C.cpys n) ∧
          (t.ctx h).ilocks = C.ilocks.filter (fun l => l.owner != .channel ch.toNat && l.owner != .entry C.nextId) ∧
          { t.ctx h with elecSeen := C.elecSeen, cpys := C.cpys, ilocks := C.ilocks } =
            { (C.retired C C.fexc).advance 4 with ilocks := C.ilocks })) ∧
    (∀ (q a b : BitVec 7) (st : BitVec 2),
      let n := (C.getS b.toNat).toNat
      L.par.strm.testBit st.toNat = true → (C.getS a.toNat).toNat % 4 = 0 → ((s.core c).stream st.toNat).owner = none →
      ∃ t il, exec (.sstr q a b st) s = .next t ∧ s.coreOnly t h ∧ (t.hart h).wait = none ∧
        (let x : Stream := { owner := some (h, T), launch := s.seqOf h, addr := C.pc.toNat, q := q.toNat,
                             base := (C.getS a.toNat).toNat, count := n, pos := 0, hold := .run }
         t.core c = { s.core c with streams := sset (s.core c).streams Stream.init st.toNat x }) ∧
        t.ctx h = ({ C.retired C C.fexc with ilocks := il } : Ctx).advance 4 ∧ (∀ l ∈ il, l.owner = .stream st.toNat ∨ n = 0)) ∧
    (∀ (st : BitVec 2), L.par.strm.testBit st.toNat = true → ((s.core c).stream st.toNat).hold = .run →
      ∃ t, exec (.sclose st) s = .next t ∧ s.coreOnly t h ∧ (t.hart h).wait = none ∧
        (if ((s.core c).stream st.toNat).owner = some (h, T) then
          t.core c = { s.core c with streams := sset (s.core c).streams Stream.init st.toNat Stream.init } ∧
          t.ctx h = ({ C.retired C C.fexc with ilocks :=
            (C.ilocks.filter (fun l => l.owner != .stream st.toNat)).filter (fun l => l.owner != .entry C.nextId) } : Ctx).advance 4
         else t.core c = s.core c ∧ t.ctx h = (C.retired C C.fexc).advance 4)) ∧
    (∀ (k : BitVec 2) (a : BitVec 7) (w : List Word) (loc : Nat),
      let w1 := wnth w 1
      let iw := if w1.testBit 32 then 8 else 4
      let e := 4 * stackOf loc + k.toNat
      (∀ x, sfind C.istrs k.toNat = some x → x.state ≠ 1) → (C.getS a.toNat).toNat % 64 = 0 → w.length = 8 →
      s.winWords h (C.getS a.toNat) w → w1 / 2 ^ 48 = 0 → w1 / 2 ^ 44 % 2 ^ 3 = 0 → w1 / 2 ^ 36 % 2 ^ 4 = 0 → w1 / 2 ^ 33 % 2 ^ 2 = 0 →
      wnth w 0 % iw = 0 → (w1.testBit 47 = true → wnth w 2 % 128 = 0) → 8 ≤ wnth w 3 → wnth w 3 ≤ 65536 → wnth w 3 % 8 = 0 →
      wnth w 5 ≠ 0 → s.winLoc h (wnth w 0) 1 .read = some loc → s.engine e = [] →
      ∃ (t : State) (x : Istr) (il : List Ilock), exec (.istr k a) s = .next t ∧ s.othersSame t h ∧ (t.hart h).wait = none ∧
        t.engine e = [x] ∧ (∀ n, n ≠ e → t.engine n = s.engine n) ∧ t.mem = s.mem ∧ t.cores = s.cores ∧
        x.hart = h ∧ x.task = T ∧ x.k = k.toNat ∧ x.words = w ∧ x.row = 0 ∧ x.unit = 0 ∧ x.idx = none ∧ x.buf = [] ∧ x.hold = .run ∧
        x.base = wnth w 2 ∧
        { t.ctx h with elecSeen := C.elecSeen } =
          ({ C.retired C C.fexc with istrs := sput C.istrs k.toNat ⟨1, 0⟩, ilocks := il } : Ctx).advance 4 ∧
        (∀ l ∈ il, l.owner = .istr e ∨ l ∈ C.ilocks)) ∧
    (∀ (ch : BitVec 3) (a : BitVec 7) (w : List Word),
      let nd := wnth w 3 % 8
      L.par.chan.testBit ch.toNat = true → (C.getS a.toNat).toNat % 8 = 0 → w.length = 21 →
      1 ≤ nd → nd ≤ 6 → wnth w 3 < 32 → 0 < wnth w 2 → wnth w 2 < 2 ^ 32 → (∀ n ∈ copyTrips w, n < 2 ^ 32) →
      ((wnth w 3).testBit 4 = true → wnth w 19 % 8 = 0) → ((wnth w 3).testBit 3 = true → wnth w 20 % 4 = 0) →
      ((s.core c).chan ch.toNat).owner = none →
      ∃ b : Entry, b.id = C.nextId ∧ ∀ s1, readsWords h (s.issued h b) (C.getS a.toNat) w s1 →
        ∃ (x : Channel) (il : List Ilock), x.owner = some (h, T) ∧ x.words = w ∧ x.total = copyBytes w ∧ x.wp = 0 ∧ x.ahead = 0 ∧
          x.state = 1 ∧ x.hold = .run ∧ (x.pubDue = true → copyBytes w = 0) ∧ (∀ l ∈ il, l.owner = .channel ch.toNat ∨ l ∈ (s1.ctx h).ilocks) ∧
          let s2 := (s1.modCore c (fun k => { k with chans := sset k.chans Channel.init ch.toNat x })).modHart h (fun y => { y with
            ctx := { y.ctx with cpys := sput y.ctx.cpys ch.toNat ⟨1, 0⟩, ilocks := il } })
          (copyBytes w ≠ 0 → ∃ t, exec (.cpy ch a) s = .next t ∧ s2.othersSame t h ∧ t.mem = s2.mem ∧ t.cores = s2.cores ∧
            t.hart h = { s2.hart h with ctx := { s2.ctx h with vq := [] } } ∧ il.length = 1) ∧
          (∀ s3, copyBytes w = 0 →
            (if (wnth w 3).testBit 4 then (vwrite h C.nextId c (wnth w 19) 8 0 .engine).run s2 = .ok () s3 else s3 = s2) →
            ∃ t, exec (.cpy ch a) s = .next t ∧ s3.othersSame t h ∧ t.mem = s3.mem ∧
              (∀ n, (t.core c).chan n = if n = ch.toNat then Channel.init else (s3.core c).chan n) ∧
              sfind (t.ctx h).cpys ch.toNat = some ⟨0, 0⟩ ∧ (t.ctx h).vq = [] ∧ (t.ctx h).regs = (s3.ctx h).regs ∧
              (t.ctx h).pc = (s3.ctx h).pc ∧ (t.hart h).wait = none)) ∧
    (∀ (k : BitVec 2) (a : BitVec 7) (w : List Word),
      let w1 := wnth w 1
      let iw := if w1.testBit 32 then 8 else 4
      (∀ x, sfind C.istrs k.toNat = some x → x.state ≠ 1) → (C.getS a.toNat).toNat % 64 = 0 → w.length = 8 →
      w1 / 2 ^ 48 = 0 → w1 / 2 ^ 44 % 2 ^ 3 = 0 → w1 / 2 ^ 36 % 2 ^ 4 = 0 → w1 / 2 ^ 33 % 2 ^ 2 = 0 →
      wnth w 0 % iw = 0 → (w1.testBit 47 = true → wnth w 2 % 128 = 0) → 8 ≤ wnth w 3 → wnth w 3 ≤ 65536 → wnth w 3 % 8 = 0 →
      wnth w 5 ≠ 0 →
      ∃ b : Entry, b.id = C.nextId ∧ ∀ (p : Piece) (ps : List Piece) (s1 s2 : State),
        readsWords h (s.issued h b) (C.getS a.toNat) w s1 → (resolve h c (wnth w 0) 1 .read .vector).run s1 = .ok (p :: ps) s2 →
        let e := 4 * stackOf p.loc + k.toNat
        s2.engine e = [] →
        ∃ (t : State) (x : Istr) (il : List Ilock), exec (.istr k a) s = .next t ∧ s2.othersSame t h ∧
          t.engine e = [x] ∧ (∀ n, n ≠ e → t.engine n = s2.engine n) ∧ t.mem = s2.mem ∧ t.cores = s2.cores ∧
          x.hart = h ∧ x.task = T ∧ x.k = k.toNat ∧ x.words = w ∧ x.row = 0 ∧ x.unit = 0 ∧ x.idx = none ∧ x.buf = [] ∧ x.hold = .run ∧
          x.base = wnth w 2 ∧
          t.hart h = { s2.hart h with ctx := { s2.ctx h with vq := [], istrs := sput (s2.ctx h).istrs k.toNat ⟨1, 0⟩, ilocks := il } } ∧
          (∀ l ∈ il, l.owner = .istr e ∨ l ∈ (s2.ctx h).ilocks))

/-- R96, R180, R188, R209 to R213, R215, R216: a channel moves every byte of its next chunk, and of the aligned 8-byte unit in which that
ends, from its source address to its destination address, and ends with the last. With PUB it has then written its write pointer to the
progress word. With CRC the pointer passes the chunk when the CRC32C of its bytes is the table's word; else the command stops with STATE
2 and its write pointer where it was, its launch's abort begins with cause 2, and each of the chunk's destination bytes is new or old. A
stream appends its next coordinate, and after the last the terminator, and closes. An engine delivers the row that its next index
selects, to memory or to a queue, and freezes at an index out of bounds; a command with every row delivered completes. Of a versioned
table it first reads the descriptor, once, and adds 1 to the reader count, and at the end it adds 1 to the version's done counter. All
this holds of bytes, arrays, rows, tables and words in local windows, whose contents are stated, and wherever the engine's accesses
complete, in translated global memory too: there the moves are those accesses in their order. -/
def Obligations.EngineProgress : Prop :=
  ∀ (s : State) (h T : Nat), (s.hart h).task = some T → (∃ k, sfind s.sched.tasks T = some k ∧ k.hart = h ∧ k.saved = none) →
    s.dbgOf h = false → s.traced h = false →
    let c := coreOf h
    (∀ (ch : Nat) (x : Channel) (S D : Nat → Nat),
      let w := x.words
      let e := min ((x.wp / 4096 + 1) * 4096) x.total
      let f := min (e + 7) x.total
      let pub := (wnth w 3).testBit 4
      let done (t : State) : Prop := (t.core c).chan ch = Channel.init ∧ sfind (t.ctx h).cpys ch = some ⟨0, x.total⟩ ∧
        (t.ctx h).ilocks = (s.ctx h).ilocks.filter (fun l => l.owner != .channel ch)
      (s.core c).chan ch = x → x.owner = some (h, T) → x.state = 1 → x.hold = .run → x.pubDue = false →
      wnth w 3 < 32 → 1 ≤ wnth w 3 % 8 → wnth w 2 ≠ 0 → x.total = copyBytes w → x.wp < x.total →
      (∀ q, (wnth w 3).testBit 3 = false → x.ahead = 0 → s.copies h x x.wp f S D →
        (pub = true → s.winLoc h (wnth w 19) 8 .write = some q ∧ copyClear S D x.wp f q 8) →
        ∃ t g, exec (.copyChunkComplete c ch) s = .next t ∧ e ≤ g ∧ g ≤ f ∧
          (∀ n, e ≤ n → n < g → copyAt w 1 14 n = copyAt w 1 14 (e - 1) + (n + 1 - e) ∧
            copyAt w 1 14 n / 8 = copyAt w 1 14 (e - 1) / 8) ∧
          s.copied t S D x.wp g (if pub then some (q, g) else none) ∧ (g = x.total → done t) ∧
          (g < x.total → (∃ o, (t.core c).chan ch = { x with wp := g, orig := o }) ∧ sfind (t.ctx h).cpys ch = some ⟨1, g⟩) ∧
          (t.ctx h).regs = (s.ctx h).regs ∧ s.othersSame t h) ∧
      (∀ (q r : Nat) (P : List Byte) (L : Launch),
        let b := x.wp + P.length
        let bytes (n m : Nat) : List Byte := (List.range (m - n)).map (fun j => rdByte s.mem (S (n + j)))
        (wnth w 3).testBit 3 = true → x.wp % 4096 = 0 → x.ahead = P.length → b ≤ e → x.beyond = [] → x.undo = [] →
        2 ^ 32 - 1 - x.crc = crc32c P → x.crc < 2 ^ 32 → s.copies h x b f S D →
        s.winLoc h ((wnth w 20 + 4 * (x.wp / 4096)) % 2 ^ 64) 4 .read = some r → copyClear S D b f r 4 →
        (pub = true → s.winLoc h (wnth w 19) 8 .write = some q ∧ copyClear S D b f q 8) →
        s.launchOf h = some L → L.abort = none →
        (crc32c (P ++ bytes b e) = ofLe (rdBytes s.mem r 4) →
          ∃ t g, exec (.copyChunkComplete c ch) s = .next t ∧ e ≤ g ∧ g ≤ f ∧
            s.copied t S D b g (if pub then some (q, e) else none) ∧ (e = x.total → done t) ∧
            (e < x.total → (∃ o k, (t.core c).chan ch = { x with wp := e, ahead := g - e, crc := k, orig := o } ∧
              k < 2 ^ 32 ∧ 2 ^ 32 - 1 - k = crc32c (bytes e g)) ∧ sfind (t.ctx h).cpys ch = some ⟨1, e⟩) ∧
            (t.ctx h).regs = (s.ctx h).regs ∧ s.othersSame t h) ∧
        (crc32c (P ++ bytes b e) ≠ ofLe (rdBytes s.mem r 4) →
          ∃ t, exec (.copyChunkComplete c ch) s = .next t ∧ ((t.core c).chan ch).state = 2 ∧ ((t.core c).chan ch).wp = x.wp ∧
            sfind (t.ctx h).cpys ch = some ⟨2, x.wp⟩ ∧ (t.launchOf h).map (·.abort) = some (some (2, s.time)) ∧
            (∀ n, b ≤ n → n < f → rdByte t.mem (D n) = rdByte s.mem (S n) ∨ rdByte t.mem (D n) = rdByte s.mem (D n)) ∧
            (∀ a, (∀ n, b ≤ n → n < f → D n ≠ a) → rdByte t.mem a = rdByte s.mem a) ∧
            (t.ctx h).regs = (s.ctx h).regs ∧ s.othersSame t h))) ∧
    (∀ (st : Nat) (x : Stream), (s.core c).stream st = x → x.owner = some (h, T) → x.hold = .run → (s.ctx h).exiting = 0 →
      ((s.ctx h).queue x.q).ents.length < 64 →
      (∀ v, x.pos < x.count → s.winRead h ((x.base + 4 * x.pos) % 2 ^ 64) 4 = some v →
        ∃ t, exec (.sparseStreamAppend c st) s = .next t ∧
          { t.ctx h with elecSeen := (s.ctx h).elecSeen } = (s.ctx h).push x.q (BitVec.ofNat 64 v) ∧
          (t.core c).stream st = { x with pos := x.pos + 1 } ∧ t.mem = s.mem ∧ s.othersSame t h) ∧
      (∀ v s1, x.pos < x.count → (vread h c ((x.base + 4 * x.pos) % 2 ^ 64) 4 .engine).run s = .ok v s1 →
        ∃ t, exec (.sparseStreamAppend c st) s = .next t ∧ t.ctx h = (s1.ctx h).push x.q (BitVec.ofNat 64 v) ∧
          (t.core c).stream st = { x with pos := x.pos + 1 } ∧ t.mem = s1.mem ∧ s1.othersSame t h) ∧
      (x.count ≤ x.pos → ∃ t, exec (.sparseStreamAppend c st) s = .next t ∧
        t.ctx h = { (s.ctx h).push x.q 0x8000000000000000 with
          ilocks := (s.ctx h).ilocks.filter (fun l => l.owner != .stream st) } ∧
        (t.core c).stream st = Stream.init ∧ t.mem = s.mem ∧ s.othersSame t h)) ∧
    (∀ (g : Nat) (x : Istr) (l : List Istr) (y : Istr) (m0 : List Host.Cell),
      let w := x.words
      let iw := if (wnth w 1).testBit 32 then 8 else 4
      let n := wnth w 1 % 2 ^ 32
      let s0 : State := { s with mem := m0 }
      s.engine g = x :: l → x.hart = h → x.task = T → x.hold = .run → s.tableRead h x y m0 →
      ((wnth w 1).testBit 47 = true → ∀ z ∈ s.liveIlocks h, z.owner = .istr g) →
      (x.begun = false → n ≤ x.row → ∃ t, exec (.istrRowDeliver g) s = .next t ∧ t.mem = m0 ∧ t.engine g = y :: l ∧
        sfind (t.ctx h).istrs x.k = some ⟨1, x.row⟩ ∧ s.othersSame t h) ∧
      (∀ i, x.row < n → x.unit = 0 → x.idx = none → x.buf = [] → s0.winRead h ((wnth w 0 + x.row * iw) % 2 ^ 64) iw = some i →
        8 ≤ wnth w 3 → wnth w 3 ≤ 65536 → wnth w 3 % 8 = 0 →
        (∀ m, i < wnth w 5 → (wnth w 1).testBit 35 = false →
          (List.range (wnth w 3 / 8)).foldlM (fun m u => do
            let p ← s.winLoc h ((y.base + i * wnth w 4 + 8 * u) % 2 ^ 64) 8 .read
            let q ← s.winLoc h ((wnth w 6 + x.row * wnth w 7 + 8 * u) % 2 ^ 64) 8 .write
            pure (wrBytes m q (rdBytes m0 p 8))) m0 = some m →
          ∃ t, exec (.istrRowDeliver g) s = .next t ∧ t.mem = m ∧ t.engine g = { y with row := x.row + 1 } :: l ∧
            sfind (t.ctx h).istrs x.k = some ⟨1, x.row + 1⟩ ∧ s.othersSame t h) ∧
        (∀ vs : List Nat,
          let q := wnth w 1 / 2 ^ 40 % 2 ^ 4
          i < wnth w 5 → (wnth w 1).testBit 35 = true → vs.length = wnth w 3 / 8 →
          (∀ u, u < vs.length → s0.winRead h ((y.base + i * wnth w 4 + 8 * u) % 2 ^ 64) 8 = some (nth vs u)) → (s.ctx h).exiting = 0 →
          ((s.ctx h).queue q).ents.length + vs.length ≤ 64 →
          ∃ t, exec (.istrRowDeliver g) s = .next t ∧ t.mem = m0 ∧ t.engine g = { y with row := x.row + 1 } :: l ∧
            ((t.ctx h).queue q).ents = ((s.ctx h).queue q).ents ++ vs.map (BitVec.ofNat 64) ∧
            sfind (t.ctx h).istrs x.k = some ⟨1, x.row + 1⟩ ∧ s.othersSame t h) ∧
        (wnth w 5 ≤ i → ∃ t, exec (.istrRowDeliver g) s = .next t ∧ t.engine g = { y with hold := .frozen } :: l ∧
            sfind (t.ctx h).istrs x.k = some ⟨3, x.row⟩)) ∧
      (∀ m, x.begun = true → x.row = n → (if (wnth w 1).testBit 47 then
          (s.winLoc h ((wnth w 2 + 8 + 8 * x.ver) % 2 ^ 64) 8 .atomic).map (fun q =>
            wrBytes s.mem q (leBytes 8 ((ofLe (rdBytes s.mem q 8) + 1) % 2 ^ 64))) else some s.mem) = some m →
        ∃ t, exec (.istrComplete g) s = .next t ∧ t.engine g = l ∧
          sfind (t.ctx h).istrs x.k = some ⟨0, n⟩ ∧ (t.ctx h).ilocks = (s.ctx h).ilocks.filter (fun z => z.owner != .istr g) ∧
          t.mem = m ∧ s.othersSame t h)) ∧
    (∀ (g : Nat) (x : Istr) (l : List Istr) (y : Istr) (s0 : State),
      let w := x.words
      let iw := if (wnth w 1).testBit 32 then 8 else 4
      let n := wnth w 1 % 2 ^ 32
      let now (t u : State) (y : Istr) (k : CmdStat) : Prop := t.mem = u.mem ∧ t.engine g = y :: l ∧ sfind (t.ctx h).istrs x.k = some k ∧
        u.othersSame t h
      s.engine g = x :: l → x.hart = h → x.task = T → x.hold = .run →
      (s.tableOpens g x y s0 → ((wnth w 1).testBit 47 = true → ∀ z ∈ s.liveIlocks h, z.owner = .istr g) →
        (x.begun = false → n ≤ x.row → ∃ t, exec (.istrRowDeliver g) s = .next t ∧ now t s0 y ⟨1, x.row⟩) ∧
        (∀ i s1, x.row < n → x.unit = 0 → x.idx = none → x.buf = [] → 8 ≤ wnth w 3 → wnth w 3 ≤ 65536 → wnth w 3 % 8 = 0 →
          (vread h (256 + g) ((wnth w 0 + x.row * iw) % 2 ^ 64) iw .engine).run s0 = .ok i s1 →
          (wnth w 5 ≤ i → ∃ t, exec (.istrRowDeliver g) s = .next t ∧ t.engine g = { y with hold := .frozen } :: l ∧
            sfind (t.ctx h).istrs x.k = some ⟨3, x.row⟩) ∧
          (∀ vs s2, i < wnth w 5 →
            ((List.range (wnth w 3 / 8)).mapM (fun u => vread h (256 + g) ((y.base + i * wnth w 4 + 8 * u) % 2 ^ 64) 8 .engine)).run s1
              = .ok vs s2 →
            (∀ s3, (wnth w 1).testBit 35 = false →
              (unitWrites h x.id (256 + g) ((wnth w 6 + x.row * wnth w 7) % 2 ^ 64) (vs.flatMap (leBytes 8))).run s2 = .ok () s3 →
              ∃ t, exec (.istrRowDeliver g) s = .next t ∧ now t s3 { y with row := x.row + 1 } ⟨1, x.row + 1⟩) ∧
            (let q := wnth w 1 / 2 ^ 40 % 2 ^ 4
             (wnth w 1).testBit 35 = true → (s.ctx h).exiting = 0 → ((s.ctx h).queue q).ents.length + wnth w 3 / 8 ≤ 64 →
             ∃ t, exec (.istrRowDeliver g) s = .next t ∧ now t s2 { y with row := x.row + 1 } ⟨1, x.row + 1⟩ ∧
               ((t.ctx h).queue q).ents = ((s2.ctx h).queue q).ents ++ vs.map (BitVec.ofNat 64))))) ∧
      (∀ s1, x.begun = true → x.row = n → (if (wnth w 1).testBit 47 then
          ∃ d, (vatomic h x.id (256 + g) ((wnth w 2 + 8 + 8 * x.ver) % 2 ^ 64) 8 .engine (fun v => some ((v + 1) % 2 ^ 64))).run s = .ok d s1
          else s1 = s) →
        ∃ t, exec (.istrComplete g) s = .next t ∧ t.mem = s1.mem ∧ t.engine g = l ∧ sfind (t.ctx h).istrs x.k = some ⟨0, n⟩ ∧
          (t.ctx h).ilocks = (s1.ctx h).ilocks.filter (fun z => z.owner != .istr g) ∧ s1.othersSame t h)) ∧
    (∀ (ch : Nat) (x : Channel) (ks : List Nat) (V : List Byte) (s1 : State),
      let w := x.words
      let e := min ((x.wp / 4096 + 1) * 4096) x.total
      let b := x.wp + x.ahead
      let g := b + ks.sum
      let pub := (wnth w 3).testBit 4
      let published (v : Nat) (u u' : State) : Prop :=
        if pub then (vwrite h x.id c (wnth w 19) 8 v .engine).run u = .ok () u' else u' = u
      let now (t u : State) (wp : Nat) : Prop := t.mem = u.mem ∧ u.othersSame t h ∧ (t.ctx h).regs = (u.ctx h).regs ∧
        (wp = x.total → (t.core c).chan ch = Channel.init ∧ sfind (t.ctx h).cpys ch = some ⟨0, x.total⟩ ∧
          (t.ctx h).ilocks = (u.ctx h).ilocks.filter (fun l => l.owner != .channel ch)) ∧
        (wp < x.total → ((t.core c).chan ch).wp = wp ∧ ((t.core c).chan ch).words = w ∧ ((t.core c).chan ch).owner = some (h, T) ∧
          ((t.core c).chan ch).total = x.total ∧ ((t.core c).chan ch).state = 1 ∧ ((t.core c).chan ch).hold = .run ∧
          sfind (t.ctx h).cpys ch = some ⟨1, wp⟩)
      (s.core c).chan ch = x → x.owner = some (h, T) → x.state = 1 → x.hold = .run → x.pubDue = false → x.orig = [] → x.overlaps h = false →
      wnth w 3 < 32 → 1 ≤ wnth w 3 % 8 → wnth w 2 ≠ 0 → x.total = copyBytes w → x.wp < x.total → unitSizes w x.total e b ks →
      (copyUnits h x.id c w b ks).run s = .ok V s1 →
      (∀ s2, (wnth w 3).testBit 3 = false → x.ahead = 0 → published g s1 s2 → ∃ t, exec (.copyChunkComplete c ch) s = .next t ∧ now t s2 g) ∧
      (∀ (P : List Byte) (want : Nat) (s2 : State) (L : Launch), (wnth w 3).testBit 3 = true → x.wp % 4096 = 0 → x.ahead = P.length → b ≤ e →
        x.beyond = [] → x.undo = [] → 2 ^ 32 - 1 - x.crc = crc32c P → x.crc < 2 ^ 32 → s.launchOf h = some L → L.abort = none →
        (vread h c ((wnth w 20 + 4 * (x.wp / 4096)) % 2 ^ 64) 4 .engine).run s1 = .ok want s2 →
        (∀ s3, crc32c (P ++ V.take (e - b)) = want → published e s2 s3 → ∃ t, exec (.copyChunkComplete c ch) s = .next t ∧ now t s3 e ∧
          (e < x.total → ((t.core c).chan ch).ahead = g - e ∧
            2 ^ 32 - 1 - ((t.core c).chan ch).crc = crc32c (V.drop (e - b)))) ∧
        (crc32c (P ++ V.take (e - b)) ≠ want → ∃ t, exec (.copyChunkComplete c ch) s = .next t ∧ ((t.core c).chan ch).state = 2 ∧
          ((t.core c).chan ch).wp = x.wp ∧ sfind (t.ctx h).cpys ch = some ⟨2, x.wp⟩ ∧
          (t.launchOf h).map (·.abort) = some (some (2, s.time)) ∧ (t.ctx h).regs = (s2.ctx h).regs ∧ s2.othersSame t h)))

/-- R221, R222, R224, R226, R227: an EST or EADD of bytes inside the launch's granted range of the region waits in the queue as begun, and
one of no byte completes; a slot of a launch carries first its clearing writes, then the next piece, up to a 128-byte boundary, of
the hart in turn, and the last piece retires the entry; a copy that is awake applies the next slot write of the order to its own
bytes and counts it. -/
def Obligations.ElectrumWrites : Prop :=
  (∀ (i : Instr) (v a b : BitVec 7) (s : State) (L : Launch), (i = .est v a b ∨ i = .eaddS32 v a b ∨ i = .eaddF32 v a b) →
    let h := s.cur
    let C := s.ctx h
    let x := (C.getS a.toNat).toNat
    let n := (C.getS b.toNat).toNat
    C.vq = [] → C.gates = [] → s.move.delayIssue = false → s.traced h = false → (∀ va k, s.watched h va k .write = false) →
    s.liveIlocks h = [] → x % 4 = 0 → n % 4 = 0 →
    n ≤ s.maxvl (coreOf h) → s.launchOf h = some L →
    (n = 0 → ∃ t, exec i s = .next t ∧ s.doneWith t h ((C.retired C C.fexc).advance 4)) ∧
    (n ≠ 0 → elecBase ≤ x → x + n ≤ elecBase + elecSize → L.par.eslot ≠ 0 → L.hasElec (towerOf (coreOf h)) (x - elecBase) n = true →
      ∃ t e l, exec i s = .next t ∧ s.doneWith t h ({ C with vq := [e], nextId := C.nextId + 1, ilocks := [l] }.advance 4) ∧
        e.begun = true ∧ e.estart = 0 ∧ e.opA.toNat = x ∧ e.opB.toNat = n ∧ e.word = encBase i ∧ e.physD = physV C v.toNat ∧
        l.owner = .entry e.id ∧ l.writes ≠ [])) ∧
  (∀ (s : State) (t slot k : Nat) (L : Launch) (x : ESlots),
    let X := s.tower t
    s.sched.launches = [(k, L)] → sfind L.towers t = some x → x.slots.contains slot = true → X.stop = false →
    (x.clear ≠ 0 → ∃ u y, exec (.slotGrant t slot) s = .next u ∧ u.harts = s.harts ∧ u.mem = s.mem ∧
      (let w : SlotWrite := { kind := 0, lo := (L.par.eoff + L.par.esz - x.clear) * 128, data := List.replicate 128 0 }
       u.tower t = { X with log := X.log ++ [w] }) ∧
      (sfind u.sched.launches k).bind (fun l => sfind l.towers t) = some y ∧ y.clear = x.clear - 1 ∧ y.last = x.last ∧ y.slots = x.slots) ∧
    (∀ h e l, x.clear = 0 → inTurn x.last (s.sends k t) h → (s.ctx h).vq = e :: l → (∀ y ∈ l, y.id ≠ e.id) → s.traced h = false →
      let off := e.opA.toNat - elecBase
      let lo := off + 4 * e.estart
      let hi := min (off + e.opB.toNat) ((lo / 128 + 1) * 128)
      off % 4 = 0 → e.opB.toNat % 4 = 0 →
      ∃ u, exec (.slotGrant t slot) s = .next u ∧ s.othersSame u h ∧ u.mem = s.mem ∧
        (let w : SlotWrite := { kind := e.word.toNat / 2 ^ 28, lo := lo, data :=
                                (List.range (hi - lo)).map (fun j =>
                                  BitVec.ofNat 8 (getEl ((s.ctx h).getV e.physD) 8 (4 * e.estart + j))) }
         u.tower t = { X with log := X.log ++ [w] }) ∧
        (u.ctx h).elecEnd = X.base + X.log.length + 1 ∧
        (u.ctx h).vq = (if hi < off + e.opB.toNat then { e with estart := e.estart + (hi - lo) / 4 } :: l else l) ∧
        (sfind u.sched.launches k).bind (fun y => (sfind y.towers t).bind (·.last)) = some h)) ∧
  (∀ (s : State) (t k n : Nat) (w : SlotWrite),
    let X := s.tower t
    k < 9 → X.awake k = true → X.applied.length = 9 → nth X.applied k = X.base + n → X.log[n]? = some w → w.data.length % 4 = 0 →
    ∃ u, exec (.electrumApply t k) s = .next u ∧
      (∀ i, i < w.data.length / 4 → ofLe (rdBytes u.mem (locElec t k (w.lo + 4 * i)) 4) =
        elecWord w.kind (ofLe (rdBytes s.mem (locElec t k (w.lo + 4 * i)) 4)) (ofLe ((w.data.drop (4 * i)).take 4))) ∧
      (∀ a, (a < locElec t k w.lo ∨ locElec t k (w.lo + w.data.length) ≤ a) → rdByte u.mem a = rdByte s.mem a) ∧
      (u.tower t).applied = X.applied.set k (X.base + n + 1) ∧
      (u.tower t).base + (u.tower t).log.length = X.base + X.log.length ∧ u.harts = s.harts ∧ u.cores = s.cores ∧
      ∀ j, j ≠ t → u.tower j = s.tower j)

/-- R230, R231, R322, R156: a layer that has met the condition for SLPDLY cycles sleeps, with its scalar data caches empty and no byte of
memory changed; a sleeping layer that is needed is powered 60,000 cycles later; it then hears every slot, and counts each, and 4096
cycles later its replica holds the master's bytes, with its count at the order's, and the layer is active. A return of power or a wake
completion before its time is no change (log entry 11). -/
def Obligations.LayerPower : Prop :=
  ∀ (s : State) (t k : Nat), k < 8 →
    let X := s.tower t
    X.layers.length = 8 → X.idleSince.length = 8 → X.applied.length = 9 →
    (∀ n, X.idleSince.getD k none = some n → s.power.slpdly ≤ s.time - n → X.layers.getD k .sleep = .active → s.layerIdle t k = true →
      ∃ u, exec (.layerSleep t k) s = .next u ∧ (u.tower t).layers = X.layers.set k .sleep ∧
        (u.tower t).idleSince = X.idleSince.set k none ∧ u.mem = s.mem ∧ u.harts = s.harts ∧
        (∀ c line, c / 64 = t → c % 8 = k → u.dcOf c line = .I)) ∧
    (X.layers.getD k .active = .sleep → s.layerNeeded t k = true → ∃ u, exec (.layerWakeRequest t k) s = .next u ∧
      (u.tower t).layers = X.layers.set k (.powering (s.time + 60000)) ∧ u.mem = s.mem ∧ u.harts = s.harts) ∧
    (∀ n, X.layers.getD k .active = .powering n →
      (n ≤ s.time → ∃ u, exec (.layerPowerReturn t k) s = .next u ∧ (u.tower t).layers = X.layers.set k (.listening s.time) ∧
        nth (u.tower t).applied k = X.base + X.log.length ∧ u.mem = s.mem) ∧
      (s.time < n → exec (.layerPowerReturn t k) s = .next s)) ∧
    (∀ n, X.layers.getD k .active = .listening n →
      (nth X.applied k < X.base + X.log.length → ∃ u, exec (.electrumApply t k) s = .next u ∧
        (u.tower t).applied = X.applied.set k (nth X.applied k + 1) ∧ u.mem = s.mem ∧ u.harts = s.harts) ∧
      (n + 4096 ≤ s.time → nth X.applied 8 = X.base + X.log.length → nth X.applied k ≤ X.base + X.log.length → ∃ u, exec (.wakeComplete t k) s = .next u ∧
        (u.tower t).layers = X.layers.set k .active ∧ nth (u.tower t).applied k = X.base + X.log.length ∧
        (∀ o, o < 2 ^ 18 → rdByte u.mem (locElec t k o) = rdByte s.mem (locElec t 8 o)) ∧
        (∀ a, (a < locElec t k 0 ∨ locElec t k 0 + 2 ^ 18 ≤ a) → rdByte u.mem a = rdByte s.mem a)) ∧
      (s.time < n + 4096 → exec (.wakeComplete t k) s = .next s))

/-- R158 to R162: at a home bank that holds the line and has no transaction of it open, a GetS makes the requester owner of an
uncached line, adds it to the sharers, or asks the owner to step down; a GetX or Upg gives ownership when no other core has a
copy, and else invalidates the sharers or recalls the owner; the last answer closes the transaction and grants it; a Put of the
owner frees the entry and is acknowledged, and one that meets a Down or FwdX is its answer, but none to an Inv. No byte of memory and no
register changes. -/
def Obligations.DirectoryTransitions : Prop :=
  (∀ (i : Instr) (s : State) (core line : Nat) (m : CMsg) (q : Bool) (o : Option (Nat × Nat)) (r : List Packet),
    let d := s.dirOf line
    (i = .dirGets core line ∧ m = .getS ∨ i = .dirGetx core line ∧ m = .getX ∨ i = .dirUpg core line ∧ m = .upg) →
    sfind s.txns line = none → s.llcValid line = true → s.toBank = ⟨core, line, m, q, o⟩ :: r →
    ∃ t, exec i s = .next t ∧ t.toBank = r ∧ t.mem = s.mem ∧ t.harts = s.harts ∧ t.cores = s.cores ∧ s.txnsBut t line ∧
      (∀ l, l ≠ line → t.dirOf l = s.dirOf l) ∧
      (let grants (e : DirEnt) (a : CMsg) : Prop :=
         t.dirOf line = e ∧ t.toCore = s.toCore ++ [⟨core, line, a, false, none⟩] ∧ sfind t.txns line = none
       let asks (f : CMsg) (own : Option Nat) (dst : List Nat) : Prop :=
         t.dirOf line = d ∧ t.toCore = s.toCore ++ dst.map (fun c => ⟨c, line, f, false, none⟩) ∧
         sfind t.txns line = some { core := core, req := m, fwd := f, waiting := dst, own := own, ptr := q }
       let others := (s.sharers line d).filter (fun c => decide (c ≠ core))
       (m = .getS → d.st = 0 → grants ⟨2, core, 0, 0⟩ .replyE) ∧
       (m = .getS → d.st = 1 → grants (dirAdd line core d) .replyS) ∧
       (m = .getS → d.st = 2 → asks .down (some d.own) [d.own]) ∧
       (m ≠ .getS → (d.st = 0 ∨ d.st = 1 ∧ others = [] ∨ d.st = 2 ∧ d.own = core) → grants ⟨2, core, 0, 0⟩ .replyM) ∧
       (m ≠ .getS → d.st = 1 → others ≠ [] → asks .inv none others) ∧
       (m ≠ .getS → d.st = 2 → d.own ≠ core → asks .fwdX (some d.own) [d.own]))) ∧
  (∀ (s : State) (core line : Nat) (m : CMsg) (q : Bool) (o : Option (Nat × Nat)) (x : Txn) (r : List Packet), (m = .ack ∨ m = .ackData) →
    sfind s.txns line = some x → s.toBank = ⟨core, line, m, q, o⟩ :: r →
    ∃ t, exec (.dirAck core line) s = .next t ∧ t.toBank = r ∧ t.mem = s.mem ∧ t.harts = s.harts ∧ t.cores = s.cores ∧
      s.txnsBut t line ∧
      (x.waiting.erase core ≠ [] → sfind t.txns line = some { x with waiting := x.waiting.erase core } ∧ t.dir = s.dir ∧
        t.toCore = s.toCore) ∧
      (x.waiting.erase core = [] → sfind t.txns line = none ∧ t.llcValid line = true ∧
        (x.req = .getS → t.toCore = s.toCore ++ [⟨x.core, line, .replyS, false, none⟩] ∧
          t.dirOf line = dirAdd line x.core (match x.own with
            | some o => dirAdd line o ⟨1, 0, 0, 0⟩
            | none => ⟨1, 0, 0, 0⟩)) ∧
        (x.req ≠ .getS → t.toCore = s.toCore ++ [⟨x.core, line, .replyM, false, none⟩] ∧ t.dirOf line = ⟨2, x.core, 0, 0⟩))) ∧
  (∀ (s : State) (core line : Nat) (m : CMsg) (q : Bool) (o : Option (Nat × Nat)) (r : List Packet), (m = .putE ∨ m = .putM) →
    s.toBank = ⟨core, line, m, q, o⟩ :: r →
    (sfind s.txns line = none → ∃ t, exec (.dirPut core line) s = .next t ∧ t.toBank = r ∧
      t.toCore = s.toCore ++ [⟨core, line, .putAck, false, none⟩] ∧ t.mem = s.mem ∧ t.harts = s.harts ∧ t.cores = s.cores ∧
      t.dirOf line = (if (s.dirOf line).st = 2 ∧ (s.dirOf line).own = core then ⟨0, 0, 0, 0⟩ else s.dirOf line)) ∧
    (∀ x, sfind s.txns line = some x → x.waiting = [core] → x.fwd ≠ .inv → x.req ≠ .getS →
      ∃ t, exec (.dirPut core line) s = .next t ∧ sfind t.txns line = none ∧ t.dirOf line = ⟨2, x.core, 0, 0⟩ ∧
        ⟨core, line, .putAck, false, none⟩ ∈ t.toCore ∧ ⟨x.core, line, .replyM, false, none⟩ ∈ t.toCore ∧ t.mem = s.mem) ∧
    (∀ x, sfind s.txns line = some x → x.waiting = [core] → x.fwd = .down → x.req = .getS →
      ∃ t, exec (.dirPut core line) s = .next t ∧ sfind t.txns line = none ∧
        t.dirOf line = dirAdd line x.core (match x.own with
          | some o => dirAdd line o ⟨1, 0, 0, 0⟩
          | none => ⟨1, 0, 0, 0⟩) ∧
        ⟨core, line, .putAck, false, none⟩ ∈ t.toCore ∧ ⟨x.core, line, .replyS, false, none⟩ ∈ t.toCore ∧ t.mem = s.mem ∧ t.harts = s.harts) ∧
    (∀ x, sfind s.txns line = some x → x.fwd = .inv → ∃ t, exec (.dirPut core line) s = .next t ∧ t.toBank = r ∧ t.txns = s.txns ∧
      t.dir = s.dir ∧ t.toCore = s.toCore ++ [⟨core, line, .putAck, false, none⟩] ∧ t.mem = s.mem))

/-- R155 to R157, R161: a forward at a scalar data cache leaves the line invalid, or shared for a Down of a line it holds, and is
answered, with data from M; a reply brings the line in E, S or M, lets a load in flight for it return with the line's value, and, in E or
M, a store in flight for it be performed, which leaves the line in M; a store that finds it in S asks to own it; a superblock that leaves the cache sends PutM or PutE for
its lines in M or E; a superblock that leaves its last-level bank is recalled from every directory entry, its dirty lines keep their
values and its clean lines take the backing memory's. That caches hold states only, with the coherent value in memory, and that a clean
line takes the backing memory's bytes when it leaves, is the model's way (log entry 12). -/
def Obligations.CacheTransitions : Prop :=
  (∀ (i : Instr) (s : State) (core line : Nat) (m : CMsg) (q : Bool) (o : Option (Nat × Nat)) (r : List Packet),
    (i = .dcInv core line ∧ m = .inv ∨ i = .dcDown core line ∧ m = .down ∨ i = .dcFwdx core line ∧ m = .fwdX) →
    s.toCore = ⟨core, line, m, q, o⟩ :: r →
    ∃ t, exec i s = .next t ∧ t.toCore = r ∧ t.mem = s.mem ∧ t.harts = s.harts ∧ t.dir = s.dir ∧
      t.dcOf core line = (if m = .down ∧ s.dcOf core line ≠ .I then .S else .I) ∧
      (∀ c l, (c ≠ core ∨ l ≠ line) → t.dcOf c l = s.dcOf c l) ∧
      t.toBank = s.toBank ++ [⟨core, line, if s.dcOf core line = .M then .ackData else .ack, false, none⟩]) ∧
  (∀ (s : State) (core line : Nat) (m : CMsg) (x : DcState) (q : Bool) (o : Option (Nat × Nat)) (r : List Packet),
    (m = .replyE ∧ x = .E ∨ m = .replyS ∧ x = .S ∨ m = .replyM ∧ x = .M) → s.toCore = ⟨core, line, m, q, o⟩ :: r →
    s.dcSpace core line →
    (s.quietCore core none → ∃ t, exec (.dcReply core line) s = .next t ∧ t.toCore = r ∧
      t.dcOf core line = x ∧ t.mem = s.mem ∧ t.harts = s.harts ∧ t.dir = s.dir) ∧
    (∀ h d sgn a, coreOf h = core → s.quietCore core (some h) → s.dbgOf h = false → (∀ c, (s.hart h).run ≠ .frozen c) →
      (s.hart h).load = some (d, sgn, a) → (s.hart h).pend = [] → a.slice = false → a.loc < 2 ^ 56 → a.loc / 64 = line →
      ∃ t, exec (.dcReply core line) s = .next t ∧ t.toCore = r ∧ t.dcOf core line = x ∧ t.mem = s.mem ∧ s.othersSame t h ∧
        t.hart h = { s.hart h with load := none, ctx := (s.ctx h).setP d (memVal s.mem a.loc a.size sgn) }) ∧
    (∀ h a, coreOf h = core → s.quietCore core (some h) → (s.hart h).load = none → (s.hart h).pend = [a] →
      a.slice = false → a.loc / 64 = line →
      (x ≠ .S → ∃ t, exec (.dcReply core line) s = .next t ∧ t.toCore = r ∧ t.dcOf core line = .M ∧
        t.mem = wrBytes s.mem a.loc (leBytes a.size a.data) ∧ s.othersSame t h ∧ t.hart h = { s.hart h with pend := [] }) ∧
      (x = .S → sfind s.txns line = none → (∀ p ∈ s.toBank ++ r, ¬ (p.core = core ∧ p.line = line)) →
        ∃ t, exec (.dcReply core line) s = .next t ∧ t.toCore = r ∧ t.dcOf core line = .S ∧ t.mem = s.mem ∧ t.harts = s.harts ∧
          t.toBank = s.toBank ++ [⟨core, line, .upg, a.pointer, some a.own⟩]))) ∧
  (∀ (s : State) (core sb : Nat), ∃ t, exec (.dcSuperblockEviction core sb) s = .next t ∧ t.mem = s.mem ∧ t.harts = s.harts ∧
    t.dir = s.dir ∧ (∀ l ∈ s.sbLines sb, t.dcOf core l = .I) ∧ (∀ c l, (c ≠ core ∨ l ∉ s.sbLines sb) → t.dcOf c l = s.dcOf c l) ∧
    t.toBank = s.toBank ++ (s.sbLines sb).filterMap (fun l => if s.dcOf core l = .M then some ⟨core, l, .putM, false, none⟩
      else if s.dcOf core l = .E then some ⟨core, l, .putE, false, none⟩ else none)) ∧
  (∀ (s : State) (sb : Nat), (sfind s.llc sb).isSome = true → (∀ l ∈ s.sbLines sb, s.lineBusy l = false) →
    ∃ t, exec (.llcSuperblockEviction sb) s = .next t ∧ sfind t.llc sb = none ∧ t.harts = s.harts ∧
      (∀ l ∈ s.sbLines sb, t.dirOf l = ⟨0, 0, 0, 0⟩ ∧ l ∉ t.dirty ∧ sfind t.stale l = none) ∧
      (∀ x, s.settled x ∨ x / 64 ∉ s.sbLines sb → rdByte t.mem x = rdByte s.mem x) ∧
      (∀ x bs, x / 64 ∈ s.sbLines sb → x / 64 ∉ s.dirty → sfind s.stale (x / 64) = some bs → bs.length = 64 →
        rdByte t.mem x = bs.getD (x % 64) 0))

/-- R160, R167, R169, R172, R312, R314: a scalar load, store or atomic on its way to a slice is performed there: the load and the atomic
write the word of memory to rd, the store and the atomic write theirs, and no other settled byte changes. A host requester that is
not frozen and not translated, and another package, read, write and update memory of this package in the same way and receive the
old value; that the other package is answered as requester 256 is the model's choice (log entry 15). A frozen requester receives an
error; a requester reads and writes the words of the register space. R170, R292, R317, R326: an exhausted link, an error that a
remote package reports, and an uncorrectable error here, at an access of the scalar unit of a hart that runs with nothing queued, freeze
the hart with event codes 0x29, 0x29 and 0x28 before the access takes effect, a load in flight staying so and a store not being
performed; the last makes its unit lasting (log entry 39). R292, R294: such an error at a store whose task has been swapped out drops the
store and is kept for that task, with the hart's new task undisturbed. R314: at a request of a requester it freezes the requester and
completes its request with an error. -/
def Obligations.SliceAndBusAccesses : Prop :=
  (∀ (s : State) (h : Nat), s.dbgOf h = false → s.calm →
    (∀ d sgn a, (∀ c, (s.hart h).run ≠ .frozen c) → (s.hart h).load = some (d, sgn, a) → a.slice = true → s.accBusy a.loc a.size = false →
      ∃ t n, exec (.sliceRead h) s = .next t ∧ s.othersSame t h ∧ (∀ x, s.settled x → rdByte t.mem x = rdByte s.mem x) ∧
        t.hart h = { s.hart h with
          load := none, ctx := { s.ctx h with elecSeen := n }.setP d (memVal t.mem a.loc a.size sgn) }) ∧
    (∀ a, (s.hart h).pend.find? (·.slice) = some a → s.accBusy a.loc a.size = false →
      ∃ t, exec (.sliceWrite h) s = .next t ∧ s.stored t a.loc a.size a.data ∧ s.othersSame t h ∧
        (t.hart h).pend = (s.hart h).pend.erase a ∧ (t.ctx h).regs = (s.ctx h).regs ∧ (t.ctx h).pc = (s.ctx h).pc) ∧
    (∀ d op b c order scope a, (s.hart h).run = .running → (s.hart h).wait = some (.amo d op b c order scope a) →
      s.accBusy a.loc a.size = false → (op = 15 ∨ op ≤ 9) →
      ∃ t old, exec (.sliceAtomic h) s = .next t ∧ s.othersSame t h ∧ s.stored t a.loc a.size (atomicNew op a.size old b c) ∧
        ((∀ k, k < a.size → s.settled (a.loc + k)) → old = ofLe (rdBytes s.mem a.loc a.size)) ∧
        { t.ctx h with lastS := (s.ctx h).lastS, elecSeen := (s.ctx h).elecSeen, gates := (s.ctx h).gates } =
          ((s.ctx h).setS d (BitVec.ofNat 64 old)).advance 4 ∧ (t.hart h).wait = none)) ∧
  (∀ (i : Instr) (s : State) (r : Nat) (acc : BusAccess),
    (i = .remoteAccess acc ∧ r = 256 ∧ acc.addr % 2 ^ 40 + acc.size ≤ hostBase ∨
     i = .hostRequest r acc ∧ acc.direct = false ∧ s.port.held = [] ∧ rdNum s.mem (s.port.rqBase + 16 * r + 8) 8 % 2 ^ 2 = 0) →
    s.boot.fail = 0 → s.calm → s.plain acc →
    let said (t : State) (v : Nat) : Prop := t.port.reply = (r, false, v) :: s.port.reply
    ∃ t old, exec i s = .next t ∧ t.harts = s.harts ∧
      ((∀ k, k < acc.size → s.settled (acc.addr + k)) → old = ofLe (rdBytes s.mem acc.addr acc.size)) ∧
      (acc.kind = .read → said t old ∧ (∀ x, s.settled x → rdByte t.mem x = rdByte s.mem x)) ∧
      (acc.kind = .write → said t 0 ∧ s.stored t acc.addr acc.size acc.data) ∧
      (acc.kind = .atomic → said t old ∧
        s.stored t acc.addr acc.size (atomicNew acc.op acc.size old
          (BitVec.ofNat 64 (if acc.op = 15 then acc.cmp else acc.data)) (BitVec.ofNat 64 acc.data)))) ∧
  (∀ (s : State) (r : Nat) (acc : BusAccess), acc.direct = false → s.port.held = [] → s.boot.fail = 0 →
    let w := rdNum s.mem (s.port.rqBase + 16 * r + 8) 8
    (w.testBit 1 = true → ∃ t, exec (.hostRequest r acc) s = .next t ∧ t.port.reply = (r, true, 0) :: s.port.reply ∧ t.mem = s.mem ∧
      t.harts = s.harts) ∧
    (w % 2 ^ 2 = 0 → acc.size = 8 → acc.addr % 8 = 0 → acc.addr / 2 ^ 40 = s.pkg → acc.addr < 2 ^ 56 → regBase ≤ acc.addr % 2 ^ 40 →
      acc.addr % 2 ^ 40 + 8 ≤ regEnd →
      let off := acc.addr % 2 ^ 40 - regBase
      (acc.kind = .read → ∃ t, exec (.hostRequest r acc) s = .next t ∧ t.port.reply = (r, false, s.regRead off) :: s.port.reply ∧
        t.mem = s.mem ∧ t.harts = s.harts) ∧
      (acc.kind = .write → ∃ t, exec (.hostRequest r acc) s = .next t ∧
        t.port.reply = (r, false, 0) :: (s.regWrite off (BitVec.ofNat 64 acc.data)).port.reply ∧
        { t with port := { t.port with reply := s.port.reply } } = { s.regWrite off (BitVec.ofNat 64 acc.data) with
          port := { (s.regWrite off (BitVec.ofNat 64 acc.data)).port with reply := s.port.reply } }))) ∧
  (∀ (s : State) (h code : Nat) (i : Instr) (u : ErrUnit) (a : ErrAccess),
    (i = .linkReplayExhausted ⟨.hart h, a⟩ ∧ code = 0x29 ∨ i = .uncorrectableError (.hart h) u (.remote a) ∧ code = 0x29 ∨
     i = .uncorrectableError (.hart h) u (.access a) ∧ code = 0x28) →
    (s.hart h).run = .running → (s.hart h).task.isSome = true → (s.ctx h).vq = [] →
    ((s.hart h).load = none ∨ a.entry = none ∧ a.kind ≠ .write ∧ ∃ x, (s.hart h).load = some x ∧ x.2.2.va = a.va) →
    let store := if a.kind = .write ∧ a.entry = none then (s.hart h).pend.find? (fun p => p.va == a.va) else none
    (∀ p, store = some p → p.task = (s.hart h).task) →
    ∃ t, exec i s = .next t ∧ (t.hart h).run = .frozen code ∧ (t.ctx h).pc = (s.ctx h).pc ∧ (t.ctx h).regs = (s.ctx h).regs ∧
      (t.hart h).load = (s.hart h).load ∧ (s.calm → ∀ p, store = some p → (t.hart h).pend = (s.hart h).pend.erase p) ∧
      (code = 0x28 → u ∈ t.ras.lasting) ∧ (code = 0x29 → t.ras = s.ras)) ∧
  (∀ (s : State) (h T : Nat) (i : Instr) (u : ErrUnit) (a : ErrAccess) (p : Pend) (k : Task) (v : Saved),
    (i = .linkReplayExhausted ⟨.hart h, a⟩ ∨ i = .uncorrectableError (.hart h) u (.remote a)) → a.kind = .write → a.entry = none →
    (s.hart h).pend.find? (fun p => p.va == a.va) = some p → p.task = some T → (s.hart h).task ≠ some T →
    sfind s.sched.tasks T = some k → k.saved = some v →
    ∃ t d, exec i s = .next t ∧ t.hart h = { s.hart h with pend := (s.hart h).pend.erase p } ∧ s.othersSame t h ∧ t.mem = s.mem ∧
      sfind t.sched.tasks T = some { k with saved := some { v with ctx := { v.ctx with dueStop := some d } } } ∧
      (v.ctx.dueStop = none → d.code = 0x29 ∧ d.va = a.va ∧ d.pc = p.ins ∧ d.entry = none) ∧ ∀ d0, v.ctx.dueStop = some d0 → d = d0) ∧
  (∀ (s : State) (r : Nat) (i : Instr) (u : ErrUnit) (a : ErrAccess),
    (i = .linkReplayExhausted ⟨.requester r, a⟩ ∨ i = .uncorrectableError (.requester r) u (.remote a)) →
    ∃ t l, exec i s = .next t ∧ t.port.reply = (r, true, 0) :: l ∧ (rdNum t.mem (t.port.rqBase + 16 * r + 8) 8).testBit 1 = true)

/-- R296 to R300, R305, R306, R308: an entry of a served queue is taken: a wait, a launch made from its valid block, or a graph, whose
nodes without predecessors are tried at once; HEAD rises past it. R297: a wait entry that may start reads its word, and completes when
it has reached the threshold; a second one with SER 0 reads too once the first has. R187, R306: a node that is ready reads its
predicate, once; it launches its block, or completes without one, and a successor that it makes ready does the same at that instant.
That a node tried again after a stop needs EN is the model's choice (log entry 38), and that a wait's first read starts it (log entry
37). -/
def Obligations.QueueEntries : Prop :=
  (∀ (s : State) (q head : Nat) (w : List Word), s.nextEntry q head w → s.calm →
    let ser := (wnth w 0).testBit 4
    let root := s.desc q 1 / 2 ^ 12 % 2 ^ 44 * 2 ^ 12
    wnth w 0 < 2 ^ 5 → wnth w 3 = 0 →
    (wnth w 0 % 2 ^ 4 = 3 → wnth w 1 % 8 = 0 → ∃ t, exec (.ringEntryTake q) s = .next t ∧
      s.took t q head ser (.wait (wnth w 1) (wnth w 2) false) ∧ t.harts = s.harts ∧ t.sched.launches = s.sched.launches) ∧
    (∀ b s1, wnth w 0 % 2 ^ 4 = 1 → wnth w 2 = 0 → (readBlock root (wnth w 1)).run s = .ok b s1 →
      ∃ t l, exec (.ringEntryTake q) s = .next t ∧ s.took t q head ser (.launch s1.nextSeq) ∧ s1.nextSeq ≠ 0 ∧
        sfind t.sched.launches s1.nextSeq = some l ∧ blockBad b = false ∧
        l.madeFrom b (s.desc q 1 % 2 ^ 3) root ((s.desc q 1).testBit 5) (.queue q)) ∧
    (∀ b nodes s1, wnth w 0 % 2 ^ 4 = 2 → wnth w 2 = 0 → (readGraph root (wnth w 1)).run s = .ok (b, nodes) s1 →
      let first := (List.range nodes.length).filter (fun n => nodes[n]?.any (fun x => x.npred == 0))
      ∃ u g, s.took u q head ser (.graph s1.nextSeq) ∧ s1.nextSeq ≠ 0 ∧
        sfind u.sched.graphs s1.nextSeq = some g ∧ graphBad b = false ∧ g.nodes = nodes ∧ g.root = root ∧ g.wq = q ∧
        g.maxp = s.desc q 1 % 2 ^ 3 ∧ g.compl = wnth b 1 ∧ g.abort = none ∧
        ∀ t, State.nodesTried q s1.nextSeq first u t → exec (.ringEntryTake q) s = .next t)) ∧
  (∀ (s s1 : State) (q : Nat) (i : WqItem) (l : List WqItem) (a thr : Nat) (b : Bool) (v : Word), (s.desc q 1).testBit 4 = true → s.calm →
    (s.wq q).items = i :: l → i ∉ l → i.work = .wait a thr b →
    (schedRead (s.desc q 1 / 2 ^ 12 % 2 ^ 44 * 2 ^ 12) a).run s = .ok v s1 →
    ((∀ x ∈ l, x.work.isWait = false) → ∃ t, exec (.waitEntryComplete q) s = .next t ∧ t.mem = s1.mem ∧ t.harts = s.harts ∧
      (t.wq q).items = if thr ≤ v.toNat then l else { i with work := .wait a thr true } :: l) ∧
    (∀ j a2 thr2 b2 v2 s2, l = [j] → j.idx ≠ i.idx → j.ser = false → j.work = .wait a2 thr2 b2 → v.toNat < thr →
      let i' : WqItem := { i with work := .wait a thr true }
      let u := s1.modWq q (fun w => { w with items := [i', j] })
      (u.desc q 1).testBit 4 = true → (schedRead (u.desc q 1 / 2 ^ 12 % 2 ^ 44 * 2 ^ 12) a2).run u = .ok v2 s2 →
      ∃ t, exec (.waitEntryComplete q) s = .next t ∧ t.harts = s.harts ∧
        (t.wq q).items = i' :: if thr2 ≤ v2.toNat then [] else [{ j with work := .wait a2 thr2 true }])) ∧
  (∀ (s : State) (seq n : Nat) (g : Graph) (x : GNode), sfind s.sched.graphs seq = some g → (s.desc g.wq 1).testBit 4 = true →
    g.nodes[n]? = some x → x.npred ≤ x.got → g.abort = none → n ∉ x.succ → s.calm →
    (x.state = .ready → ∀ b s1, (readBlock g.root x.block).run s = .ok b s1 →
      ∃ t y l, exec (.graphNodeReady seq n) s = .next t ∧ sfind t.sched.graphs seq = some y ∧
        y.nodes[n]? = some { x with state := .run s1.nextSeq } ∧ sfind t.sched.launches s1.nextSeq = some l ∧
        l.madeFrom b g.maxp g.root g.tlbm (.node seq n)) ∧
    (∀ go s1, x.state = .waiting → s.predicate s1 g x go →
      (∀ b s2, go = true → x.block ≠ 0 → (readBlock g.root x.block).run s1 = .ok b s2 →
        ∃ t y l, exec (.graphNodeReady seq n) s = .next t ∧ sfind t.sched.graphs seq = some y ∧
          y.nodes[n]? = some { x with state := .run s2.nextSeq } ∧ sfind t.sched.launches s2.nextSeq = some l ∧
          l.madeFrom b g.maxp g.root g.tlbm (.node seq n)) ∧
      (go = false ∨ x.block = 0 →
        ((∀ k, ¬ g.madeReady x k) → ∃ t, exec (.graphNodeReady seq n) s = .next t ∧ t.mem = s1.mem ∧ t.harts = s.harts ∧
          s.nodeClosed t seq n x) ∧
        (∀ k z b s2, (∀ j, g.madeReady x j ↔ j = k) → g.nodes[k]? = some z → z.pred = 0 → z.block ≠ 0 →
          (readBlock g.root z.block).run (s1.modGraph seq (fun g => g.nodeDone n)) = .ok b s2 →
          ∃ t y l, exec (.graphNodeReady seq n) s = .next t ∧ sfind t.sched.graphs seq = some y ∧
            y.nodes[n]? = some { x with state := .done } ∧
            y.nodes[k]? = some { z with got := z.got + x.succ.count k, state := .run s2.nextSeq } ∧
            sfind t.sched.launches s2.nextSeq = some l ∧ l.madeFrom b g.maxp g.root g.tlbm (.node seq k)))))

/-- R56, R57, R301: the next group of a launch that may start is placed on a group of its level that has room, and its tasks begin
together, each with the entry, its group, index and size, and the argument. R303: the effective priority of a group or a saved task rises
by one with every 2^20 cycles since its submission or its swap, up to 7, and the ageing event changes it no further. R309, R310: a launch
whose tasks have all ended, a graph whose nodes are all done, and an abort of either leave the machine with their completion words; an
abort leaves no task of its launch, and the end of a graph node's launch closes its node. R309, R311: with IRQ the completion raises its
vector, unless a window of it is open, which notes it. R311: a window without completions ends, one with completions raises one interrupt
and opens the next. That an event before its
time changes nothing is the model's choice (log entry 11), and so are the places that a group receives (log entry 34). -/
def Obligations.GroupsAndCompletions : Prop :=
  (∀ (s : State) (seq place : Nat) (l : Launch),
    let ms := s.members l.par.level place
    sfind s.sched.launches seq = some l → s.waitingGroup seq place = [] → s.wants seq l = true → s.neverFits l = false →
    s.canPlace seq l place s.slotFree = true → s.outranked seq l place = false → l.par.eslot = 0 → l.towers = [] → ms.Nodup →
    (∀ n, s.sched.nextTask ≤ n → sfind s.sched.tasks n = none) →
    ∃ t y, exec (.groupStart seq place) s = .next t ∧ sfind t.sched.launches seq = some y ∧ y.next = l.next + 1 ∧
      y.started = l.started + ms.length ∧
      (∀ j h, ms[j]? = some h → (t.hart h).run = .running ∧ (t.hart h).wait = none ∧ (t.hart h).task = some (s.sched.nextTask + j) ∧
        { t.ctx h with regs := [] } = { Ctx.init with pc := BitVec.ofNat 56 l.par.entry } ∧
        (∀ p, (t.ctx h).getP p = if p = 1 then BitVec.ofNat 64 l.next else if p = 2 then BitVec.ofNat 64 j
          else if p = 3 then BitVec.ofNat 64 ms.length else if p = 4 then l.par.arg else 0) ∧
        ∃ k, sfind t.sched.tasks (s.sched.nextTask + j) = some k ∧ k.launch = seq ∧ k.hart = h ∧ k.saved = none) ∧
      (∀ h, h ∉ ms → t.hart h = s.hart h)) ∧
  (∀ (s : State) (k : Nat),
    (∀ x v l, sfind s.sched.tasks k = some x → x.saved = some v → sfind s.sched.launches x.launch = some l →
      v.aged ≤ (s.time - v.since) / 2 ^ 20 → s.savedPrio k = min 7 (l.prio + (s.time - v.since) / 2 ^ 20) ∧
      ∃ t, exec (.priorityAgeing true k) s = .next t ∧ t.savedPrio k = s.savedPrio k ∧ t.harts = s.harts ∧ t.mem = s.mem) ∧
    (∀ l, sfind s.sched.launches k = some l → l.aged ≤ (s.time - l.since) / 2 ^ 20 →
      s.groupPrio l = min 7 (l.prio + (s.time - l.since) / 2 ^ 20) ∧
      ∃ t y, exec (.priorityAgeing false k) s = .next t ∧ sfind t.sched.launches k = some y ∧ t.groupPrio y = s.groupPrio l ∧
        t.harts = s.harts ∧ t.mem = s.mem)) ∧
  (∀ (s : State) (seq : Nat) (l : Launch), sfind s.sched.launches seq = some l → l.par.irq = false → s.calm →
    (l.par.compl = 0 ∨ ∃ x s1, (schedLoc l.root l.par.compl .write).run (s.dropLaunch seq) = .ok x s1) →
    (l.abort = none → l.next = l.par.groups → l.started = l.ended →
      ((∀ g n, l.src ≠ .node g n) → ∃ t, exec (.launchComplete seq) s = .next t ∧
        sfind t.sched.launches seq = none ∧ t.harts = s.harts ∧ t.sched.tasks = s.sched.tasks ∧
        (s.dropLaunch seq).reported t l.root l.par.compl (2 ^ 60 + seq)) ∧
      (∀ g n y x, l.src = .node g n → sfind s.sched.graphs g = some y → y.nodes[n]? = some x → n ∉ x.succ → (∀ k, ¬ y.madeReady x k) →
        ∃ t, exec (.launchComplete seq) s = .next t ∧ sfind t.sched.launches seq = none ∧ t.harts = s.harts ∧
          t.sched.tasks = s.sched.tasks ∧ (s.dropLaunch seq).reported t l.root l.par.compl (2 ^ 60 + seq) ∧ s.nodeClosed t g n x)) ∧
    (∀ cause n, l.abort = some (cause, n) →
      (l.par.compl = 0 → ∃ t, exec (.abortComplete seq) s = .next t ∧
        sfind t.sched.launches seq = none ∧ ∀ k x, sfind t.sched.tasks k = some x → x.launch ≠ seq) ∧
      ((∀ e ∈ s.sched.tasks, e.2.launch ≠ seq) → ∃ t, exec (.abortComplete seq) s = .next t ∧ sfind t.sched.launches seq = none ∧
        (s.dropLaunch seq).reported t l.root l.par.compl (2 * 2 ^ 60 + cause * 2 ^ 48 + seq)))) ∧
  (∀ (s : State) (seq : Nat) (g : Graph), sfind s.sched.launches seq = none → sfind s.sched.graphs seq = some g → s.calm →
    let s0 : State := { s with sched := { s.sched with graphs := serase s.sched.graphs seq } }
    (g.irq = false → (g.compl = 0 ∨ ∃ x s1, (schedLoc g.root g.compl .write).run s0 = .ok x s1) →
      (g.abort = none → (∀ x ∈ g.nodes, x.state = .done) → ∃ t, exec (.launchComplete seq) s = .next t ∧
        sfind t.sched.graphs seq = none ∧ t.harts = s.harts ∧ s0.reported t g.root g.compl (2 ^ 60 + seq) ∧
        (g.compl = 0 → t.mem = s.mem)) ∧
      (∀ cause n, g.abort = some (cause, n) →
        (∀ x ∈ g.nodes, ∀ k, x.state = .run k → sfind s.sched.launches k = none) → ∃ t, exec (.abortComplete seq) s = .next t ∧
          sfind t.sched.graphs seq = none ∧ t.harts = s.harts ∧
          s0.reported t g.root g.compl (2 * 2 ^ 60 + cause * 2 ^ 48 + seq))) ∧
    (g.irq = true → g.compl = 0 → g.abort = none → (∀ x ∈ g.nodes, x.state = .done) → ∃ t, exec (.launchComplete seq) s = .next t ∧
      sfind t.sched.graphs seq = none ∧ s.interrupted t g.vec)) ∧
  (∀ (s : State) (seq : Nat) (l : Launch), sfind s.sched.launches seq = some l → l.par.irq = true → l.par.compl = 0 →
    (∀ g n, l.src ≠ .node g n) →
    (l.abort = none → l.next = l.par.groups → l.started = l.ended → ∃ t, exec (.launchComplete seq) s = .next t ∧
      sfind t.sched.launches seq = none ∧ s.interrupted t l.par.vec) ∧
    (∀ cause n, l.abort = some (cause, n) → (∀ e ∈ s.sched.tasks, e.2.launch ≠ seq) → ∃ t, exec (.abortComplete seq) s = .next t ∧
      sfind t.sched.launches seq = none ∧ s.interrupted t l.par.vec)) ∧
  (∀ (s : State) (ev : Bool) (vec n : Nat) (arrived : Bool) (l : List ((Bool × Nat) × Nat × Bool)),
    s.irq.windows = ((ev, vec), n, arrived) :: l → (∀ w ∈ l, w.1 ≠ (ev, vec)) →
    (s.time < n → exec (.coalesceWindowExpiry ev vec) s = .next s) ∧
    (n ≤ s.time → arrived = false → ∃ t, exec (.coalesceWindowExpiry ev vec) s = .next t ∧ t.irq.windows = l ∧
      t.irq.sent = s.irq.sent ∧ t.mem = s.mem) ∧
    (n ≤ s.time → arrived = true → s.sched.ciwin ≠ 0 → ∃ t, exec (.coalesceWindowExpiry ev vec) s = .next t ∧
      t.irq.windows = l ++ [((ev, vec), n + s.sched.ciwin, false)] ∧
      let a := (if ev then s.irq.evtBase else s.irq.cmpBase) + 16 * vec
      let d := rdNum s.mem (a + 8) 8
      (d.testBit 32 = false → t.irq.sent = (rdNum s.mem a 8 / 4 * 4, d % 2 ^ 32) :: s.irq.sent) ∧
      (d.testBit 32 = true → (ev, vec) ∈ t.irq.pending ∧ t.irq.sent = s.irq.sent)))

/-- R58, R62, R65, R68, R69, R71, R110, R207, R288, R289, R293, R294, R304: a pre-emption saves the running task ready, with event code
0x10, and a task that waits on a held engine not ready, with 0x14, until the engine's record is acknowledged; a staging of another
hart's task is abandoned for it; neither happens while a CLEAN or CDROP is under way; on a frozen hart the engine's event is held. A
spill writes the context to its frame, word by word of Tables 9 to 11, and frees the bank (ESTART of more than 16 bits, and pair slots of
no fibre, are the model's choice: log entry 66); a staged context whose frame is intact continues on its
hart, one of class 3 frozen as it was evicted, one with a freeze due frozen by it. That a pre-emption without cause, or while the bank is
busy, changes nothing is the model's choice (log entry 11), and so is what remains open of the bank's use (log entry 35). -/
def Obligations.ContextSwitches : Prop :=
  (∀ (s : State) (h k : Nat) (x : Task), (s.hart h).task = some k → sfind s.sched.tasks k = some x → s.traced h = false →
    let cleaning : Prop := ∃ drop a n, (s.hart h).wait = some (.clean drop a n)
    (s.groupPreempts h = true ∨ s.savedPreempts h = true → (s.hart h).run = .running → ¬ cleaning →
      (s.bankFree h → (s.hart h).load = none →
        ∃ t, exec (.preemption h) s = .next t ∧ s.savedAs t h k 0x10 true none ∧ s.othersSame t h ∧ t.mem = s.mem) ∧
      (∀ j, (s.core (coreOf h)).bank = .outgoing j → exec (.preemption h) s = .next s)) ∧
    (s.groupPreempts h = false → s.savedPreempts h = false → exec (.preemption h) s = .next s) ∧
    (∀ n, s.heldRec h = some n → (s.hart h).run = .running → ¬ cleaning → s.bankFree h → (s.hart h).load = none →
      ∃ t, exec (.engineHoldSwap h) s = .next t ∧ s.savedAs t h k 0x14 false (some n) ∧ s.othersSame t h ∧ t.mem = s.mem) ∧
    ((s.hart h).run = .running → cleaning →
      exec (.preemption h) s = .next s ∧ exec (.engineHoldSwap h) s = .next s) ∧
    (∀ n code, s.heldRec h = some n → (s.hart h).run = .frozen code → ∃ t, exec (.engineHoldSwap h) s = .next t ∧
      t.hart h = { s.hart h with heldEvent := some 0x14 } ∧ s.othersSame t h ∧ s.restSame t)) ∧
  (∀ (s : State) (c k : Nat) (x : Task) (v : Saved), (s.core c).bank = .outgoing k → sfind s.sched.tasks k = some x →
    x.saved = some v → (∀ h, (s.hart h).task ≠ some k) → s.dbg.trOn = false → s.evictQuiet c →
    v.ctx.fits → s.maxvl c ≤ 2048 →
    ∃ t y, exec (.spillComplete c) s = .next t ∧ (sfind t.sched.tasks k).bind (·.saved) = some y ∧ y.spilled = true ∧ y.ctx = v.ctx ∧
      t.holdsContext (s.sched.frBase + 768 * 2 ^ 10 * x.frame) v (s.maxvl c) ∧ (t.core c).bank ≠ .outgoing k ∧
      ((∀ h, coreOf h = c → (∀ code, (s.hart h).run ≠ .stopped code) ∧ (s.hart h).evict = false) →
        (∀ e ∈ s.sched.tasks, coreOf e.2.hart = c → e.2.saved.all (fun v => !v.ready) = true) → (t.core c).bank = .empty)) ∧
  (∀ (s : State) (c k : Nat) (x : Task) (v : Saved), (s.core c).bank = .staging k → sfind s.sched.tasks k = some x →
    x.saved = some v → coreOf x.hart = c → (s.hart x.hart).task = none → (∀ h, (s.hart h).task ≠ some k) → s.dbg.trOn = false →
    s.keepsNone x.hart k → s.evictQuiet c →
    s.frameIntact (s.sched.frBase + 768 * 2 ^ 10 * x.frame) v.ctx (s.maxvl c) v.code v.cls v.stamp = true →
    (v.cls = 3 ∨ v.ctx.dueStop = none → ∃ t, exec (.stagingComplete c) s = .next t ∧ t.ctx x.hart = v.ctx ∧
      (t.hart x.hart).run = (if v.cls = 3 then .frozen v.code else .running) ∧ (t.hart x.hart).task = some k ∧
      (t.hart x.hart).wait = none ∧ (sfind t.sched.tasks k).bind (·.saved) = none ∧ t.mem = s.mem) ∧
    (∀ d, v.cls ≠ 3 → v.ctx.dueStop = some d → v.ctx.vq = [] → ∃ t, exec (.stagingComplete c) s = .next t ∧
      (t.hart x.hart).run = .frozen d.code ∧ (t.hart x.hart).task = some k ∧
      (sfind t.sched.tasks k).bind (·.saved) = none))

/-- R283, R295, R312, R314, R316, R322 to R325, R327, R329: where nothing restricts a write, every control register reads back the fields of
its layout after a write, by the general write or by its own event; no other register, no hart and no byte of memory changes. R297: a
doorbell within the ring sets the tail, and another is discarded. R310: SCABORT begins the abort of the launch with its handle.
R287: an acknowledgement of a record makes the saved task that waits for it ready. R319: after a failed boot no write outside the identity
block takes effect. R320, R327, R328: GO captures the nonce, and the report is written with BSTS, CFGVER, the digests of the image and of
the record, and the nonce, or not at all outside the host range. That TSTREQ reads back what was written is the model's choice (log
entry 32), and so is what SHA-384 computes (log entry 7). -/
def Obligations.RegisterSpace : Prop :=
  (∀ (i : Instr) (s : State) (v : Word) (off r : Nat), s.registersFree → (off, r) ∈ regBack v.toNat → writesRegister i off v →
    ∃ t, exec i s = .next t ∧ t.regRead off = r ∧ t.mem = s.mem ∧ t.harts = s.harts ∧
      ∀ o x, (o, x) ∈ regBack 0 → o ≠ off → t.regRead o = s.regRead o) ∧
  (∀ (i : Instr) (s : State) (v : Word), (i = .wqdb v ∨ i = .registerWrite 0x10008 v) → s.boot.fail = 0 →
    let q := v.toNat % 2 ^ 16
    let tail := v.toNat / 2 ^ 32
    let n := (tail + 2 ^ 32 - s.desc q 2 % 2 ^ 32) % 2 ^ 32
    (n ≤ 2 ^ (s.desc q 0 % 2 ^ 4 + 4) → ∃ t, exec i s = .next t ∧ (t.wq q).tail = tail ∧ (t.wq q).items = (s.wq q).items ∧
      (t.wq q).bells = (if tail = (s.wq q).tail then (s.wq q).bells else (s.wq q).bells ++ [(tail, s.time)]) ∧
      t.harts = s.harts ∧ t.mem = s.mem ∧ ∀ p, p ≠ q → t.wq p = s.wq p) ∧
    (2 ^ (s.desc q 0 % 2 ^ 4 + 4) < n → exec i s = .next s)) ∧
  (∀ (i : Instr) (s : State) (v : Word) (k : Nat) (l : Launch), (i = .scabort v ∨ i = .registerWrite 0x10020 v) → s.boot.fail = 0 →
    sfind s.sched.launches k = some l → l.handle = v → ∃ t, exec i s = .next t ∧ t.harts = s.harts ∧ t.mem = s.mem ∧
      (sfind t.sched.launches k).map (·.abort) = some (some (l.abort.getD (3, s.time)))) ∧
  (∀ (i : Instr) (s : State) (v : Word) (o : OpenRec) (q k : Nat) (x : Task) (y : Saved), (i = .fback v ∨ i = .registerWrite 0x20020 v) →
    s.boot.fail = 0 → (∀ h, (s.ctx h).dueStop = none) →
    o ∈ s.fb.out → o.seq = some q → 1 ≤ (v.toNat % 2 ^ 32 + 2 ^ 32 - q) % 2 ^ 32 → (v.toNat % 2 ^ 32 + 2 ^ 32 - q) % 2 ^ 32 ≤ 2 ^ 31 →
    sfind s.sched.tasks k = some x → x.saved = some y → y.onRec = some o.num → (∀ h, (s.hart h).task ≠ some k) →
    ∃ t, exec i s = .next t ∧ o ∉ t.fb.out ∧ t.fb.ack = v.toNat % 2 ^ 32 ∧
      (sfind t.sched.tasks k).bind (·.saved) = some { y with ready := true, onRec := none }) ∧
  (∀ (i : Instr) (s : State) (v : Word), (i = .fbtail v ∨ i = .registerWrite 0x20018 v) → s.boot.fail = 0 → s.fb.held = [] →
    let n := (s.fb.head + 2 ^ 32 - v.toNat % 2 ^ 32) % 2 ^ 32
    (n ≤ 2 ^ (s.fb.sz + 6) → exec i s = .next { s with fb := { s.fb with tail := v.toNat % 2 ^ 32 } }) ∧
    (2 ^ (s.fb.sz + 6) < n → exec i s = .next s)) ∧
  (∀ (i : Instr) (s : State) (v : Word) (off : Nat), s.boot.fail ≠ 0 → 2 ^ 16 ≤ off →
    writesRegister i off v ∨ i = .wqdb v ∨ i = .scabort v ∨ i = .fback v ∨ i = .fbtail v → exec i s = .next s) ∧
  (∀ (i : Instr) (s : State) (v : Word), (i = .rptctl v ∨ i = .registerWrite 0x48 v) →
    (s.boot.rptGo = false → v.toNat % 2 = 1 → exec i s = .next { s with boot := { s.boot with
      rptGo := true, rptDone := false, rptErr := false, rptNonce := s.boot.nonce } }) ∧
    (s.boot.rptGo = true ∨ v.toNat % 2 = 0 → exec i s = .next s)) ∧
  (∀ s : State, s.boot.rptGo = true → s.boot.rptNonce.length = 4 →
    let a := s.boot.rptAddr
    let inside := hostBase ≤ a % 2 ^ 40 ∧ a % 2 ^ 40 + 16760 ≤ regBase ∧ a / 2 ^ 40 = s.pkg
    (inside → s.calm → ∃ t, exec .attestationReportWritten s = .next t ∧ t.boot = { s.boot with rptGo := false, rptDone := true } ∧
      rdNum t.mem (a + 8) 8 = s.boot.bsts % 2 ^ 64 ∧ rdNum t.mem (a + 16) 8 = s.boot.cfgver.toNat ∧
      (∀ k, k < 48 → rdByte t.mem (a + 24 + k) = BitVec.ofNat 8 ((Config.sha384 s.boot.image).toNat / 2 ^ (8 * (47 - k))) ∧
        rdByte t.mem (a + 72 + k) = BitVec.ofNat 8 ((Config.sha384 s.boot.record).toNat / 2 ^ (8 * (47 - k)))) ∧
      (∀ k, k < 4 → rdNum t.mem (a + 120 + 8 * k) 8 = wnth s.boot.rptNonce k) ∧ t.harts = s.harts) ∧
    (¬ inside → exec .attestationReportWritten s = .next { s with boot := { s.boot with rptGo := false, rptErr := true } }))

/-- R110, R293, R294, R310, R330: the debugger halts a running hart with event code 0x2B and no record, releases a frozen one, passing over a
trap that froze it when asked to, kills its task and begins its launch's abort with cause 1, evicts it with class 3, or from a running
hart with event code 0x11, and copies its context to the debug buffer as a frame of class 3, with the restart-index vectors. A halt of a hart that is
stopped in place is kept for the return of its task. A command that names no hart with a task of launch LH has no effect (R329). R316: a
pending vector sends its message once it is unmasked. That a kill does not ask for a frozen hart, and that the request to restore an
evicted task comes with a move, are the model's choices (log entry 36). -/
def Obligations.DebugCommands : Prop :=
  (∀ (s : State) (v : Word) (h : Nat), s.boot.fail = 0 → s.dbgTarget v = some h →
    let op (i : Instr) (n : Nat) (j : Instr) : Prop := i = j ∨ i = .registerWrite 0x61200 v ∧ v.toNat % 2 ^ 4 = n
    (∀ i, op i 1 (.dbgHalt v) → (s.hart h).run = .running → (s.ctx h).vq = [] → (s.hart h).load = none → s.quietFor h →
      ∃ t, exec i s = .next t ∧ (t.hart h).run = .frozen 0x2B ∧ t.ctx h = s.ctx h ∧ t.fb = s.fb ∧ s.othersSame t h) ∧
    (∀ i code, op i 1 (.dbgHalt v) → (s.hart h).run = .stopped code → ∃ t, exec i s = .next t ∧
      t.hart h = { s.hart h with halt := true } ∧ s.othersSame t h ∧ s.restSame t) ∧
    (∀ i code, op i 2 (.dbgRelease v) → (s.hart h).run = .frozen code → (s.ctx h).dueStop = none →
      let only (t : State) : Prop := s.othersSame t h ∧ ({ s with toBank := t.toBank } : State).restSame t ∧
        ((s.hart h).load = none → t.toBank = s.toBank)
      (v.toNat.testBit 4 = false → (s.hart h).heldEvent = none → ∃ t, exec i s = .next t ∧
        t.hart h = { s.hart h with run := .running, evict := false } ∧ only t) ∧
      (v.toNat.testBit 4 = true → code = 0x2C → (s.hart h).heldEvent = none → ∃ t, exec i s = .next t ∧
        t.hart h = { s.hart h with run := .running, evict := false, ctx := (s.ctx h).advance (s.ctx h).trapLen } ∧ only t) ∧
      (v.toNat.testBit 4 = true → code ≠ 0x2C → exec i s = .next s)) ∧
    (∀ i k x l, op i 3 (.dbgKill v) → (s.hart h).task = some k → sfind s.sched.tasks k = some x → x.hart = h →
      sfind s.sched.launches x.launch = some l → l.abort = none → ∃ t, exec i s = .next t ∧ sfind t.sched.tasks k = none ∧
        (t.hart h).task ≠ some k ∧ (sfind t.sched.launches x.launch).map (·.abort) = some (some (1, s.time))) ∧
    (∀ i k x, op i 4 (.dbgEvict v) → (s.hart h).run = .running → (s.hart h).load = none → s.traced h = false →
      (s.hart h).task = some k → sfind s.sched.tasks k = some x →
      let cleaning : Prop := ∃ drop a n, (s.hart h).wait = some (.clean drop a n)
      (s.bankFree h → ¬ cleaning → ∃ t, exec i s = .next t ∧ s.savedAs t h k 0x11 true none ∧ s.othersSame t h ∧ t.mem = s.mem) ∧
      (cleaning → ∃ t, exec i s = .next t ∧ t.hart h = { s.hart h with evict := true } ∧ s.othersSame t h ∧
        t.mem = s.mem)) ∧
    (∀ i code k x, op i 4 (.dbgEvict v) → (s.hart h).run = .frozen code → s.bankFree h →
      (s.hart h).task = some k → sfind s.sched.tasks k = some x → ∃ t y, exec i s = .next t ∧ (t.hart h).run = .idle ∧
        (t.hart h).task = none ∧ (t.core (coreOf h)).bank = .outgoing k ∧ (sfind t.sched.tasks k).bind (·.saved) = some y ∧
        y.ctx = s.ctx h ∧ y.code = code ∧ y.cls = 3 ∧ y.ready = false ∧ s.othersSame t h ∧ t.mem = s.mem) ∧
    (∀ i code y, op i 5 (.dbgRead v) → (s.hart h).run = .frozen code → (s.ctx h).fits → s.maxvl (coreOf h) ≤ 2048 → s.calm →
      y.ctx = s.ctx h → y.code = code → y.cls = 3 →
      ∃ t, exec i s = .next t ∧ t.harts = s.harts ∧ t.holdsContext s.dbg.dbgBuf y (s.maxvl (coreOf h)))) ∧
  (∀ (s : State) (i : Instr) (v : Word), s.dbgTarget v = none →
    i ∈ [.dbgHalt v, .dbgRelease v, .dbgKill v, .dbgEvict v, .dbgRead v, .registerWrite 0x61200 v] → exec i s = .next s) ∧
  (∀ (s : State) (m : Move) (k : Nat) (x : Task) (y : Saved), m.restore = some k → sfind s.sched.tasks k = some x →
    x.saved = some y → y.cls = 3 → (∀ h, (s.hart h).task ≠ some k) →
    (sfind (s.begin m).sched.tasks k).bind (·.saved) = some { y with ready := true } ∧ (s.begin m).fb = s.fb) ∧
  (∀ (s : State) (ev : Bool) (vec : Nat),
    let a := (if ev then s.irq.evtBase else s.irq.cmpBase) + 16 * vec
    let d := rdNum s.mem (a + 8) 8
    (ev, vec) ∈ s.irq.pending →
    (d.testBit 32 = false → ∃ t, exec (.interruptUnmask ev vec) s = .next t ∧ t.irq.pending = s.irq.pending.erase (ev, vec) ∧
      t.irq.sent = (rdNum s.mem a 8 / 4 * 4, d % 2 ^ 32) :: s.irq.sent ∧ (s.calm → t.harts = s.harts)) ∧
    (d.testBit 32 = true → exec (.interruptUnmask ev vec) s = .next s))

/-- R12, R318 to R321: a package reset whose checks pass ends with boot done, the record's core map and lane masks, no task and no cached
data; one whose step 1 fails, or whose record is older than the one it replaces, ends with that step and its failures, and with
HID.PKG at its reset value. R323: the thermal steps. R17, R324, R325: counted errors, the end of a window, in-field tests, and the
retirement, once the package has booted, of a lane group or a core that holds no task, a core with no launch started and no access of
its own in flight; its caches are emptied; a last lane group leaves with its core. The model's choices: memory is kept
through a reset (log entry 8), the outcomes of the checks come with the reset (log entry 7), a record equal to the one accepted is
accepted again (log entry 31), VERS rises in the step that retires, and a retirement waits for the core's accesses in flight (log
entry 41), an event whose condition fails changes nothing (log entry 11), and the outcome of a test is the event's (log entry 54). -/
def Obligations.SystemEvents : Prop :=
  (∀ (s : State) (b : BootInput),
    ((∀ k, k < 3 → b.rsa.getD k true = true ∧ b.slh.getD k true = true) → 
      (s.boot.accepted = [] ∨ s.boot.accepted = bootRecord b ∨ ofLe (s.boot.accepted.take 8) < b.cfgVer.toNat) →
      ∃ t, exec (.packageReset b) s = .next t ∧ t.boot.done = true ∧ t.boot.fail = 0 ∧ t.boot.cfgver = b.cfgVer ∧ t.boot.fwver = b.fwVer ∧
        t.boot.image = b.image ∧ t.boot.record = bootRecord b ++ b.recSigs ∧ t.boot.accepted = bootRecord b ∧ t.harts = [] ∧ t.sched.tasks = [] ∧ t.sched.launches = [] ∧ t.dirty = [] ∧ t.stale = [] ∧ t.powered = true ∧ t.time = 0 ∧
        t.pkg = b.coord.1 + b.dims.1 * (b.coord.2.1 + b.dims.2.1 * b.coord.2.2) ∧
        (∀ c, t.working c = decide (c < 256 ∧ b.coreMask.testBit c = true ∧ b.laneMasks.getD c 0xFF % 2 ^ 8 ≠ 0)) ∧
        (∀ c, c < 256 → (t.core c).lanes = b.laneMasks.getD c 0xFF % 2 ^ 8) ∧
        (∀ x, x < 2 ^ 58 → sfind s.stale (x / 64) = none → rdByte t.mem x = rdByte s.mem x) ∧
        (∀ x, 2 ^ 58 ≤ x → rdByte t.mem x = 0)) ∧
    (b.rsa.getD 0 true = false ∨ b.slh.getD 0 true = false → ∃ t, exec (.packageReset b) s = .next t ∧ t.boot.done = false ∧
      t.boot.step = 1 ∧ t.boot.fail = (if b.rsa.getD 0 true then 0 else 1) + (if b.slh.getD 0 true then 0 else 2) ∧
      t.pkg = 0 ∧ t.boot.accepted = s.boot.accepted ∧ t.harts = [] ∧ ∀ c, t.working c = false) ∧
    ((∀ k, k < 2 → b.rsa.getD k true = true ∧ b.slh.getD k true = true) → s.boot.accepted ≠ [] → s.boot.accepted ≠ bootRecord b →
      b.cfgVer.toNat ≤ ofLe (s.boot.accepted.take 8) → ∃ t, exec (.packageReset b) s = .next t ∧ t.boot.done = false ∧
      t.boot.step = 3 ∧ t.boot.fail = 3 ∧ t.pkg = 0 ∧ t.boot.accepted = s.boot.accepted ∧ t.harts = [] ∧ ∀ c, t.working c = false)) ∧
  (∀ (s : State) (n : Nat),
    (∃ t, exec (.thermalThrottle n) s = .next t ∧ t.tower n = { s.tower n with throttle := true } ∧ t.harts = s.harts ∧ t.mem = s.mem) ∧
    (∃ t, exec (.thermalStop n) s = .next t ∧ t.tower n = { s.tower n with stop := true } ∧ t.harts = s.harts) ∧
    (∃ t, exec (.thermalResume n) s = .next t ∧ t.tower n = { s.tower n with stop := false, throttle := false } ∧ t.harts = s.harts ∧
      t.mem = s.mem) ∧
    (∃ t, exec .thermalShutdown s = .next t ∧ t.powered = false ∧ t.harts = [] ∧ t.sched.tasks = [] ∧ t.port.up = 0)) ∧
  (∀ (s : State) (u : ErrUnit),
    let n := (if s.ras.raswin ≤ s.time - s.ras.winStart then 0 else ((s.ras.counts.find? (fun e => e.1 == u)).map (·.2)).getD 0) + 1
    ∃ t, exec (.correctableError u) s = .next t ∧ t.harts = s.harts ∧ (u, n) ∈ t.ras.counts ∧
      (s.ras.rasthr ≤ n → u ∈ t.ras.lasting) ∧ (n < s.ras.rasthr → t.ras.lasting = s.ras.lasting)) ∧
  (∀ s : State, (s.ras.raswin ≤ s.time - s.ras.winStart →
      exec .rasWindowExpiry s = .next { s with ras := { s.ras with counts := [], winStart := s.time } }) ∧
    (s.time - s.ras.winStart < s.ras.raswin → exec .rasWindowExpiry s = .next s)) ∧
  (∀ (s : State) (c : Nat),
    let k := s.core c
    let empty := (∀ h, coreOf h = c → (s.hart h).task = none) ∧ k.bank = .empty ∧ ∀ e ∈ s.sched.tasks, coreOf e.2.hart ≠ c
    (empty → k.test = true → k.testing = none → ∃ t, exec (.inFieldTestStart c) s = .next t ∧
      t.core c = { k with testing := some (s.time + 2 ^ 22) } ∧ (∀ d, d ≠ c → t.core d = s.core d) ∧ t.harts = s.harts) ∧
    (¬ empty → exec (.inFieldTestStart c) s = .next s) ∧
    (∀ n pass, k.testing = some n →
      (n ≤ s.time → ∃ t, exec (.inFieldTestEnd c pass) s = .next t ∧
        t.core c = { k with test := false, testing := none, retireCore := k.retireCore || !pass } ∧ t.harts = s.harts) ∧
      (s.time < n → exec (.inFieldTestEnd c pass) s = .next s)) ∧
    (∀ g, g < 8 → k.retire.contains g = true → s.boot.done = true →
      (empty → k.lanes = 2 ^ g → ∃ t, exec (.laneGroupRetirement c g) s = .next t ∧ t.core c = { k with retireCore := true, retire := [] } ∧
        (∀ d, d ≠ c → t.core d = s.core d) ∧ t.boot = s.boot ∧ t.harts = s.harts) ∧
      (empty → k.lanes.testBit g = true → k.lanes ≠ 2 ^ g → ∃ t, exec (.laneGroupRetirement c g) s = .next t ∧
        t.maxvl c = s.maxvl c - 256 ∧ (t.core c).lanes = k.lanes - 2 ^ g ∧ ¬ (t.core c).retire.contains g = true ∧ t.boot.cfgver = s.boot.cfgver + 1 ∧
        (∀ d, d ≠ c → t.core d = s.core d) ∧ t.harts = s.harts) ∧
      (¬ empty → exec (.laneGroupRetirement c g) s = .next s)) ∧
    (s.boot.done = false → exec (.coreRetirement c) s = .next s ∧ ∀ g, exec (.laneGroupRetirement c g) s = .next s) ∧
    (k.retireCore = true → s.working c = true → s.boot.done = true →
      let busy : Prop := (∃ h, coreOf h = c ∧ (s.hart h).pend ≠ []) ∨ (∃ p ∈ s.toBank ++ s.toCore, p.core = c) ∨
        ∃ e ∈ s.txns, e.2.core = c ∨ c ∈ e.2.waiting
      (empty → ¬ busy → (∀ e ∈ s.sched.launches, e.2.started = 0) → ∃ t, exec (.coreRetirement c) s = .next t ∧ t.working c = false ∧
        (∀ d, d ≠ c → t.working d = s.working d) ∧ t.boot.cfgver = s.boot.cfgver + 1 ∧ t.harts = s.harts ∧ t.mem = s.mem ∧
        (∀ line, t.dcOf c line = .I) ∧ (t.core c).icache = [] ∧ ∀ line, (s.dirOf line).st = 2 → (s.dirOf line).own = c →
          s.dcOf c line ≠ .I → s.dcOf c line ≠ .S → s.lineBusy line = false → t.dirOf line = ⟨0, 0, 0, 0⟩) ∧
      (¬ empty ∨ busy ∨ (∃ e ∈ s.sched.launches, e.2.started ≠ 0) → exec (.coreRetirement c) s = .next s)))

/-- R29, R46, R48, R72, R82, R96, R97: what a step does. The turn of a hart that can move and awaits nothing runs the instruction that the
words at its PC spell, an illegal pair traps, and an instruction that names a scalar register which a queued vector instruction or a
load on its way is to write waits (what it names is log entry 17); a fetch that stops stops the hart. The end of a nest's pass that a
queued instruction held open comes first. Words come from memory, least significant byte first (an instruction cache never differs from
it: log entry 14), in a nest from its captured body. A listed step of the device is its meaning. With nothing listed every unit does
what it can, and the next hart takes its turn (log entry 3). Without power a step faults, as the model has it (log entry 10). -/
def Obligations.StepRunsDecoded : Prop :=
  (∀ (s : State) (m : Move) (l : List Move) (h : Nat),
    let u := s.turnOf m l h
    s.powered = true → s.agenda = m :: l → m.who = .hart h →
    (m.restore = none → u.mem = s.mem) ∧
    (u.canMove h = false → ∃ t, step s = .next t ∧ t.harts = u.harts ∧ t.mem = u.mem) ∧
    (∀ drop a n, u.canMove h = true → (u.hart h).halt = false → (u.hart h).wait = some (.clean drop a n) →
      step s = .next (u.tryMaint h drop a n)) ∧
    (u.canMove h = true → (u.hart h).halt = true → step s = .next (u.freezeScalar h 0x2B 0 0)) ∧
    (u.canMove h = true → (u.hart h).halt = false → Wait.refetches (u.hart h).wait = true →
      (u.ctx h).passOpen = true → u.passHazard h = true → step s = .next (u.waitOn h .scalarReg)) ∧
    (u.canMove h = true → (u.hart h).halt = false → Wait.refetches (u.hart h).wait = true →
      ((u.ctx h).passOpen = true → u.passHazard h = false) →
      let v := if (u.ctx h).passOpen = true then u.modCtx h Ctx.closePass else u
      (∀ st t, (fetchInstr h).run v = .error st t → step s = .next (t.stopScalar h false ((u.hart h).wait.getD .access) st)) ∧
      ∀ pre base t, (fetchInstr h).run v = .ok (pre, base) t → t.cur = h ∧
        (u.calm → ∀ x, u.settled x → rdByte t.mem x = rdByte u.mem x) ∧
        (decodePair pre base = none → step s = exec (.illegalEncoding pre base) t) ∧
        ∀ i, decodePair pre base = some i →
          (t.scalarHazard h base = true → step s = .next (t.waitOn h .scalarReg)) ∧
          (t.scalarHazard h base = false → step s = exec i t))) ∧
  (∀ (s : State) (h : Nat) (w : BitVec 32) (u : State), (instrWord h (s.ctx h).pc.toNat).run s = .ok w u →
    (w.toNat % 128 ≠ 0x7C → (fetchInstr h).run s = .ok (none, w) u) ∧
    (w.toNat % 128 = 0x7C → ∀ b t, (instrWord h (((s.ctx h).pc + 4).toNat)).run u = .ok b t → (fetchInstr h).run s = .ok (some w, b) t)) ∧
  (∀ (s : State) (h a : Nat), (s.ctx h).nest = none →
    ∀ ps t, (resolve h (coreOf h) a 4 .fetch .scalar).run s = .ok ps t →
      ∃ u, (instrWord h a).run s = .ok (BitVec.ofNat 32 (ofLe (ps.flatMap (fun p => rdBytes t.mem p.loc p.n)))) u ∧
        (s.calm → (∀ x, s.settled x → rdByte u.mem x = rdByte s.mem x) ∧ u.harts = s.harts)) ∧
  (∀ (s : State) (h k : Nat) (n : Nest) (w : BitVec 32), (s.ctx h).nest = some n → n.suspended = false → n.body[k]? = some w →
    n.body.length ≤ 1024 → n.start < 2 ^ 56 → (instrWord h ((n.start + 4 + 4 * k) % 2 ^ 56)).run s = .ok w s) ∧
  (∀ (s : State) (m : Move) (l : List Move) (i : Instr), s.agenda = m :: l → m.who = .event i → (s.powered = true ∨ ∃ b, i = .packageReset b) →
    step s = exec i (({ s with agenda := l } : State).begin m)) ∧
  (∀ s : State, s.powered = true → s.agenda = [] →
    let u := (s.begin { Move.init with who := .hart s.cur }).background
    step s = (match u.nextHart with
      | some h => u.turn h
      | none => .next u)) ∧
  (∀ s : State, s.powered = false → (∀ m l b, s.agenda = m :: l → m.who ≠ .event (.packageReset b)) → step s = .fault .poweredOff)

/-- R72 to R82: words written out from the spec's encodings (worked words of R73, R93, R88 and R82 among them), one for each kind of
word, and what they are; words that are no instruction. -/
def Obligations.DecodeWords : Prop :=
  decodePair none 0x054A5401 = some (.add 40 41 42) ∧ decodePair none 0x00201403 = some (.addi 40 0 1) ∧
  decodePair none 0x2345540C = some (.lih 40 0x8D15) ∧ decodePair none 0xFFAA1499 = some (.beq 41 40 0x7FD) ∧
  decodePair none 0x000A1060 = some (.vld 32 40 0 none) ∧ decodePair none 0x882A5468 = some (.amo 40 41 1 0 2 4) ∧
  decodePair none 0x156A826A = some (.waitge 4 42 43) ∧ decodePair none 0x452A00EF = some (.ewait 1 40 41) ∧
  decodePair none 0x06A2B401 = some (.add 104 10 53) ∧
  decodePair (some 0xC000007C) 0x248A5462 =
    some (.vldx 40 41 36 2 (some { tx := 0xC, sat := 0, rs3 := 0, xmod := 0, rm := 0, dt := 0, pol := 0, m := 0 })) ∧
  decodeBytes [0x01, 0x54, 0x4A, 0x05] = .instr (.add 40 41 42) 4 ∧
  decodeBytes [0x7C, 0, 0, 0xC0, 0x62, 0x54, 0x8A, 0x24] =
    .instr (.vldx 40 41 36 2 (some { tx := 0xC, sat := 0, rs3 := 0, xmod := 0, rm := 0, dt := 0, pol := 0, m := 0 })) 8 ∧
  decodeBytes [0x7C, 0, 0, 0xC0, 0x01, 0x54, 0x4A, 0x05] = .illegal (some 0xC000007C) 0x054A5401 ∧
  decodePair none 0 = none ∧ decodePair none 0xFFFFFFFF = none

/-- R56, R103, R219, R283, R295, R312, R314, R316, R322 to R325, R327, R329, R335: after reset time is 0, Electrum reads 0 and no copy has
applied a slot write, no hart runs, and every register of the package register space reads its reset value, other than the identity
keys, and RASLOG and TSTREQ, whose reset values the spec does not give. -/
def Obligations.ResetState : Prop :=
  Memory.wf State.reset.mem = true ∧ State.reset.time = 0 ∧ State.reset.boot.done = false ∧
  (∀ x, 2 ^ 58 ≤ x → rdByte State.reset.mem x = 0) ∧ (∀ n, (State.reset.tower n).applied = [0, 0, 0, 0, 0, 0, 0, 0, 0]) ∧
  (∀ h, (State.reset.hart h).run = .idle) ∧ State.reset.sched.tasks = [] ∧
  ∀ off, off < 2 ^ 24 → off ≠ 0x60010 → off ≠ 0x60018 → ¬ (0x100 ≤ off ∧ off < 0x2B0) →
    State.reset.regRead off = (if off = 0x50008 then 0x100000 else if off = 0x50010 then 2600 else if off = 0x60000 then 2 ^ 32
      else if off = 0x60008 then 16 else 0)

/-- R72 to R82: decoding the words of a legal instruction gives back that instruction, every operand at every value, whatever bytes
follow. -/
def Obligations.RoundTrip : Prop :=
  ∀ (i : Instr) (rest : List Byte), hasWord i = true → i.wellFormed = true →
    decodeBytes (encodeBytes i ++ rest) = .instr i (encodeBytes i).length

/-- R72, R74, R82: the bytes of an instruction are its only spelling: what decodes to an instruction is that instruction's encoding,
bit for bit, so that a word with a zero field set, or a P word that its instruction does not use, is none. -/
def Obligations.OneSpelling : Prop :=
  ∀ (bs : List Byte) (i : Instr) (n : Nat), decodeBytes bs = .instr i n →
    hasWord i = true ∧ i.wellFormed = true ∧ n ≤ bs.length ∧ encodeBytes i = bs.take n

/-- Every step of a powered package answers a next state, and keeps memory in its canonical form (the model's own, log entry 1), that
equal memories are equal lists. -/
def Obligations.MemoryInvariant : Prop :=
  ∀ s : State, s.powered = true → Memory.wf s.mem = true → ∃ t, step s = .next t ∧ Memory.wf t.mem = true
end

