-- ==== Sys2Proof/Laws/Sparse.lean ====
section
/-! SUPPORT. Laws of sparse files and of memory: what a read gives after a write, and that every operation keeps the canonical form. -/

namespace Sys2Proof.Machine

variable {α : Type}

/-! ### Reads after writes -/

theorem sget_serase_same (m : SMap α) (d : α) (k : Nat) : sget (serase m k) d k = d := by
  induction m with
  | nil => rfl
  | cons e t ih =>
    by_cases h : e.1 = k
    · simpa [serase, h] using ih
    · have : (e.1 != k) = true := by simpa using h
      simp only [serase, List.filter_cons, this, if_true, sget, h, if_false]
      exact ih

theorem sget_serase_other (m : SMap α) (d : α) {k j : Nat} (h : j ≠ k) : sget (serase m k) d j = sget m d j := by
  induction m with
  | nil => rfl
  | cons e t ih =>
    by_cases hk : e.1 = k
    · have hj : e.1 ≠ j := fun x => h (x ▸ hk)
      have : (e.1 != k) = false := by simpa using hk
      simp only [serase, List.filter_cons, this, sget, hj, if_false]
      exact ih
    · have : (e.1 != k) = true := by simpa using hk
      simp only [serase, List.filter_cons, this, if_true, sget]
      split
      · rfl
      · exact ih

theorem sget_sput_same (m : SMap α) (d : α) (k : Nat) (x : α) : sget (sput m k x) d k = x := by
  induction m with
  | nil => simp [sput, sget]
  | cons e t ih =>
    simp only [sput]
    split
    · simp [sget]
    · split
      · simp [sget]
      · rename_i h _; simp [sget, h, ih]

theorem sget_sput_other (m : SMap α) (d : α) {k j : Nat} (x : α) (h : j ≠ k) : sget (sput m k x) d j = sget m d j := by
  induction m with
  | nil => simp [sput, sget, h.symm]
  | cons e t ih =>
    simp only [sput]
    split
    · rename_i hk
      have : e.1 ≠ j := fun y => h (y ▸ hk)
      simp [sget, this, h.symm]
    · split
      · simp [sget, h.symm]
      · simp [sget, ih]

/-- The value under a key after it is set. -/
@[simp] theorem sget_sset_same [DecidableEq α] (m : SMap α) (d : α) (k : Nat) (x : α) : sget (sset m d k x) d k = x := by
  unfold sset
  split
  · rename_i h; rw [h]; exact sget_serase_same m d k
  · exact sget_sput_same m d k x

/-- The value under any other key stays. -/
theorem sget_sset_other [DecidableEq α] (m : SMap α) (d : α) {k j : Nat} (x : α) (h : j ≠ k) :
    sget (sset m d k x) d j = sget m d j := by
  unfold sset
  split
  · exact sget_serase_other m d h
  · exact sget_sput_other m d x h

/-- Reading any key after one is set. -/
theorem sget_sset [DecidableEq α] (m : SMap α) (d : α) (k j : Nat) (x : α) :
    sget (sset m d k x) d j = if j = k then x else sget m d j := by
  split
  · rename_i h; subst h; exact sget_sset_same m d j x
  · rename_i h; exact sget_sset_other m d x h

theorem sfind_serase_same (m : SMap α) (k : Nat) : sfind (serase m k) k = none := by
  induction m with
  | nil => rfl
  | cons e t ih =>
    by_cases h : e.1 = k
    · simpa [serase, h] using ih
    · have : (e.1 != k) = true := by simpa using h
      simp only [serase, List.filter_cons, this, if_true, sfind, h, if_false]
      exact ih

theorem sfind_sput_same (m : SMap α) (k : Nat) (x : α) : sfind (sput m k x) k = some x := by
  induction m with
  | nil => simp [sput, sfind]
  | cons e t ih =>
    simp only [sput]
    split
    · simp [sfind]
    · split
      · simp [sfind]
      · rename_i h _; simp [sfind, h, ih]

theorem sfind_sput_other (m : SMap α) {k j : Nat} (x : α) (h : j ≠ k) : sfind (sput m k x) j = sfind m j := by
  induction m with
  | nil => simp [sput, sfind, h.symm]
  | cons e t ih =>
    simp only [sput]
    split
    · rename_i hk
      have : e.1 ≠ j := fun y => h (y ▸ hk)
      simp [sfind, this, h.symm]
    · split
      · simp [sfind, h.symm]
      · simp [sfind, ih]

/-! ### Bytes of memory -/

theorem sget_append (a b : SMap α) (d : α) (k : Nat) :
    sget (a ++ b) d k = if a.any (fun e => e.1 == k) then sget a d k else sget b d k := by
  induction a with
  | nil => simp
  | cons e t ih =>
    by_cases h : e.1 = k
    · simp [sget, h]
    · have : (e.1 == k) = false := by simpa using h
      simp only [List.cons_append, sget, h, if_false, List.any_cons, this, Bool.false_or, ih]

theorem sget_absent (m : SMap α) (d : α) (k : Nat) (h : ∀ e ∈ m, e.1 ≠ k) : sget m d k = d := by
  induction m with
  | nil => rfl
  | cons e t ih =>
    simp only [sget, h e (by simp), if_false]
    exact ih (fun x hx => h x (by simp [hx]))

theorem sget_filter (m : SMap α) (d : α) (k : Nat) (p : Nat → Bool) (h : p k = true) :
    sget (m.filter (fun e => p e.1)) d k = sget m d k := by
  induction m with
  | nil => rfl
  | cons e t ih =>
    by_cases hk : e.1 = k
    · simp [sget, hk, h]
    · by_cases hp : p e.1 = true
      · simp [sget, hk, hp, ih]
      · simp [sget, hk, hp, ih]

theorem runCells_key (a : Nat) (bs : List Byte) : ∀ e ∈ runCells a bs, a ≤ e.1 ∧ e.1 < a + bs.length := by
  induction bs generalizing a with
  | nil => simp [runCells]
  | cons b t ih =>
    intro e he
    simp only [runCells] at he
    split at he
    · have := ih (a + 1) e he; simp only [List.length_cons]; omega
    · rcases List.mem_cons.1 he with rfl | he
      · simp
      · have := ih (a + 1) e he; simp only [List.length_cons]; omega

theorem rdByte_runCells (a k : Nat) (bs : List Byte) (h : a ≤ k) : rdByte (runCells a bs) k = bs.getD (k - a) 0 := by
  induction bs generalizing a with
  | nil => simp [runCells, rdByte, sget, memDefault]
  | cons b t ih =>
    simp only [runCells]
    by_cases hk : k = a
    · subst hk
      split
      · rename_i hb
        have : rdByte (runCells (k + 1) t) k = memDefault :=
          sget_absent _ _ _ (fun e he => by have := (runCells_key (k + 1) t e he).1; omega)
        rw [this]; simp [hb, memDefault]
      · simp [rdByte, sget]
    · have h1 : a + 1 ≤ k := by omega
      have h2 : k - a = (k - (a + 1)) + 1 := by omega
      split
      · rw [ih (a + 1) h1, h2]; simp
      · have : rdByte ((a, b) :: runCells (a + 1) t) k = rdByte (runCells (a + 1) t) k := by
          simp [rdByte, sget, Ne.symm hk]
        rw [this, ih (a + 1) h1, h2]; simp

/-- A byte read after a run of bytes is written. -/
theorem rdByte_wrBytes (m : List Host.Cell) (a k : Nat) (bs : List Byte) :
    rdByte (wrBytes m a bs) k = if a ≤ k ∧ k < a + bs.length then bs.getD (k - a) 0 else rdByte m k := by
  unfold wrBytes rdByte
  rw [List.append_assoc, sget_append]
  by_cases hlt : k < a
  · have hno : ¬(a ≤ k ∧ k < a + bs.length) := by omega
    rw [if_neg hno]
    by_cases hany : (m.filter (fun c => decide (c.1 < a))).any (fun e => e.1 == k) = true
    · rw [if_pos hany]
      exact sget_filter m memDefault k (fun x => decide (x < a)) (by simpa using hlt)
    · rw [if_neg hany]
      have h1 : sget m memDefault k = memDefault := by
        rw [← sget_filter m memDefault k (fun x => decide (x < a)) (by simpa using hlt)]
        apply sget_absent
        intro e he hk
        exact hany (List.any_eq_true.2 ⟨e, he, by simp [hk]⟩)
      rw [h1]
      apply sget_absent
      intro e he
      rcases List.mem_append.1 he with he | he
      · have := (runCells_key a bs e he).1; omega
      · have := (List.mem_filter.1 he).2; simp at this; omega
  · have hany : (m.filter (fun c => decide (c.1 < a))).any (fun e => e.1 == k) = false := by
      rw [List.any_eq_false]
      intro e he
      have := (List.mem_filter.1 he).2
      simp at this ⊢
      omega
    rw [hany]
    simp only [Bool.false_eq_true, if_false]
    rw [sget_append]
    by_cases hin : k < a + bs.length
    · have hcond : a ≤ k ∧ k < a + bs.length := ⟨by omega, hin⟩
      simp only [hcond, and_self, if_true]
      by_cases hr : (runCells a bs).any (fun e => e.1 == k) = true
      · rw [if_pos hr]
        exact rdByte_runCells a k bs (by omega)
      · rw [if_neg hr]
        have h1 : rdByte (runCells a bs) k = memDefault :=
          sget_absent _ _ _ (fun e he hk => hr (List.any_eq_true.2 ⟨e, he, by simp [hk]⟩))
        rw [rdByte_runCells a k bs (by omega)] at h1
        rw [h1]
        apply sget_absent
        intro e he
        have := (List.mem_filter.1 he).2; simp at this; omega
    · have hcond : ¬(a ≤ k ∧ k < a + bs.length) := by omega
      simp only [hcond, if_false]
      have hr : (runCells a bs).any (fun e => e.1 == k) = false := by
        rw [List.any_eq_false]
        intro e he
        have := (runCells_key a bs e he).2
        simp; omega
      rw [hr]
      simp only [Bool.false_eq_true, if_false]
      exact sget_filter m memDefault k (fun x => decide (a + bs.length ≤ x)) (by simp; omega)

theorem length_leBytes (n x : Nat) : (leBytes n x).length = n := by simp [leBytes]

/-- A byte read after a little-endian number is written (R19). -/
theorem rdByte_wrNum (m : List Host.Cell) (a n v k : Nat) :
    rdByte (wrNum m a n v) k = if a ≤ k ∧ k < a + n then BitVec.ofNat 8 (v / 2 ^ (8 * (k - a))) else rdByte m k := by
  unfold wrNum
  rw [rdByte_wrBytes, length_leBytes]
  split
  · rename_i h
    have : k - a < n := by omega
    simp [leBytes, List.getD_eq_getElem?_getD, this]
  · rfl

/-! ### The canonical form -/

theorem keysUp_cons (e : Nat × α) (t : SMap α) : keysUp (e :: t) = true ↔ (∀ x ∈ t, e.1 < x.1) ∧ keysUp t = true := by
  induction t generalizing e with
  | nil => simp [keysUp]
  | cons f u ih =>
    simp only [keysUp, Bool.and_eq_true, decide_eq_true_eq]
    constructor
    · rintro ⟨h, k⟩
      refine ⟨fun x hx => ?_, k⟩
      rcases List.mem_cons.1 hx with rfl | hx
      · exact h
      · exact Nat.lt_trans h (((ih f).1 k).1 x hx)
    · rintro ⟨h, k⟩
      exact ⟨h f (by simp), k⟩

theorem keysUp_filter (m : SMap α) (p : Nat × α → Bool) (h : keysUp m = true) : keysUp (m.filter p) = true := by
  induction m with
  | nil => simpa using h
  | cons e t ih =>
    have hc := (keysUp_cons e t).1 h
    simp only [List.filter_cons]
    split
    · exact (keysUp_cons _ _).2 ⟨fun x hx => hc.1 x (List.mem_filter.1 hx).1, ih hc.2⟩
    · exact ih hc.2

theorem keysUp_append (a b : SMap α) (ha : keysUp a = true) (hb : keysUp b = true) (h : ∀ x ∈ a, ∀ y ∈ b, x.1 < y.1) :
    keysUp (a ++ b) = true := by
  induction a with
  | nil => simpa using hb
  | cons e t ih =>
    have hc := (keysUp_cons e t).1 ha
    refine (keysUp_cons _ _).2 ⟨fun x hx => ?_, ih hc.2 (fun x hx y hy => h x (by simp [hx]) y hy)⟩
    rcases List.mem_append.1 hx with hx | hx
    · exact hc.1 x hx
    · exact h e (by simp) x hx

theorem keysUp_runCells (a : Nat) (bs : List Byte) : keysUp (runCells a bs) = true := by
  induction bs generalizing a with
  | nil => rfl
  | cons b t ih =>
    simp only [runCells]
    split
    · exact ih (a + 1)
    · exact (keysUp_cons _ _).2 ⟨fun x hx => by have := (runCells_key (a + 1) t x hx).1; simp; omega, ih (a + 1)⟩

theorem Memory.wf_iff (m : List Host.Cell) : Memory.wf m = true ↔ keysUp m = true ∧ ∀ c ∈ m, c.2 ≠ memDefault := by
  simp [Memory.wf]

/-- Keeping some cells keeps the canonical form. -/
theorem Memory.wf_filter (m : List Host.Cell) (p : Host.Cell → Bool) (h : Memory.wf m = true) : Memory.wf (m.filter p) = true := by
  rw [Memory.wf_iff] at *
  exact ⟨keysUp_filter m p h.1, fun c hc => h.2 c (List.mem_filter.1 hc).1⟩

theorem runCells_ne (a : Nat) (bs : List Byte) : ∀ c ∈ runCells a bs, c.2 ≠ memDefault := by
  induction bs generalizing a with
  | nil => simp [runCells]
  | cons b t ih =>
    intro c hc
    simp only [runCells] at hc
    split at hc
    · exact ih (a + 1) c hc
    · rcases List.mem_cons.1 hc with rfl | hc
      · assumption
      · exact ih (a + 1) c hc

/-- A run of bytes written keeps the canonical form. -/
theorem Memory.wf_wrBytes (m : List Host.Cell) (a : Nat) (bs : List Byte) (h : Memory.wf m = true) :
    Memory.wf (wrBytes m a bs) = true := by
  rw [Memory.wf_iff] at *
  unfold wrBytes
  constructor
  · apply keysUp_append _ _ (keysUp_append _ _ (keysUp_filter m _ h.1) (keysUp_runCells a bs) _) (keysUp_filter m _ h.1)
    · intro x hx y hy
      have hy' := (List.mem_filter.1 hy).2
      simp at hy'
      rcases List.mem_append.1 hx with hx | hx
      · have := (List.mem_filter.1 hx).2; simp at this; omega
      · have := (runCells_key a bs x hx).2; omega
    · intro x hx y hy
      have h1 := (List.mem_filter.1 hx).2
      have h2 := (runCells_key a bs y hy).1
      simp at h1; omega
  · intro c hc
    rcases List.mem_append.1 hc with hc | hc
    · rcases List.mem_append.1 hc with hc | hc
      · exact h.2 c (List.mem_filter.1 hc).1
      · exact runCells_ne a bs c hc
    · exact h.2 c (List.mem_filter.1 hc).1

/-- A little-endian number written keeps the canonical form. -/
theorem Memory.wf_wrNum (m : List Host.Cell) (a n v : Nat) (h : Memory.wf m = true) : Memory.wf (wrNum m a n v) = true :=
  Memory.wf_wrBytes m a _ h

/-- Runs of bytes written keep the canonical form. -/
theorem Memory.wf_wrAreas (m : List Host.Cell) (base : Nat) (l : List (Nat × List Byte)) (h : Memory.wf m = true) :
    Memory.wf (wrAreas m base l) = true := by
  unfold wrAreas
  induction l generalizing m with
  | nil => exact h
  | cons a t ih => exact ih _ (Memory.wf_wrBytes m _ _ h)

/-- The memory right after reset is canonical: it lists nothing. -/
theorem Memory.wf_reset : Memory.wf State.reset.mem = true := rfl

end Sys2Proof.Machine
end

