-- ==== Sys2Proof/Laws/State.lean ====
section
/-! SUPPORT. What each update of the state leaves, field by field, and what the accessors read after it. -/

namespace Sys2Proof.Machine

/-! ### Updates of a hart, a core, a tower -/

@[simp] theorem State.setHart_mem (s : State) (h : Nat) (x : Hart) : (s.setHart h x).mem = s.mem := rfl
@[simp] theorem State.setHart_time (s : State) (h : Nat) (x : Hart) : (s.setHart h x).time = s.time := rfl
@[simp] theorem State.setHart_pkg (s : State) (h : Nat) (x : Hart) : (s.setHart h x).pkg = s.pkg := rfl
@[simp] theorem State.setHart_coreMask (s : State) (h : Nat) (x : Hart) : (s.setHart h x).coreMask = s.coreMask := rfl
@[simp] theorem State.setHart_cores (s : State) (h : Nat) (x : Hart) : (s.setHart h x).cores = s.cores := rfl
@[simp] theorem State.setHart_towers (s : State) (h : Nat) (x : Hart) : (s.setHart h x).towers = s.towers := rfl
@[simp] theorem State.setHart_engines (s : State) (h : Nat) (x : Hart) : (s.setHart h x).engines = s.engines := rfl
@[simp] theorem State.setHart_engTlb (s : State) (h : Nat) (x : Hart) : (s.setHart h x).engTlb = s.engTlb := rfl
@[simp] theorem State.setHart_llc (s : State) (h : Nat) (x : Hart) : (s.setHart h x).llc = s.llc := rfl
@[simp] theorem State.setHart_dir (s : State) (h : Nat) (x : Hart) : (s.setHart h x).dir = s.dir := rfl
@[simp] theorem State.setHart_dirty (s : State) (h : Nat) (x : Hart) : (s.setHart h x).dirty = s.dirty := rfl
@[simp] theorem State.setHart_stale (s : State) (h : Nat) (x : Hart) : (s.setHart h x).stale = s.stale := rfl
@[simp] theorem State.setHart_txns (s : State) (h : Nat) (x : Hart) : (s.setHart h x).txns = s.txns := rfl
@[simp] theorem State.setHart_toBank (s : State) (h : Nat) (x : Hart) : (s.setHart h x).toBank = s.toBank := rfl
@[simp] theorem State.setHart_toCore (s : State) (h : Nat) (x : Hart) : (s.setHart h x).toCore = s.toCore := rfl
@[simp] theorem State.setHart_links (s : State) (h : Nat) (x : Hart) : (s.setHart h x).links = s.links := rfl
@[simp] theorem State.setHart_tags (s : State) (h : Nat) (x : Hart) : (s.setHart h x).tags = s.tags := rfl
@[simp] theorem State.setHart_sched (s : State) (h : Nat) (x : Hart) : (s.setHart h x).sched = s.sched := rfl
@[simp] theorem State.setHart_fb (s : State) (h : Nat) (x : Hart) : (s.setHart h x).fb = s.fb := rfl
@[simp] theorem State.setHart_irq (s : State) (h : Nat) (x : Hart) : (s.setHart h x).irq = s.irq := rfl
@[simp] theorem State.setHart_boot (s : State) (h : Nat) (x : Hart) : (s.setHart h x).boot = s.boot := rfl
@[simp] theorem State.setHart_port (s : State) (h : Nat) (x : Hart) : (s.setHart h x).port = s.port := rfl
@[simp] theorem State.setHart_power (s : State) (h : Nat) (x : Hart) : (s.setHart h x).power = s.power := rfl
@[simp] theorem State.setHart_ras (s : State) (h : Nat) (x : Hart) : (s.setHart h x).ras = s.ras := rfl
@[simp] theorem State.setHart_dbg (s : State) (h : Nat) (x : Hart) : (s.setHart h x).dbg = s.dbg := rfl
@[simp] theorem State.setHart_powered (s : State) (h : Nat) (x : Hart) : (s.setHart h x).powered = s.powered := rfl
@[simp] theorem State.setHart_agenda (s : State) (h : Nat) (x : Hart) : (s.setHart h x).agenda = s.agenda := rfl
@[simp] theorem State.setHart_move (s : State) (h : Nat) (x : Hart) : (s.setHart h x).move = s.move := rfl
@[simp] theorem State.setHart_cur (s : State) (h : Nat) (x : Hart) : (s.setHart h x).cur = s.cur := rfl
@[simp] theorem State.setHart_free (s : State) (h : Nat) (x : Hart) : (s.setHart h x).free = s.free := rfl
@[simp] theorem State.setCore_mem (s : State) (c : Nat) (x : Core) : (s.setCore c x).mem = s.mem := rfl
@[simp] theorem State.setCore_time (s : State) (c : Nat) (x : Core) : (s.setCore c x).time = s.time := rfl
@[simp] theorem State.setCore_pkg (s : State) (c : Nat) (x : Core) : (s.setCore c x).pkg = s.pkg := rfl
@[simp] theorem State.setCore_coreMask (s : State) (c : Nat) (x : Core) : (s.setCore c x).coreMask = s.coreMask := rfl
@[simp] theorem State.setCore_harts (s : State) (c : Nat) (x : Core) : (s.setCore c x).harts = s.harts := rfl
@[simp] theorem State.setCore_towers (s : State) (c : Nat) (x : Core) : (s.setCore c x).towers = s.towers := rfl
@[simp] theorem State.setCore_engines (s : State) (c : Nat) (x : Core) : (s.setCore c x).engines = s.engines := rfl
@[simp] theorem State.setCore_engTlb (s : State) (c : Nat) (x : Core) : (s.setCore c x).engTlb = s.engTlb := rfl
@[simp] theorem State.setCore_llc (s : State) (c : Nat) (x : Core) : (s.setCore c x).llc = s.llc := rfl
@[simp] theorem State.setCore_dir (s : State) (c : Nat) (x : Core) : (s.setCore c x).dir = s.dir := rfl
@[simp] theorem State.setCore_dirty (s : State) (c : Nat) (x : Core) : (s.setCore c x).dirty = s.dirty := rfl
@[simp] theorem State.setCore_stale (s : State) (c : Nat) (x : Core) : (s.setCore c x).stale = s.stale := rfl
@[simp] theorem State.setCore_txns (s : State) (c : Nat) (x : Core) : (s.setCore c x).txns = s.txns := rfl
@[simp] theorem State.setCore_toBank (s : State) (c : Nat) (x : Core) : (s.setCore c x).toBank = s.toBank := rfl
@[simp] theorem State.setCore_toCore (s : State) (c : Nat) (x : Core) : (s.setCore c x).toCore = s.toCore := rfl
@[simp] theorem State.setCore_links (s : State) (c : Nat) (x : Core) : (s.setCore c x).links = s.links := rfl
@[simp] theorem State.setCore_tags (s : State) (c : Nat) (x : Core) : (s.setCore c x).tags = s.tags := rfl
@[simp] theorem State.setCore_sched (s : State) (c : Nat) (x : Core) : (s.setCore c x).sched = s.sched := rfl
@[simp] theorem State.setCore_fb (s : State) (c : Nat) (x : Core) : (s.setCore c x).fb = s.fb := rfl
@[simp] theorem State.setCore_irq (s : State) (c : Nat) (x : Core) : (s.setCore c x).irq = s.irq := rfl
@[simp] theorem State.setCore_boot (s : State) (c : Nat) (x : Core) : (s.setCore c x).boot = s.boot := rfl
@[simp] theorem State.setCore_port (s : State) (c : Nat) (x : Core) : (s.setCore c x).port = s.port := rfl
@[simp] theorem State.setCore_power (s : State) (c : Nat) (x : Core) : (s.setCore c x).power = s.power := rfl
@[simp] theorem State.setCore_ras (s : State) (c : Nat) (x : Core) : (s.setCore c x).ras = s.ras := rfl
@[simp] theorem State.setCore_dbg (s : State) (c : Nat) (x : Core) : (s.setCore c x).dbg = s.dbg := rfl
@[simp] theorem State.setCore_powered (s : State) (c : Nat) (x : Core) : (s.setCore c x).powered = s.powered := rfl
@[simp] theorem State.setCore_agenda (s : State) (c : Nat) (x : Core) : (s.setCore c x).agenda = s.agenda := rfl
@[simp] theorem State.setCore_move (s : State) (c : Nat) (x : Core) : (s.setCore c x).move = s.move := rfl
@[simp] theorem State.setCore_cur (s : State) (c : Nat) (x : Core) : (s.setCore c x).cur = s.cur := rfl
@[simp] theorem State.setCore_free (s : State) (c : Nat) (x : Core) : (s.setCore c x).free = s.free := rfl
@[simp] theorem State.setTower_mem (s : State) (k : Nat) (x : Tower) : (s.setTower k x).mem = s.mem := rfl
@[simp] theorem State.setTower_time (s : State) (k : Nat) (x : Tower) : (s.setTower k x).time = s.time := rfl
@[simp] theorem State.setTower_pkg (s : State) (k : Nat) (x : Tower) : (s.setTower k x).pkg = s.pkg := rfl
@[simp] theorem State.setTower_coreMask (s : State) (k : Nat) (x : Tower) : (s.setTower k x).coreMask = s.coreMask := rfl
@[simp] theorem State.setTower_harts (s : State) (k : Nat) (x : Tower) : (s.setTower k x).harts = s.harts := rfl
@[simp] theorem State.setTower_cores (s : State) (k : Nat) (x : Tower) : (s.setTower k x).cores = s.cores := rfl
@[simp] theorem State.setTower_engines (s : State) (k : Nat) (x : Tower) : (s.setTower k x).engines = s.engines := rfl
@[simp] theorem State.setTower_engTlb (s : State) (k : Nat) (x : Tower) : (s.setTower k x).engTlb = s.engTlb := rfl
@[simp] theorem State.setTower_llc (s : State) (k : Nat) (x : Tower) : (s.setTower k x).llc = s.llc := rfl
@[simp] theorem State.setTower_dir (s : State) (k : Nat) (x : Tower) : (s.setTower k x).dir = s.dir := rfl
@[simp] theorem State.setTower_dirty (s : State) (k : Nat) (x : Tower) : (s.setTower k x).dirty = s.dirty := rfl
@[simp] theorem State.setTower_stale (s : State) (k : Nat) (x : Tower) : (s.setTower k x).stale = s.stale := rfl
@[simp] theorem State.setTower_txns (s : State) (k : Nat) (x : Tower) : (s.setTower k x).txns = s.txns := rfl
@[simp] theorem State.setTower_toBank (s : State) (k : Nat) (x : Tower) : (s.setTower k x).toBank = s.toBank := rfl
@[simp] theorem State.setTower_toCore (s : State) (k : Nat) (x : Tower) : (s.setTower k x).toCore = s.toCore := rfl
@[simp] theorem State.setTower_links (s : State) (k : Nat) (x : Tower) : (s.setTower k x).links = s.links := rfl
@[simp] theorem State.setTower_tags (s : State) (k : Nat) (x : Tower) : (s.setTower k x).tags = s.tags := rfl
@[simp] theorem State.setTower_sched (s : State) (k : Nat) (x : Tower) : (s.setTower k x).sched = s.sched := rfl
@[simp] theorem State.setTower_fb (s : State) (k : Nat) (x : Tower) : (s.setTower k x).fb = s.fb := rfl
@[simp] theorem State.setTower_irq (s : State) (k : Nat) (x : Tower) : (s.setTower k x).irq = s.irq := rfl
@[simp] theorem State.setTower_boot (s : State) (k : Nat) (x : Tower) : (s.setTower k x).boot = s.boot := rfl
@[simp] theorem State.setTower_port (s : State) (k : Nat) (x : Tower) : (s.setTower k x).port = s.port := rfl
@[simp] theorem State.setTower_power (s : State) (k : Nat) (x : Tower) : (s.setTower k x).power = s.power := rfl
@[simp] theorem State.setTower_ras (s : State) (k : Nat) (x : Tower) : (s.setTower k x).ras = s.ras := rfl
@[simp] theorem State.setTower_dbg (s : State) (k : Nat) (x : Tower) : (s.setTower k x).dbg = s.dbg := rfl
@[simp] theorem State.setTower_powered (s : State) (k : Nat) (x : Tower) : (s.setTower k x).powered = s.powered := rfl
@[simp] theorem State.setTower_agenda (s : State) (k : Nat) (x : Tower) : (s.setTower k x).agenda = s.agenda := rfl
@[simp] theorem State.setTower_move (s : State) (k : Nat) (x : Tower) : (s.setTower k x).move = s.move := rfl
@[simp] theorem State.setTower_cur (s : State) (k : Nat) (x : Tower) : (s.setTower k x).cur = s.cur := rfl
@[simp] theorem State.setTower_free (s : State) (k : Nat) (x : Tower) : (s.setTower k x).free = s.free := rfl

/-! ### Updates of a context -/

@[simp] theorem Ctx.setV_pc (c : Ctx) (p : Nat) (v : VReg) : (c.setV p v).pc = c.pc := rfl
@[simp] theorem Ctx.setV_regs (c : Ctx) (p : Nat) (v : VReg) : (c.setV p v).regs = c.regs := rfl
@[simp] theorem Ctx.setV_masks (c : Ctx) (p : Nat) (v : VReg) : (c.setV p v).masks = c.masks := rfl
@[simp] theorem Ctx.setV_scales (c : Ctx) (p : Nat) (v : VReg) : (c.setV p v).scales = c.scales := rfl
@[simp] theorem Ctx.setV_fibres (c : Ctx) (p : Nat) (v : VReg) : (c.setV p v).fibres = c.fibres := rfl
@[simp] theorem Ctx.setV_queues (c : Ctx) (p : Nat) (v : VReg) : (c.setV p v).queues = c.queues := rfl
@[simp] theorem Ctx.setV_vl (c : Ctx) (p : Nat) (v : VReg) : (c.setV p v).vl = c.vl := rfl
@[simp] theorem Ctx.setV_rows (c : Ctx) (p : Nat) (v : VReg) : (c.setV p v).rows = c.rows := rfl
@[simp] theorem Ctx.setV_swb (c : Ctx) (p : Nat) (v : VReg) : (c.setV p v).swb = c.swb := rfl
@[simp] theorem Ctx.setV_vwb (c : Ctx) (p : Nat) (v : VReg) : (c.setV p v).vwb = c.vwb := rfl
@[simp] theorem Ctx.setV_fflags (c : Ctx) (p : Nat) (v : VReg) : (c.setV p v).fflags = c.fflags := rfl
@[simp] theorem Ctx.setV_xsz (c : Ctx) (p : Nat) (v : VReg) : (c.setV p v).xsz = c.xsz := rfl
@[simp] theorem Ctx.setV_xbase (c : Ctx) (p : Nat) (v : VReg) : (c.setV p v).xbase = c.xbase := rfl
@[simp] theorem Ctx.setV_xlovf (c : Ctx) (p : Nat) (v : VReg) : (c.setV p v).xlovf = c.xlovf := rfl
@[simp] theorem Ctx.setV_xle (c : Ctx) (p : Nat) (v : VReg) : (c.setV p v).xle = c.xle := rfl
@[simp] theorem Ctx.setV_rm (c : Ctx) (p : Nat) (v : VReg) : (c.setV p v).rm = c.rm := rfl
@[simp] theorem Ctx.setV_fexc (c : Ctx) (p : Nat) (v : VReg) : (c.setV p v).fexc = c.fexc := rfl
@[simp] theorem Ctx.setV_fprogA (c : Ctx) (p : Nat) (v : VReg) : (c.setV p v).fprogA = c.fprogA := rfl
@[simp] theorem Ctx.setV_fprogB (c : Ctx) (p : Nat) (v : VReg) : (c.setV p v).fprogB = c.fprogB := rfl
@[simp] theorem Ctx.setV_rng (c : Ctx) (p : Nat) (v : VReg) : (c.setV p v).rng = c.rng := rfl
@[simp] theorem Ctx.setV_ord (c : Ctx) (p : Nat) (v : VReg) : (c.setV p v).ord = c.ord := rfl
@[simp] theorem Ctx.setV_ovf (c : Ctx) (p : Nat) (v : VReg) : (c.setV p v).ovf = c.ovf := rfl
@[simp] theorem Ctx.setV_mode (c : Ctx) (p : Nat) (v : VReg) : (c.setV p v).mode = c.mode := rfl
@[simp] theorem Ctx.setV_tmo (c : Ctx) (p : Nat) (v : VReg) : (c.setV p v).tmo = c.tmo := rfl
@[simp] theorem Ctx.setV_lmapSel (c : Ctx) (p : Nat) (v : VReg) : (c.setV p v).lmapSel = c.lmapSel := rfl
@[simp] theorem Ctx.setV_wmarks (c : Ctx) (p : Nat) (v : VReg) : (c.setV p v).wmarks = c.wmarks := rfl
@[simp] theorem Ctx.setV_nest (c : Ctx) (p : Nat) (v : VReg) : (c.setV p v).nest = c.nest := rfl
@[simp] theorem Ctx.setV_vq (c : Ctx) (p : Nat) (v : VReg) : (c.setV p v).vq = c.vq := rfl
@[simp] theorem Ctx.setV_nextId (c : Ctx) (p : Nat) (v : VReg) : (c.setV p v).nextId = c.nextId := rfl
@[simp] theorem Ctx.setV_ilocks (c : Ctx) (p : Nat) (v : VReg) : (c.setV p v).ilocks = c.ilocks := rfl
@[simp] theorem Ctx.setV_bar (c : Ctx) (p : Nat) (v : VReg) : (c.setV p v).bar = c.bar := rfl
@[simp] theorem Ctx.setV_barGen (c : Ctx) (p : Nat) (v : VReg) : (c.setV p v).barGen = c.barGen := rfl
@[simp] theorem Ctx.setV_cpys (c : Ctx) (p : Nat) (v : VReg) : (c.setV p v).cpys = c.cpys := rfl
@[simp] theorem Ctx.setV_istrs (c : Ctx) (p : Nat) (v : VReg) : (c.setV p v).istrs = c.istrs := rfl
@[simp] theorem Ctx.setV_elecEnd (c : Ctx) (p : Nat) (v : VReg) : (c.setV p v).elecEnd = c.elecEnd := rfl
@[simp] theorem Ctx.setV_exiting (c : Ctx) (p : Nat) (v : VReg) : (c.setV p v).exiting = c.exiting := rfl
@[simp] theorem Ctx.setV_relS (c : Ctx) (p : Nat) (v : VReg) : (c.setV p v).relS = c.relS := rfl
@[simp] theorem Ctx.setV_relV (c : Ctx) (p : Nat) (v : VReg) : (c.setV p v).relV = c.relV := rfl
@[simp] theorem Ctx.setV_lastS (c : Ctx) (p : Nat) (v : VReg) : (c.setV p v).lastS = c.lastS := rfl
@[simp] theorem Ctx.setV_lastV (c : Ctx) (p : Nat) (v : VReg) : (c.setV p v).lastV = c.lastV := rfl
@[simp] theorem Ctx.setV_gates (c : Ctx) (p : Nat) (v : VReg) : (c.setV p v).gates = c.gates := rfl
@[simp] theorem Ctx.setV_elecSeen (c : Ctx) (p : Nat) (v : VReg) : (c.setV p v).elecSeen = c.elecSeen := rfl
@[simp] theorem Ctx.setV_dueStop (c : Ctx) (p : Nat) (v : VReg) : (c.setV p v).dueStop = c.dueStop := rfl
@[simp] theorem Ctx.setV_trapLen (c : Ctx) (p : Nat) (v : VReg) : (c.setV p v).trapLen = c.trapLen := rfl
@[simp] theorem Ctx.setFibre_pc (c : Ctx) (f : Nat) (x : Fibre) : (c.setFibre f x).pc = c.pc := rfl
@[simp] theorem Ctx.setFibre_regs (c : Ctx) (f : Nat) (x : Fibre) : (c.setFibre f x).regs = c.regs := rfl
@[simp] theorem Ctx.setFibre_vregs (c : Ctx) (f : Nat) (x : Fibre) : (c.setFibre f x).vregs = c.vregs := rfl
@[simp] theorem Ctx.setFibre_masks (c : Ctx) (f : Nat) (x : Fibre) : (c.setFibre f x).masks = c.masks := rfl
@[simp] theorem Ctx.setFibre_scales (c : Ctx) (f : Nat) (x : Fibre) : (c.setFibre f x).scales = c.scales := rfl
@[simp] theorem Ctx.setFibre_queues (c : Ctx) (f : Nat) (x : Fibre) : (c.setFibre f x).queues = c.queues := rfl
@[simp] theorem Ctx.setFibre_vl (c : Ctx) (f : Nat) (x : Fibre) : (c.setFibre f x).vl = c.vl := rfl
@[simp] theorem Ctx.setFibre_rows (c : Ctx) (f : Nat) (x : Fibre) : (c.setFibre f x).rows = c.rows := rfl
@[simp] theorem Ctx.setFibre_swb (c : Ctx) (f : Nat) (x : Fibre) : (c.setFibre f x).swb = c.swb := rfl
@[simp] theorem Ctx.setFibre_vwb (c : Ctx) (f : Nat) (x : Fibre) : (c.setFibre f x).vwb = c.vwb := rfl
@[simp] theorem Ctx.setFibre_fflags (c : Ctx) (f : Nat) (x : Fibre) : (c.setFibre f x).fflags = c.fflags := rfl
@[simp] theorem Ctx.setFibre_xsz (c : Ctx) (f : Nat) (x : Fibre) : (c.setFibre f x).xsz = c.xsz := rfl
@[simp] theorem Ctx.setFibre_xbase (c : Ctx) (f : Nat) (x : Fibre) : (c.setFibre f x).xbase = c.xbase := rfl
@[simp] theorem Ctx.setFibre_xlovf (c : Ctx) (f : Nat) (x : Fibre) : (c.setFibre f x).xlovf = c.xlovf := rfl
@[simp] theorem Ctx.setFibre_xle (c : Ctx) (f : Nat) (x : Fibre) : (c.setFibre f x).xle = c.xle := rfl
@[simp] theorem Ctx.setFibre_rm (c : Ctx) (f : Nat) (x : Fibre) : (c.setFibre f x).rm = c.rm := rfl
@[simp] theorem Ctx.setFibre_fexc (c : Ctx) (f : Nat) (x : Fibre) : (c.setFibre f x).fexc = c.fexc := rfl
@[simp] theorem Ctx.setFibre_fprogA (c : Ctx) (f : Nat) (x : Fibre) : (c.setFibre f x).fprogA = c.fprogA := rfl
@[simp] theorem Ctx.setFibre_fprogB (c : Ctx) (f : Nat) (x : Fibre) : (c.setFibre f x).fprogB = c.fprogB := rfl
@[simp] theorem Ctx.setFibre_rng (c : Ctx) (f : Nat) (x : Fibre) : (c.setFibre f x).rng = c.rng := rfl
@[simp] theorem Ctx.setFibre_ord (c : Ctx) (f : Nat) (x : Fibre) : (c.setFibre f x).ord = c.ord := rfl
@[simp] theorem Ctx.setFibre_ovf (c : Ctx) (f : Nat) (x : Fibre) : (c.setFibre f x).ovf = c.ovf := rfl
@[simp] theorem Ctx.setFibre_mode (c : Ctx) (f : Nat) (x : Fibre) : (c.setFibre f x).mode = c.mode := rfl
@[simp] theorem Ctx.setFibre_tmo (c : Ctx) (f : Nat) (x : Fibre) : (c.setFibre f x).tmo = c.tmo := rfl
@[simp] theorem Ctx.setFibre_lmapSel (c : Ctx) (f : Nat) (x : Fibre) : (c.setFibre f x).lmapSel = c.lmapSel := rfl
@[simp] theorem Ctx.setFibre_wmarks (c : Ctx) (f : Nat) (x : Fibre) : (c.setFibre f x).wmarks = c.wmarks := rfl
@[simp] theorem Ctx.setFibre_nest (c : Ctx) (f : Nat) (x : Fibre) : (c.setFibre f x).nest = c.nest := rfl
@[simp] theorem Ctx.setFibre_vq (c : Ctx) (f : Nat) (x : Fibre) : (c.setFibre f x).vq = c.vq := rfl
@[simp] theorem Ctx.setFibre_nextId (c : Ctx) (f : Nat) (x : Fibre) : (c.setFibre f x).nextId = c.nextId := rfl
@[simp] theorem Ctx.setFibre_ilocks (c : Ctx) (f : Nat) (x : Fibre) : (c.setFibre f x).ilocks = c.ilocks := rfl
@[simp] theorem Ctx.setFibre_bar (c : Ctx) (f : Nat) (x : Fibre) : (c.setFibre f x).bar = c.bar := rfl
@[simp] theorem Ctx.setFibre_barGen (c : Ctx) (f : Nat) (x : Fibre) : (c.setFibre f x).barGen = c.barGen := rfl
@[simp] theorem Ctx.setFibre_cpys (c : Ctx) (f : Nat) (x : Fibre) : (c.setFibre f x).cpys = c.cpys := rfl
@[simp] theorem Ctx.setFibre_istrs (c : Ctx) (f : Nat) (x : Fibre) : (c.setFibre f x).istrs = c.istrs := rfl
@[simp] theorem Ctx.setFibre_elecEnd (c : Ctx) (f : Nat) (x : Fibre) : (c.setFibre f x).elecEnd = c.elecEnd := rfl
@[simp] theorem Ctx.setFibre_exiting (c : Ctx) (f : Nat) (x : Fibre) : (c.setFibre f x).exiting = c.exiting := rfl
@[simp] theorem Ctx.setFibre_relS (c : Ctx) (f : Nat) (x : Fibre) : (c.setFibre f x).relS = c.relS := rfl
@[simp] theorem Ctx.setFibre_relV (c : Ctx) (f : Nat) (x : Fibre) : (c.setFibre f x).relV = c.relV := rfl
@[simp] theorem Ctx.setFibre_lastS (c : Ctx) (f : Nat) (x : Fibre) : (c.setFibre f x).lastS = c.lastS := rfl
@[simp] theorem Ctx.setFibre_lastV (c : Ctx) (f : Nat) (x : Fibre) : (c.setFibre f x).lastV = c.lastV := rfl
@[simp] theorem Ctx.setFibre_gates (c : Ctx) (f : Nat) (x : Fibre) : (c.setFibre f x).gates = c.gates := rfl
@[simp] theorem Ctx.setFibre_elecSeen (c : Ctx) (f : Nat) (x : Fibre) : (c.setFibre f x).elecSeen = c.elecSeen := rfl
@[simp] theorem Ctx.setFibre_dueStop (c : Ctx) (f : Nat) (x : Fibre) : (c.setFibre f x).dueStop = c.dueStop := rfl
@[simp] theorem Ctx.setFibre_trapLen (c : Ctx) (f : Nat) (x : Fibre) : (c.setFibre f x).trapLen = c.trapLen := rfl
@[simp] theorem Ctx.setQueue_pc (c : Ctx) (q : Nat) (x : Queue) : (c.setQueue q x).pc = c.pc := rfl
@[simp] theorem Ctx.setQueue_regs (c : Ctx) (q : Nat) (x : Queue) : (c.setQueue q x).regs = c.regs := rfl
@[simp] theorem Ctx.setQueue_vregs (c : Ctx) (q : Nat) (x : Queue) : (c.setQueue q x).vregs = c.vregs := rfl
@[simp] theorem Ctx.setQueue_masks (c : Ctx) (q : Nat) (x : Queue) : (c.setQueue q x).masks = c.masks := rfl
@[simp] theorem Ctx.setQueue_scales (c : Ctx) (q : Nat) (x : Queue) : (c.setQueue q x).scales = c.scales := rfl
@[simp] theorem Ctx.setQueue_fibres (c : Ctx) (q : Nat) (x : Queue) : (c.setQueue q x).fibres = c.fibres := rfl
@[simp] theorem Ctx.setQueue_vl (c : Ctx) (q : Nat) (x : Queue) : (c.setQueue q x).vl = c.vl := rfl
@[simp] theorem Ctx.setQueue_rows (c : Ctx) (q : Nat) (x : Queue) : (c.setQueue q x).rows = c.rows := rfl
@[simp] theorem Ctx.setQueue_swb (c : Ctx) (q : Nat) (x : Queue) : (c.setQueue q x).swb = c.swb := rfl
@[simp] theorem Ctx.setQueue_vwb (c : Ctx) (q : Nat) (x : Queue) : (c.setQueue q x).vwb = c.vwb := rfl
@[simp] theorem Ctx.setQueue_fflags (c : Ctx) (q : Nat) (x : Queue) : (c.setQueue q x).fflags = c.fflags := rfl
@[simp] theorem Ctx.setQueue_xsz (c : Ctx) (q : Nat) (x : Queue) : (c.setQueue q x).xsz = c.xsz := rfl
@[simp] theorem Ctx.setQueue_xbase (c : Ctx) (q : Nat) (x : Queue) : (c.setQueue q x).xbase = c.xbase := rfl
@[simp] theorem Ctx.setQueue_xlovf (c : Ctx) (q : Nat) (x : Queue) : (c.setQueue q x).xlovf = c.xlovf := rfl
@[simp] theorem Ctx.setQueue_xle (c : Ctx) (q : Nat) (x : Queue) : (c.setQueue q x).xle = c.xle := rfl
@[simp] theorem Ctx.setQueue_rm (c : Ctx) (q : Nat) (x : Queue) : (c.setQueue q x).rm = c.rm := rfl
@[simp] theorem Ctx.setQueue_fexc (c : Ctx) (q : Nat) (x : Queue) : (c.setQueue q x).fexc = c.fexc := rfl
@[simp] theorem Ctx.setQueue_fprogA (c : Ctx) (q : Nat) (x : Queue) : (c.setQueue q x).fprogA = c.fprogA := rfl
@[simp] theorem Ctx.setQueue_fprogB (c : Ctx) (q : Nat) (x : Queue) : (c.setQueue q x).fprogB = c.fprogB := rfl
@[simp] theorem Ctx.setQueue_rng (c : Ctx) (q : Nat) (x : Queue) : (c.setQueue q x).rng = c.rng := rfl
@[simp] theorem Ctx.setQueue_ord (c : Ctx) (q : Nat) (x : Queue) : (c.setQueue q x).ord = c.ord := rfl
@[simp] theorem Ctx.setQueue_ovf (c : Ctx) (q : Nat) (x : Queue) : (c.setQueue q x).ovf = c.ovf := rfl
@[simp] theorem Ctx.setQueue_mode (c : Ctx) (q : Nat) (x : Queue) : (c.setQueue q x).mode = c.mode := rfl
@[simp] theorem Ctx.setQueue_tmo (c : Ctx) (q : Nat) (x : Queue) : (c.setQueue q x).tmo = c.tmo := rfl
@[simp] theorem Ctx.setQueue_lmapSel (c : Ctx) (q : Nat) (x : Queue) : (c.setQueue q x).lmapSel = c.lmapSel := rfl
@[simp] theorem Ctx.setQueue_wmarks (c : Ctx) (q : Nat) (x : Queue) : (c.setQueue q x).wmarks = c.wmarks := rfl
@[simp] theorem Ctx.setQueue_nest (c : Ctx) (q : Nat) (x : Queue) : (c.setQueue q x).nest = c.nest := rfl
@[simp] theorem Ctx.setQueue_vq (c : Ctx) (q : Nat) (x : Queue) : (c.setQueue q x).vq = c.vq := rfl
@[simp] theorem Ctx.setQueue_nextId (c : Ctx) (q : Nat) (x : Queue) : (c.setQueue q x).nextId = c.nextId := rfl
@[simp] theorem Ctx.setQueue_ilocks (c : Ctx) (q : Nat) (x : Queue) : (c.setQueue q x).ilocks = c.ilocks := rfl
@[simp] theorem Ctx.setQueue_bar (c : Ctx) (q : Nat) (x : Queue) : (c.setQueue q x).bar = c.bar := rfl
@[simp] theorem Ctx.setQueue_barGen (c : Ctx) (q : Nat) (x : Queue) : (c.setQueue q x).barGen = c.barGen := rfl
@[simp] theorem Ctx.setQueue_cpys (c : Ctx) (q : Nat) (x : Queue) : (c.setQueue q x).cpys = c.cpys := rfl
@[simp] theorem Ctx.setQueue_istrs (c : Ctx) (q : Nat) (x : Queue) : (c.setQueue q x).istrs = c.istrs := rfl
@[simp] theorem Ctx.setQueue_elecEnd (c : Ctx) (q : Nat) (x : Queue) : (c.setQueue q x).elecEnd = c.elecEnd := rfl
@[simp] theorem Ctx.setQueue_exiting (c : Ctx) (q : Nat) (x : Queue) : (c.setQueue q x).exiting = c.exiting := rfl
@[simp] theorem Ctx.setQueue_relS (c : Ctx) (q : Nat) (x : Queue) : (c.setQueue q x).relS = c.relS := rfl
@[simp] theorem Ctx.setQueue_relV (c : Ctx) (q : Nat) (x : Queue) : (c.setQueue q x).relV = c.relV := rfl
@[simp] theorem Ctx.setQueue_lastS (c : Ctx) (q : Nat) (x : Queue) : (c.setQueue q x).lastS = c.lastS := rfl
@[simp] theorem Ctx.setQueue_lastV (c : Ctx) (q : Nat) (x : Queue) : (c.setQueue q x).lastV = c.lastV := rfl
@[simp] theorem Ctx.setQueue_gates (c : Ctx) (q : Nat) (x : Queue) : (c.setQueue q x).gates = c.gates := rfl
@[simp] theorem Ctx.setQueue_elecSeen (c : Ctx) (q : Nat) (x : Queue) : (c.setQueue q x).elecSeen = c.elecSeen := rfl
@[simp] theorem Ctx.setQueue_dueStop (c : Ctx) (q : Nat) (x : Queue) : (c.setQueue q x).dueStop = c.dueStop := rfl
@[simp] theorem Ctx.setQueue_trapLen (c : Ctx) (q : Nat) (x : Queue) : (c.setQueue q x).trapLen = c.trapLen := rfl
@[simp] theorem Ctx.raise_pc (c : Ctx) (fl : Nat) : (c.raise fl).pc = c.pc := rfl
@[simp] theorem Ctx.raise_regs (c : Ctx) (fl : Nat) : (c.raise fl).regs = c.regs := rfl
@[simp] theorem Ctx.raise_vregs (c : Ctx) (fl : Nat) : (c.raise fl).vregs = c.vregs := rfl
@[simp] theorem Ctx.raise_masks (c : Ctx) (fl : Nat) : (c.raise fl).masks = c.masks := rfl
@[simp] theorem Ctx.raise_scales (c : Ctx) (fl : Nat) : (c.raise fl).scales = c.scales := rfl
@[simp] theorem Ctx.raise_fibres (c : Ctx) (fl : Nat) : (c.raise fl).fibres = c.fibres := rfl
@[simp] theorem Ctx.raise_queues (c : Ctx) (fl : Nat) : (c.raise fl).queues = c.queues := rfl
@[simp] theorem Ctx.raise_vl (c : Ctx) (fl : Nat) : (c.raise fl).vl = c.vl := rfl
@[simp] theorem Ctx.raise_rows (c : Ctx) (fl : Nat) : (c.raise fl).rows = c.rows := rfl
@[simp] theorem Ctx.raise_swb (c : Ctx) (fl : Nat) : (c.raise fl).swb = c.swb := rfl
@[simp] theorem Ctx.raise_vwb (c : Ctx) (fl : Nat) : (c.raise fl).vwb = c.vwb := rfl
@[simp] theorem Ctx.raise_xsz (c : Ctx) (fl : Nat) : (c.raise fl).xsz = c.xsz := rfl
@[simp] theorem Ctx.raise_xbase (c : Ctx) (fl : Nat) : (c.raise fl).xbase = c.xbase := rfl
@[simp] theorem Ctx.raise_xlovf (c : Ctx) (fl : Nat) : (c.raise fl).xlovf = c.xlovf := rfl
@[simp] theorem Ctx.raise_xle (c : Ctx) (fl : Nat) : (c.raise fl).xle = c.xle := rfl
@[simp] theorem Ctx.raise_rm (c : Ctx) (fl : Nat) : (c.raise fl).rm = c.rm := rfl
@[simp] theorem Ctx.raise_fexc (c : Ctx) (fl : Nat) : (c.raise fl).fexc = c.fexc := rfl
@[simp] theorem Ctx.raise_fprogA (c : Ctx) (fl : Nat) : (c.raise fl).fprogA = c.fprogA := rfl
@[simp] theorem Ctx.raise_fprogB (c : Ctx) (fl : Nat) : (c.raise fl).fprogB = c.fprogB := rfl
@[simp] theorem Ctx.raise_rng (c : Ctx) (fl : Nat) : (c.raise fl).rng = c.rng := rfl
@[simp] theorem Ctx.raise_ord (c : Ctx) (fl : Nat) : (c.raise fl).ord = c.ord := rfl
@[simp] theorem Ctx.raise_ovf (c : Ctx) (fl : Nat) : (c.raise fl).ovf = c.ovf := rfl
@[simp] theorem Ctx.raise_mode (c : Ctx) (fl : Nat) : (c.raise fl).mode = c.mode := rfl
@[simp] theorem Ctx.raise_tmo (c : Ctx) (fl : Nat) : (c.raise fl).tmo = c.tmo := rfl
@[simp] theorem Ctx.raise_lmapSel (c : Ctx) (fl : Nat) : (c.raise fl).lmapSel = c.lmapSel := rfl
@[simp] theorem Ctx.raise_wmarks (c : Ctx) (fl : Nat) : (c.raise fl).wmarks = c.wmarks := rfl
@[simp] theorem Ctx.raise_nest (c : Ctx) (fl : Nat) : (c.raise fl).nest = c.nest := rfl
@[simp] theorem Ctx.raise_vq (c : Ctx) (fl : Nat) : (c.raise fl).vq = c.vq := rfl
@[simp] theorem Ctx.raise_nextId (c : Ctx) (fl : Nat) : (c.raise fl).nextId = c.nextId := rfl
@[simp] theorem Ctx.raise_ilocks (c : Ctx) (fl : Nat) : (c.raise fl).ilocks = c.ilocks := rfl
@[simp] theorem Ctx.raise_bar (c : Ctx) (fl : Nat) : (c.raise fl).bar = c.bar := rfl
@[simp] theorem Ctx.raise_barGen (c : Ctx) (fl : Nat) : (c.raise fl).barGen = c.barGen := rfl
@[simp] theorem Ctx.raise_cpys (c : Ctx) (fl : Nat) : (c.raise fl).cpys = c.cpys := rfl
@[simp] theorem Ctx.raise_istrs (c : Ctx) (fl : Nat) : (c.raise fl).istrs = c.istrs := rfl
@[simp] theorem Ctx.raise_elecEnd (c : Ctx) (fl : Nat) : (c.raise fl).elecEnd = c.elecEnd := rfl
@[simp] theorem Ctx.raise_exiting (c : Ctx) (fl : Nat) : (c.raise fl).exiting = c.exiting := rfl
@[simp] theorem Ctx.raise_relS (c : Ctx) (fl : Nat) : (c.raise fl).relS = c.relS := rfl
@[simp] theorem Ctx.raise_relV (c : Ctx) (fl : Nat) : (c.raise fl).relV = c.relV := rfl
@[simp] theorem Ctx.raise_lastS (c : Ctx) (fl : Nat) : (c.raise fl).lastS = c.lastS := rfl
@[simp] theorem Ctx.raise_lastV (c : Ctx) (fl : Nat) : (c.raise fl).lastV = c.lastV := rfl
@[simp] theorem Ctx.raise_gates (c : Ctx) (fl : Nat) : (c.raise fl).gates = c.gates := rfl
@[simp] theorem Ctx.raise_elecSeen (c : Ctx) (fl : Nat) : (c.raise fl).elecSeen = c.elecSeen := rfl
@[simp] theorem Ctx.raise_dueStop (c : Ctx) (fl : Nat) : (c.raise fl).dueStop = c.dueStop := rfl
@[simp] theorem Ctx.raise_trapLen (c : Ctx) (fl : Nat) : (c.raise fl).trapLen = c.trapLen := rfl
@[simp] theorem Ctx.setScale_pc (c : Ctx) (r j : Nat) (e : Int) : (c.setScale r j e).pc = c.pc := rfl
@[simp] theorem Ctx.setScale_regs (c : Ctx) (r j : Nat) (e : Int) : (c.setScale r j e).regs = c.regs := rfl
@[simp] theorem Ctx.setScale_vregs (c : Ctx) (r j : Nat) (e : Int) : (c.setScale r j e).vregs = c.vregs := rfl
@[simp] theorem Ctx.setScale_masks (c : Ctx) (r j : Nat) (e : Int) : (c.setScale r j e).masks = c.masks := rfl
@[simp] theorem Ctx.setScale_fibres (c : Ctx) (r j : Nat) (e : Int) : (c.setScale r j e).fibres = c.fibres := rfl
@[simp] theorem Ctx.setScale_queues (c : Ctx) (r j : Nat) (e : Int) : (c.setScale r j e).queues = c.queues := rfl
@[simp] theorem Ctx.setScale_vl (c : Ctx) (r j : Nat) (e : Int) : (c.setScale r j e).vl = c.vl := rfl
@[simp] theorem Ctx.setScale_rows (c : Ctx) (r j : Nat) (e : Int) : (c.setScale r j e).rows = c.rows := rfl
@[simp] theorem Ctx.setScale_swb (c : Ctx) (r j : Nat) (e : Int) : (c.setScale r j e).swb = c.swb := rfl
@[simp] theorem Ctx.setScale_vwb (c : Ctx) (r j : Nat) (e : Int) : (c.setScale r j e).vwb = c.vwb := rfl
@[simp] theorem Ctx.setScale_fflags (c : Ctx) (r j : Nat) (e : Int) : (c.setScale r j e).fflags = c.fflags := rfl
@[simp] theorem Ctx.setScale_xsz (c : Ctx) (r j : Nat) (e : Int) : (c.setScale r j e).xsz = c.xsz := rfl
@[simp] theorem Ctx.setScale_xbase (c : Ctx) (r j : Nat) (e : Int) : (c.setScale r j e).xbase = c.xbase := rfl
@[simp] theorem Ctx.setScale_xlovf (c : Ctx) (r j : Nat) (e : Int) : (c.setScale r j e).xlovf = c.xlovf := rfl
@[simp] theorem Ctx.setScale_xle (c : Ctx) (r j : Nat) (e : Int) : (c.setScale r j e).xle = c.xle := rfl
@[simp] theorem Ctx.setScale_rm (c : Ctx) (r j : Nat) (e : Int) : (c.setScale r j e).rm = c.rm := rfl
@[simp] theorem Ctx.setScale_fexc (c : Ctx) (r j : Nat) (e : Int) : (c.setScale r j e).fexc = c.fexc := rfl
@[simp] theorem Ctx.setScale_fprogA (c : Ctx) (r j : Nat) (e : Int) : (c.setScale r j e).fprogA = c.fprogA := rfl
@[simp] theorem Ctx.setScale_fprogB (c : Ctx) (r j : Nat) (e : Int) : (c.setScale r j e).fprogB = c.fprogB := rfl
@[simp] theorem Ctx.setScale_rng (c : Ctx) (r j : Nat) (e : Int) : (c.setScale r j e).rng = c.rng := rfl
@[simp] theorem Ctx.setScale_ord (c : Ctx) (r j : Nat) (e : Int) : (c.setScale r j e).ord = c.ord := rfl
@[simp] theorem Ctx.setScale_ovf (c : Ctx) (r j : Nat) (e : Int) : (c.setScale r j e).ovf = c.ovf := rfl
@[simp] theorem Ctx.setScale_mode (c : Ctx) (r j : Nat) (e : Int) : (c.setScale r j e).mode = c.mode := rfl
@[simp] theorem Ctx.setScale_tmo (c : Ctx) (r j : Nat) (e : Int) : (c.setScale r j e).tmo = c.tmo := rfl
@[simp] theorem Ctx.setScale_lmapSel (c : Ctx) (r j : Nat) (e : Int) : (c.setScale r j e).lmapSel = c.lmapSel := rfl
@[simp] theorem Ctx.setScale_wmarks (c : Ctx) (r j : Nat) (e : Int) : (c.setScale r j e).wmarks = c.wmarks := rfl
@[simp] theorem Ctx.setScale_nest (c : Ctx) (r j : Nat) (e : Int) : (c.setScale r j e).nest = c.nest := rfl
@[simp] theorem Ctx.setScale_vq (c : Ctx) (r j : Nat) (e : Int) : (c.setScale r j e).vq = c.vq := rfl
@[simp] theorem Ctx.setScale_nextId (c : Ctx) (r j : Nat) (e : Int) : (c.setScale r j e).nextId = c.nextId := rfl
@[simp] theorem Ctx.setScale_ilocks (c : Ctx) (r j : Nat) (e : Int) : (c.setScale r j e).ilocks = c.ilocks := rfl
@[simp] theorem Ctx.setScale_bar (c : Ctx) (r j : Nat) (e : Int) : (c.setScale r j e).bar = c.bar := rfl
@[simp] theorem Ctx.setScale_barGen (c : Ctx) (r j : Nat) (e : Int) : (c.setScale r j e).barGen = c.barGen := rfl
@[simp] theorem Ctx.setScale_cpys (c : Ctx) (r j : Nat) (e : Int) : (c.setScale r j e).cpys = c.cpys := rfl
@[simp] theorem Ctx.setScale_istrs (c : Ctx) (r j : Nat) (e : Int) : (c.setScale r j e).istrs = c.istrs := rfl
@[simp] theorem Ctx.setScale_elecEnd (c : Ctx) (r j : Nat) (e : Int) : (c.setScale r j e).elecEnd = c.elecEnd := rfl
@[simp] theorem Ctx.setScale_exiting (c : Ctx) (r j : Nat) (e : Int) : (c.setScale r j e).exiting = c.exiting := rfl
@[simp] theorem Ctx.setScale_relS (c : Ctx) (r j : Nat) (e : Int) : (c.setScale r j e).relS = c.relS := rfl
@[simp] theorem Ctx.setScale_relV (c : Ctx) (r j : Nat) (e : Int) : (c.setScale r j e).relV = c.relV := rfl
@[simp] theorem Ctx.setScale_lastS (c : Ctx) (r j : Nat) (e : Int) : (c.setScale r j e).lastS = c.lastS := rfl
@[simp] theorem Ctx.setScale_lastV (c : Ctx) (r j : Nat) (e : Int) : (c.setScale r j e).lastV = c.lastV := rfl
@[simp] theorem Ctx.setScale_gates (c : Ctx) (r j : Nat) (e : Int) : (c.setScale r j e).gates = c.gates := rfl
@[simp] theorem Ctx.setScale_elecSeen (c : Ctx) (r j : Nat) (e : Int) : (c.setScale r j e).elecSeen = c.elecSeen := rfl
@[simp] theorem Ctx.setScale_dueStop (c : Ctx) (r j : Nat) (e : Int) : (c.setScale r j e).dueStop = c.dueStop := rfl
@[simp] theorem Ctx.setScale_trapLen (c : Ctx) (r j : Nat) (e : Int) : (c.setScale r j e).trapLen = c.trapLen := rfl

/-! ### Writing a scalar register: s0 ignores writes (R54) -/

@[simp] theorem Ctx.setP_pc (c : Ctx) (p : Nat) (v : Word) : (c.setP p v).pc = c.pc := by unfold Ctx.setP; split <;> rfl
@[simp] theorem Ctx.setP_vregs (c : Ctx) (p : Nat) (v : Word) : (c.setP p v).vregs = c.vregs := by unfold Ctx.setP; split <;> rfl
@[simp] theorem Ctx.setP_masks (c : Ctx) (p : Nat) (v : Word) : (c.setP p v).masks = c.masks := by unfold Ctx.setP; split <;> rfl
@[simp] theorem Ctx.setP_scales (c : Ctx) (p : Nat) (v : Word) : (c.setP p v).scales = c.scales := by unfold Ctx.setP; split <;> rfl
@[simp] theorem Ctx.setP_fibres (c : Ctx) (p : Nat) (v : Word) : (c.setP p v).fibres = c.fibres := by unfold Ctx.setP; split <;> rfl
@[simp] theorem Ctx.setP_queues (c : Ctx) (p : Nat) (v : Word) : (c.setP p v).queues = c.queues := by unfold Ctx.setP; split <;> rfl
@[simp] theorem Ctx.setP_vl (c : Ctx) (p : Nat) (v : Word) : (c.setP p v).vl = c.vl := by unfold Ctx.setP; split <;> rfl
@[simp] theorem Ctx.setP_rows (c : Ctx) (p : Nat) (v : Word) : (c.setP p v).rows = c.rows := by unfold Ctx.setP; split <;> rfl
@[simp] theorem Ctx.setP_swb (c : Ctx) (p : Nat) (v : Word) : (c.setP p v).swb = c.swb := by unfold Ctx.setP; split <;> rfl
@[simp] theorem Ctx.setP_vwb (c : Ctx) (p : Nat) (v : Word) : (c.setP p v).vwb = c.vwb := by unfold Ctx.setP; split <;> rfl
@[simp] theorem Ctx.setP_fflags (c : Ctx) (p : Nat) (v : Word) : (c.setP p v).fflags = c.fflags := by unfold Ctx.setP; split <;> rfl
@[simp] theorem Ctx.setP_xsz (c : Ctx) (p : Nat) (v : Word) : (c.setP p v).xsz = c.xsz := by unfold Ctx.setP; split <;> rfl
@[simp] theorem Ctx.setP_xbase (c : Ctx) (p : Nat) (v : Word) : (c.setP p v).xbase = c.xbase := by unfold Ctx.setP; split <;> rfl
@[simp] theorem Ctx.setP_xlovf (c : Ctx) (p : Nat) (v : Word) : (c.setP p v).xlovf = c.xlovf := by unfold Ctx.setP; split <;> rfl
@[simp] theorem Ctx.setP_xle (c : Ctx) (p : Nat) (v : Word) : (c.setP p v).xle = c.xle := by unfold Ctx.setP; split <;> rfl
@[simp] theorem Ctx.setP_rm (c : Ctx) (p : Nat) (v : Word) : (c.setP p v).rm = c.rm := by unfold Ctx.setP; split <;> rfl
@[simp] theorem Ctx.setP_fexc (c : Ctx) (p : Nat) (v : Word) : (c.setP p v).fexc = c.fexc := by unfold Ctx.setP; split <;> rfl
@[simp] theorem Ctx.setP_fprogA (c : Ctx) (p : Nat) (v : Word) : (c.setP p v).fprogA = c.fprogA := by unfold Ctx.setP; split <;> rfl
@[simp] theorem Ctx.setP_fprogB (c : Ctx) (p : Nat) (v : Word) : (c.setP p v).fprogB = c.fprogB := by unfold Ctx.setP; split <;> rfl
@[simp] theorem Ctx.setP_rng (c : Ctx) (p : Nat) (v : Word) : (c.setP p v).rng = c.rng := by unfold Ctx.setP; split <;> rfl
@[simp] theorem Ctx.setP_ord (c : Ctx) (p : Nat) (v : Word) : (c.setP p v).ord = c.ord := by unfold Ctx.setP; split <;> rfl
@[simp] theorem Ctx.setP_ovf (c : Ctx) (p : Nat) (v : Word) : (c.setP p v).ovf = c.ovf := by unfold Ctx.setP; split <;> rfl
@[simp] theorem Ctx.setP_mode (c : Ctx) (p : Nat) (v : Word) : (c.setP p v).mode = c.mode := by unfold Ctx.setP; split <;> rfl
@[simp] theorem Ctx.setP_tmo (c : Ctx) (p : Nat) (v : Word) : (c.setP p v).tmo = c.tmo := by unfold Ctx.setP; split <;> rfl
@[simp] theorem Ctx.setP_lmapSel (c : Ctx) (p : Nat) (v : Word) : (c.setP p v).lmapSel = c.lmapSel := by unfold Ctx.setP; split <;> rfl
@[simp] theorem Ctx.setP_wmarks (c : Ctx) (p : Nat) (v : Word) : (c.setP p v).wmarks = c.wmarks := by unfold Ctx.setP; split <;> rfl
@[simp] theorem Ctx.setP_nest (c : Ctx) (p : Nat) (v : Word) : (c.setP p v).nest = c.nest := by unfold Ctx.setP; split <;> rfl
@[simp] theorem Ctx.setP_vq (c : Ctx) (p : Nat) (v : Word) : (c.setP p v).vq = c.vq := by unfold Ctx.setP; split <;> rfl
@[simp] theorem Ctx.setP_nextId (c : Ctx) (p : Nat) (v : Word) : (c.setP p v).nextId = c.nextId := by unfold Ctx.setP; split <;> rfl
@[simp] theorem Ctx.setP_ilocks (c : Ctx) (p : Nat) (v : Word) : (c.setP p v).ilocks = c.ilocks := by unfold Ctx.setP; split <;> rfl
@[simp] theorem Ctx.setP_bar (c : Ctx) (p : Nat) (v : Word) : (c.setP p v).bar = c.bar := by unfold Ctx.setP; split <;> rfl
@[simp] theorem Ctx.setP_barGen (c : Ctx) (p : Nat) (v : Word) : (c.setP p v).barGen = c.barGen := by unfold Ctx.setP; split <;> rfl
@[simp] theorem Ctx.setP_cpys (c : Ctx) (p : Nat) (v : Word) : (c.setP p v).cpys = c.cpys := by unfold Ctx.setP; split <;> rfl
@[simp] theorem Ctx.setP_istrs (c : Ctx) (p : Nat) (v : Word) : (c.setP p v).istrs = c.istrs := by unfold Ctx.setP; split <;> rfl
@[simp] theorem Ctx.setP_elecEnd (c : Ctx) (p : Nat) (v : Word) : (c.setP p v).elecEnd = c.elecEnd := by unfold Ctx.setP; split <;> rfl
@[simp] theorem Ctx.setP_exiting (c : Ctx) (p : Nat) (v : Word) : (c.setP p v).exiting = c.exiting := by unfold Ctx.setP; split <;> rfl
@[simp] theorem Ctx.setP_relS (c : Ctx) (p : Nat) (v : Word) : (c.setP p v).relS = c.relS := by unfold Ctx.setP; split <;> rfl
@[simp] theorem Ctx.setP_relV (c : Ctx) (p : Nat) (v : Word) : (c.setP p v).relV = c.relV := by unfold Ctx.setP; split <;> rfl
@[simp] theorem Ctx.setP_lastS (c : Ctx) (p : Nat) (v : Word) : (c.setP p v).lastS = c.lastS := by unfold Ctx.setP; split <;> rfl
@[simp] theorem Ctx.setP_lastV (c : Ctx) (p : Nat) (v : Word) : (c.setP p v).lastV = c.lastV := by unfold Ctx.setP; split <;> rfl
@[simp] theorem Ctx.setP_gates (c : Ctx) (p : Nat) (v : Word) : (c.setP p v).gates = c.gates := by unfold Ctx.setP; split <;> rfl
@[simp] theorem Ctx.setP_elecSeen (c : Ctx) (p : Nat) (v : Word) : (c.setP p v).elecSeen = c.elecSeen := by unfold Ctx.setP; split <;> rfl
@[simp] theorem Ctx.setP_dueStop (c : Ctx) (p : Nat) (v : Word) : (c.setP p v).dueStop = c.dueStop := by unfold Ctx.setP; split <;> rfl
@[simp] theorem Ctx.setP_trapLen (c : Ctx) (p : Nat) (v : Word) : (c.setP p v).trapLen = c.trapLen := by unfold Ctx.setP; split <;> rfl
@[simp] theorem Ctx.setS_pc (c : Ctx) (n : Nat) (v : Word) : (c.setS n v).pc = c.pc := Ctx.setP_pc c _ v
@[simp] theorem Ctx.setS_vregs (c : Ctx) (n : Nat) (v : Word) : (c.setS n v).vregs = c.vregs := Ctx.setP_vregs c _ v
@[simp] theorem Ctx.setS_masks (c : Ctx) (n : Nat) (v : Word) : (c.setS n v).masks = c.masks := Ctx.setP_masks c _ v
@[simp] theorem Ctx.setS_scales (c : Ctx) (n : Nat) (v : Word) : (c.setS n v).scales = c.scales := Ctx.setP_scales c _ v
@[simp] theorem Ctx.setS_fibres (c : Ctx) (n : Nat) (v : Word) : (c.setS n v).fibres = c.fibres := Ctx.setP_fibres c _ v
@[simp] theorem Ctx.setS_queues (c : Ctx) (n : Nat) (v : Word) : (c.setS n v).queues = c.queues := Ctx.setP_queues c _ v
@[simp] theorem Ctx.setS_vl (c : Ctx) (n : Nat) (v : Word) : (c.setS n v).vl = c.vl := Ctx.setP_vl c _ v
@[simp] theorem Ctx.setS_rows (c : Ctx) (n : Nat) (v : Word) : (c.setS n v).rows = c.rows := Ctx.setP_rows c _ v
@[simp] theorem Ctx.setS_swb (c : Ctx) (n : Nat) (v : Word) : (c.setS n v).swb = c.swb := Ctx.setP_swb c _ v
@[simp] theorem Ctx.setS_vwb (c : Ctx) (n : Nat) (v : Word) : (c.setS n v).vwb = c.vwb := Ctx.setP_vwb c _ v
@[simp] theorem Ctx.setS_fflags (c : Ctx) (n : Nat) (v : Word) : (c.setS n v).fflags = c.fflags := Ctx.setP_fflags c _ v
@[simp] theorem Ctx.setS_xsz (c : Ctx) (n : Nat) (v : Word) : (c.setS n v).xsz = c.xsz := Ctx.setP_xsz c _ v
@[simp] theorem Ctx.setS_xbase (c : Ctx) (n : Nat) (v : Word) : (c.setS n v).xbase = c.xbase := Ctx.setP_xbase c _ v
@[simp] theorem Ctx.setS_xlovf (c : Ctx) (n : Nat) (v : Word) : (c.setS n v).xlovf = c.xlovf := Ctx.setP_xlovf c _ v
@[simp] theorem Ctx.setS_xle (c : Ctx) (n : Nat) (v : Word) : (c.setS n v).xle = c.xle := Ctx.setP_xle c _ v
@[simp] theorem Ctx.setS_rm (c : Ctx) (n : Nat) (v : Word) : (c.setS n v).rm = c.rm := Ctx.setP_rm c _ v
@[simp] theorem Ctx.setS_fexc (c : Ctx) (n : Nat) (v : Word) : (c.setS n v).fexc = c.fexc := Ctx.setP_fexc c _ v
@[simp] theorem Ctx.setS_fprogA (c : Ctx) (n : Nat) (v : Word) : (c.setS n v).fprogA = c.fprogA := Ctx.setP_fprogA c _ v
@[simp] theorem Ctx.setS_fprogB (c : Ctx) (n : Nat) (v : Word) : (c.setS n v).fprogB = c.fprogB := Ctx.setP_fprogB c _ v
@[simp] theorem Ctx.setS_rng (c : Ctx) (n : Nat) (v : Word) : (c.setS n v).rng = c.rng := Ctx.setP_rng c _ v
@[simp] theorem Ctx.setS_ord (c : Ctx) (n : Nat) (v : Word) : (c.setS n v).ord = c.ord := Ctx.setP_ord c _ v
@[simp] theorem Ctx.setS_ovf (c : Ctx) (n : Nat) (v : Word) : (c.setS n v).ovf = c.ovf := Ctx.setP_ovf c _ v
@[simp] theorem Ctx.setS_mode (c : Ctx) (n : Nat) (v : Word) : (c.setS n v).mode = c.mode := Ctx.setP_mode c _ v
@[simp] theorem Ctx.setS_tmo (c : Ctx) (n : Nat) (v : Word) : (c.setS n v).tmo = c.tmo := Ctx.setP_tmo c _ v
@[simp] theorem Ctx.setS_lmapSel (c : Ctx) (n : Nat) (v : Word) : (c.setS n v).lmapSel = c.lmapSel := Ctx.setP_lmapSel c _ v
@[simp] theorem Ctx.setS_wmarks (c : Ctx) (n : Nat) (v : Word) : (c.setS n v).wmarks = c.wmarks := Ctx.setP_wmarks c _ v
@[simp] theorem Ctx.setS_nest (c : Ctx) (n : Nat) (v : Word) : (c.setS n v).nest = c.nest := Ctx.setP_nest c _ v
@[simp] theorem Ctx.setS_vq (c : Ctx) (n : Nat) (v : Word) : (c.setS n v).vq = c.vq := Ctx.setP_vq c _ v
@[simp] theorem Ctx.setS_nextId (c : Ctx) (n : Nat) (v : Word) : (c.setS n v).nextId = c.nextId := Ctx.setP_nextId c _ v
@[simp] theorem Ctx.setS_ilocks (c : Ctx) (n : Nat) (v : Word) : (c.setS n v).ilocks = c.ilocks := Ctx.setP_ilocks c _ v
@[simp] theorem Ctx.setS_bar (c : Ctx) (n : Nat) (v : Word) : (c.setS n v).bar = c.bar := Ctx.setP_bar c _ v
@[simp] theorem Ctx.setS_barGen (c : Ctx) (n : Nat) (v : Word) : (c.setS n v).barGen = c.barGen := Ctx.setP_barGen c _ v
@[simp] theorem Ctx.setS_cpys (c : Ctx) (n : Nat) (v : Word) : (c.setS n v).cpys = c.cpys := Ctx.setP_cpys c _ v
@[simp] theorem Ctx.setS_istrs (c : Ctx) (n : Nat) (v : Word) : (c.setS n v).istrs = c.istrs := Ctx.setP_istrs c _ v
@[simp] theorem Ctx.setS_elecEnd (c : Ctx) (n : Nat) (v : Word) : (c.setS n v).elecEnd = c.elecEnd := Ctx.setP_elecEnd c _ v
@[simp] theorem Ctx.setS_exiting (c : Ctx) (n : Nat) (v : Word) : (c.setS n v).exiting = c.exiting := Ctx.setP_exiting c _ v
@[simp] theorem Ctx.setS_relS (c : Ctx) (n : Nat) (v : Word) : (c.setS n v).relS = c.relS := Ctx.setP_relS c _ v
@[simp] theorem Ctx.setS_relV (c : Ctx) (n : Nat) (v : Word) : (c.setS n v).relV = c.relV := Ctx.setP_relV c _ v
@[simp] theorem Ctx.setS_lastS (c : Ctx) (n : Nat) (v : Word) : (c.setS n v).lastS = c.lastS := Ctx.setP_lastS c _ v
@[simp] theorem Ctx.setS_lastV (c : Ctx) (n : Nat) (v : Word) : (c.setS n v).lastV = c.lastV := Ctx.setP_lastV c _ v
@[simp] theorem Ctx.setS_gates (c : Ctx) (n : Nat) (v : Word) : (c.setS n v).gates = c.gates := Ctx.setP_gates c _ v
@[simp] theorem Ctx.setS_elecSeen (c : Ctx) (n : Nat) (v : Word) : (c.setS n v).elecSeen = c.elecSeen := Ctx.setP_elecSeen c _ v
@[simp] theorem Ctx.setS_dueStop (c : Ctx) (n : Nat) (v : Word) : (c.setS n v).dueStop = c.dueStop := Ctx.setP_dueStop c _ v
@[simp] theorem Ctx.setS_trapLen (c : Ctx) (n : Nat) (v : Word) : (c.setS n v).trapLen = c.trapLen := Ctx.setP_trapLen c _ v

@[simp] theorem physS_setS (c : Ctx) (n k : Nat) (v : Word) : physS (c.setS n v) k = physS c k := by simp [physS]

/-- A physical scalar register after one is written. -/
theorem Ctx.getP_setP (c : Ctx) (p q : Nat) (v : Word) :
    (c.setP p v).getP q = if q = p ∧ p ≠ 0 then v else c.getP q := by
  unfold Ctx.setP Ctx.getP
  by_cases hp : p = 0
  · simp [hp]
  · by_cases hq : q = 0
    · have : ¬(0 = p) := fun h => hp h.symm
      simp [hp, hq, this]
    · simp [hp, hq, sget_sset]

/-- A scalar register after one is written, by name (R54, R83). -/
theorem Ctx.getS_setS (c : Ctx) (n k : Nat) (v : Word) :
    (c.setS n v).getS k = if physS c k = physS c n ∧ physS c n ≠ 0 then v else c.getS k := by
  unfold Ctx.getS
  rw [physS_setS]
  exact Ctx.getP_setP c _ _ v

/-- s0 reads zero (R54). -/
@[simp] theorem Ctx.getS_zero (c : Ctx) : c.getS 0 = 0 := by simp [Ctx.getS, physS, Ctx.getP]

@[simp] theorem Ctx.getS_raise (c : Ctx) (fl n : Nat) : (c.raise fl).getS n = c.getS n := rfl

/-- A physical vector register after one is written. -/
theorem Ctx.getV_setV (c : Ctx) (p q : Nat) (v : VReg) : (c.setV p v).getV q = if q = p then v else c.getV q :=
  sget_sset c.vregs 0 p q v

/-! ### Accessors after updates -/

/-- A hart slot after one is replaced. -/
@[simp] theorem State.hart_setHart (s : State) (h k : Nat) (x : Hart) : (s.setHart h x).hart k = if k = h then x else s.hart k :=
  sget_sset s.harts Hart.init h k x
@[simp] theorem State.hart_setCore (s : State) (c k : Nat) (x : Core) : (s.setCore c x).hart k = s.hart k := rfl
@[simp] theorem State.hart_setTower (s : State) (t k : Nat) (x : Tower) : (s.setTower t x).hart k = s.hart k := rfl
@[simp] theorem State.core_setHart (s : State) (h k : Nat) (x : Hart) : (s.setHart h x).core k = s.core k := rfl
/-- A core after one is replaced. -/
@[simp] theorem State.core_setCore (s : State) (c k : Nat) (x : Core) : (s.setCore c x).core k = if k = c then x else s.core k :=
  sget_sset s.cores Core.init c k x
@[simp] theorem State.core_setTower (s : State) (t k : Nat) (x : Tower) : (s.setTower t x).core k = s.core k := rfl
@[simp] theorem State.tower_setHart (s : State) (h k : Nat) (x : Hart) : (s.setHart h x).tower k = s.tower k := rfl
@[simp] theorem State.tower_setCore (s : State) (c k : Nat) (x : Core) : (s.setCore c x).tower k = s.tower k := rfl
/-- A tower after one is replaced. -/
@[simp] theorem State.tower_setTower (s : State) (t k : Nat) (x : Tower) :
    (s.setTower t x).tower k = if k = t then x else s.tower k :=
  sget_sset s.towers Tower.init t k x

theorem State.modHart_eq (s : State) (h : Nat) (f : Hart → Hart) : s.modHart h f = s.setHart h (f (s.hart h)) := rfl
theorem State.modCtx_eq (s : State) (h : Nat) (f : Ctx → Ctx) :
    s.modCtx h f = s.setHart h { s.hart h with ctx := f (s.ctx h) } := rfl
theorem State.modCore_eq (s : State) (c : Nat) (f : Core → Core) : s.modCore c f = s.setCore c (f (s.core c)) := rfl
theorem State.modTower_eq (s : State) (t : Nat) (f : Tower → Tower) : s.modTower t f = s.setTower t (f (s.tower t)) := rfl

@[simp] theorem State.hart_modHart (s : State) (h k : Nat) (f : Hart → Hart) :
    (s.modHart h f).hart k = if k = h then f (s.hart h) else s.hart k := State.hart_setHart s h k _
@[simp] theorem State.ctx_modCtx_same (s : State) (h : Nat) (f : Ctx → Ctx) : (s.modCtx h f).ctx h = f (s.ctx h) := by
  simp [State.modCtx_eq, State.ctx]

/-! ### Counting events changes counters only (R335) -/

/-- Everything but the counts stays when events are counted. -/
theorem State.countAs_eq (s : State) (o : Nat × Nat) (evt n : Nat) :
    s.countAs o evt n = { s with dbg := { s.dbg with ctrs := (s.countAs o evt n).dbg.ctrs } } := by
  unfold State.countAs
  have key : ∀ (l : List (Nat × Word)) (t : State),
      l.foldl (fun s e => if s.counts e.2 o.1 o.2 evt then
        { s with dbg := { s.dbg with ctrs := sset s.dbg.ctrs 0 e.1 (sget s.dbg.ctrs 0 e.1 + w64 n) } } else s) t =
      { t with dbg := { t.dbg with ctrs := (l.foldl (fun s e => if s.counts e.2 o.1 o.2 evt then
        { s with dbg := { s.dbg with ctrs := sset s.dbg.ctrs 0 e.1 (sget s.dbg.ctrs 0 e.1 + w64 n) } } else s) t).dbg.ctrs } } := by
    intro l
    induction l with
    | nil => intro t; rfl
    | cons a u ih =>
      intro t
      simp only [List.foldl_cons]
      split
      · rw [ih]
      · exact ih t
  exact key s.dbg.ctrCtl s

theorem State.count_eq (s : State) (h evt n : Nat) :
    s.count h evt n = { s with dbg := { s.dbg with ctrs := (s.count h evt n).dbg.ctrs } } := s.countAs_eq _ evt n

@[simp] theorem State.countAs_mem (s : State) (o : Nat × Nat) (evt n : Nat) : (s.countAs o evt n).mem = s.mem := by rw [State.countAs_eq]
@[simp] theorem State.countAs_time (s : State) (o : Nat × Nat) (evt n : Nat) : (s.countAs o evt n).time = s.time := by rw [State.countAs_eq]
@[simp] theorem State.countAs_pkg (s : State) (o : Nat × Nat) (evt n : Nat) : (s.countAs o evt n).pkg = s.pkg := by rw [State.countAs_eq]
@[simp] theorem State.countAs_coreMask (s : State) (o : Nat × Nat) (evt n : Nat) : (s.countAs o evt n).coreMask = s.coreMask := by rw [State.countAs_eq]
@[simp] theorem State.countAs_harts (s : State) (o : Nat × Nat) (evt n : Nat) : (s.countAs o evt n).harts = s.harts := by rw [State.countAs_eq]
@[simp] theorem State.countAs_cores (s : State) (o : Nat × Nat) (evt n : Nat) : (s.countAs o evt n).cores = s.cores := by rw [State.countAs_eq]
@[simp] theorem State.countAs_towers (s : State) (o : Nat × Nat) (evt n : Nat) : (s.countAs o evt n).towers = s.towers := by rw [State.countAs_eq]
@[simp] theorem State.countAs_engines (s : State) (o : Nat × Nat) (evt n : Nat) : (s.countAs o evt n).engines = s.engines := by rw [State.countAs_eq]
@[simp] theorem State.countAs_engTlb (s : State) (o : Nat × Nat) (evt n : Nat) : (s.countAs o evt n).engTlb = s.engTlb := by rw [State.countAs_eq]
@[simp] theorem State.countAs_llc (s : State) (o : Nat × Nat) (evt n : Nat) : (s.countAs o evt n).llc = s.llc := by rw [State.countAs_eq]
@[simp] theorem State.countAs_dir (s : State) (o : Nat × Nat) (evt n : Nat) : (s.countAs o evt n).dir = s.dir := by rw [State.countAs_eq]
@[simp] theorem State.countAs_dirty (s : State) (o : Nat × Nat) (evt n : Nat) : (s.countAs o evt n).dirty = s.dirty := by rw [State.countAs_eq]
@[simp] theorem State.countAs_stale (s : State) (o : Nat × Nat) (evt n : Nat) : (s.countAs o evt n).stale = s.stale := by rw [State.countAs_eq]
@[simp] theorem State.countAs_txns (s : State) (o : Nat × Nat) (evt n : Nat) : (s.countAs o evt n).txns = s.txns := by rw [State.countAs_eq]
@[simp] theorem State.countAs_toBank (s : State) (o : Nat × Nat) (evt n : Nat) : (s.countAs o evt n).toBank = s.toBank := by rw [State.countAs_eq]
@[simp] theorem State.countAs_toCore (s : State) (o : Nat × Nat) (evt n : Nat) : (s.countAs o evt n).toCore = s.toCore := by rw [State.countAs_eq]
@[simp] theorem State.countAs_links (s : State) (o : Nat × Nat) (evt n : Nat) : (s.countAs o evt n).links = s.links := by rw [State.countAs_eq]
@[simp] theorem State.countAs_tags (s : State) (o : Nat × Nat) (evt n : Nat) : (s.countAs o evt n).tags = s.tags := by rw [State.countAs_eq]
@[simp] theorem State.countAs_sched (s : State) (o : Nat × Nat) (evt n : Nat) : (s.countAs o evt n).sched = s.sched := by rw [State.countAs_eq]
@[simp] theorem State.countAs_fb (s : State) (o : Nat × Nat) (evt n : Nat) : (s.countAs o evt n).fb = s.fb := by rw [State.countAs_eq]
@[simp] theorem State.countAs_irq (s : State) (o : Nat × Nat) (evt n : Nat) : (s.countAs o evt n).irq = s.irq := by rw [State.countAs_eq]
@[simp] theorem State.countAs_boot (s : State) (o : Nat × Nat) (evt n : Nat) : (s.countAs o evt n).boot = s.boot := by rw [State.countAs_eq]
@[simp] theorem State.countAs_port (s : State) (o : Nat × Nat) (evt n : Nat) : (s.countAs o evt n).port = s.port := by rw [State.countAs_eq]
@[simp] theorem State.countAs_power (s : State) (o : Nat × Nat) (evt n : Nat) : (s.countAs o evt n).power = s.power := by rw [State.countAs_eq]
@[simp] theorem State.countAs_ras (s : State) (o : Nat × Nat) (evt n : Nat) : (s.countAs o evt n).ras = s.ras := by rw [State.countAs_eq]
@[simp] theorem State.countAs_powered (s : State) (o : Nat × Nat) (evt n : Nat) : (s.countAs o evt n).powered = s.powered := by rw [State.countAs_eq]
@[simp] theorem State.countAs_agenda (s : State) (o : Nat × Nat) (evt n : Nat) : (s.countAs o evt n).agenda = s.agenda := by rw [State.countAs_eq]
@[simp] theorem State.countAs_move (s : State) (o : Nat × Nat) (evt n : Nat) : (s.countAs o evt n).move = s.move := by rw [State.countAs_eq]
@[simp] theorem State.countAs_cur (s : State) (o : Nat × Nat) (evt n : Nat) : (s.countAs o evt n).cur = s.cur := by rw [State.countAs_eq]
@[simp] theorem State.countAs_free (s : State) (o : Nat × Nat) (evt n : Nat) : (s.countAs o evt n).free = s.free := by rw [State.countAs_eq]
@[simp] theorem State.count_mem (s : State) (h evt n : Nat) : (s.count h evt n).mem = s.mem := by rw [State.count_eq]
@[simp] theorem State.count_time (s : State) (h evt n : Nat) : (s.count h evt n).time = s.time := by rw [State.count_eq]
@[simp] theorem State.count_pkg (s : State) (h evt n : Nat) : (s.count h evt n).pkg = s.pkg := by rw [State.count_eq]
@[simp] theorem State.count_coreMask (s : State) (h evt n : Nat) : (s.count h evt n).coreMask = s.coreMask := by rw [State.count_eq]
@[simp] theorem State.count_harts (s : State) (h evt n : Nat) : (s.count h evt n).harts = s.harts := by rw [State.count_eq]
@[simp] theorem State.count_cores (s : State) (h evt n : Nat) : (s.count h evt n).cores = s.cores := by rw [State.count_eq]
@[simp] theorem State.count_towers (s : State) (h evt n : Nat) : (s.count h evt n).towers = s.towers := by rw [State.count_eq]
@[simp] theorem State.count_engines (s : State) (h evt n : Nat) : (s.count h evt n).engines = s.engines := by rw [State.count_eq]
@[simp] theorem State.count_engTlb (s : State) (h evt n : Nat) : (s.count h evt n).engTlb = s.engTlb := by rw [State.count_eq]
@[simp] theorem State.count_llc (s : State) (h evt n : Nat) : (s.count h evt n).llc = s.llc := by rw [State.count_eq]
@[simp] theorem State.count_dir (s : State) (h evt n : Nat) : (s.count h evt n).dir = s.dir := by rw [State.count_eq]
@[simp] theorem State.count_dirty (s : State) (h evt n : Nat) : (s.count h evt n).dirty = s.dirty := by rw [State.count_eq]
@[simp] theorem State.count_stale (s : State) (h evt n : Nat) : (s.count h evt n).stale = s.stale := by rw [State.count_eq]
@[simp] theorem State.count_txns (s : State) (h evt n : Nat) : (s.count h evt n).txns = s.txns := by rw [State.count_eq]
@[simp] theorem State.count_toBank (s : State) (h evt n : Nat) : (s.count h evt n).toBank = s.toBank := by rw [State.count_eq]
@[simp] theorem State.count_toCore (s : State) (h evt n : Nat) : (s.count h evt n).toCore = s.toCore := by rw [State.count_eq]
@[simp] theorem State.count_links (s : State) (h evt n : Nat) : (s.count h evt n).links = s.links := by rw [State.count_eq]
@[simp] theorem State.count_tags (s : State) (h evt n : Nat) : (s.count h evt n).tags = s.tags := by rw [State.count_eq]
@[simp] theorem State.count_sched (s : State) (h evt n : Nat) : (s.count h evt n).sched = s.sched := by rw [State.count_eq]
@[simp] theorem State.count_fb (s : State) (h evt n : Nat) : (s.count h evt n).fb = s.fb := by rw [State.count_eq]
@[simp] theorem State.count_irq (s : State) (h evt n : Nat) : (s.count h evt n).irq = s.irq := by rw [State.count_eq]
@[simp] theorem State.count_boot (s : State) (h evt n : Nat) : (s.count h evt n).boot = s.boot := by rw [State.count_eq]
@[simp] theorem State.count_port (s : State) (h evt n : Nat) : (s.count h evt n).port = s.port := by rw [State.count_eq]
@[simp] theorem State.count_power (s : State) (h evt n : Nat) : (s.count h evt n).power = s.power := by rw [State.count_eq]
@[simp] theorem State.count_ras (s : State) (h evt n : Nat) : (s.count h evt n).ras = s.ras := by rw [State.count_eq]
@[simp] theorem State.count_powered (s : State) (h evt n : Nat) : (s.count h evt n).powered = s.powered := by rw [State.count_eq]
@[simp] theorem State.count_agenda (s : State) (h evt n : Nat) : (s.count h evt n).agenda = s.agenda := by rw [State.count_eq]
@[simp] theorem State.count_move (s : State) (h evt n : Nat) : (s.count h evt n).move = s.move := by rw [State.count_eq]
@[simp] theorem State.count_cur (s : State) (h evt n : Nat) : (s.count h evt n).cur = s.cur := by rw [State.count_eq]
@[simp] theorem State.count_free (s : State) (h evt n : Nat) : (s.count h evt n).free = s.free := by rw [State.count_eq]
@[simp] theorem State.hart_count (s : State) (h evt n k : Nat) : (s.count h evt n).hart k = s.hart k := by simp [State.hart]
@[simp] theorem State.core_count (s : State) (h evt n k : Nat) : (s.count h evt n).core k = s.core k := by simp [State.core]
@[simp] theorem State.tower_count (s : State) (h evt n k : Nat) : (s.count h evt n).tower k = s.tower k := by simp [State.tower]

/-! ### Completing a scalar instruction -/

/-- All that completing a scalar instruction does: its wait ends, its context advances, its retirement is counted (R83, R335). -/
theorem State.finish_eq (s : State) (h len : Nat) :
    s.finish h len = (s.count h 2 1).setHart h { s.hart h with wait := none, ctx := (s.ctx h).advance len } := by
  simp [State.finish, State.modHart_eq, State.ctx]

/-- All that a scalar instruction with a jump does (R93, R94). -/
theorem State.jump_eq (s : State) (h : Nat) (target : BitVec 56) :
    s.jump h target = (s.count h 2 1).setHart h { s.hart h with wait := none, ctx := { s.ctx h with pc := target } } := by
  simp [State.jump, State.modHart_eq, State.ctx]

/-- The slot of a hart after a scalar instruction writes rd and completes. -/
theorem State.finishRd_hart (s : State) (h d : Nat) (v : Word) :
    (s.finishRd h d v).hart h = { s.hart h with wait := none, ctx := ((s.ctx h).setS d v).advance 4 } := by
  simp [State.finishRd, State.finish_eq, State.setS64, State.modCtx_eq, State.ctx]

/-- Every other hart slot stays. -/
theorem State.finishRd_other (s : State) (h d k : Nat) (v : Word) (hk : k ≠ h) : (s.finishRd h d v).hart k = s.hart k := by
  simp [State.finishRd, State.finish_eq, State.setS64, State.modCtx_eq, hk]

end Sys2Proof.Machine
end

