-- ==== Sys2Proof/Laws/Kept.lean ====
section
/-! SUPPORT. Laws of the canonical form: every operation that writes memory keeps it; the operations of the caches that change no
byte are named. -/

namespace Sys2Proof.Machine

/-- The memory of a machine is in its canonical form. -/
def State.kept (s : State) : Prop := Memory.wf s.mem = true

/-- A fold of operations that keep the form keeps it. -/
theorem State.kept_foldl {α : Type} (f : State → α → State) (hf : ∀ s a, s.kept → (f s a).kept) (l : List α) (s : State) (h : s.kept) :
    (l.foldl f s).kept := by
  induction l generalizing s with
  | nil => exact h
  | cons a t ih => exact ih _ (hf s a h)

/-- A fold of operations that change no byte changes none. -/
theorem State.mem_foldl {α : Type} (f : State → α → State) (hf : ∀ s a, (f s a).mem = s.mem) (l : List α) (s : State) :
    (l.foldl f s).mem = s.mem := by
  induction l generalizing s with
  | nil => rfl
  | cons a t ih => rw [List.foldl_cons, ih, hf]

/-! ### Caches and directory -/

@[simp] theorem State.markDirty_mem (s : State) (l : Nat) : (s.markDirty l).mem = s.mem := by unfold State.markDirty; split <;> rfl
@[simp] theorem State.keepStale_mem (s : State) (l : Nat) : (s.keepStale l).mem = s.mem := by unfold State.keepStale; split <;> rfl
@[simp] theorem State.writeBack_mem (s : State) (l : Nat) : (s.writeBack l).mem = s.mem := rfl
@[simp] theorem State.setDir_mem (s : State) (l : Nat) (d : DirEnt) : (s.setDir l d).mem = s.mem := rfl
@[simp] theorem State.setDc_mem (s : State) (c l : Nat) (x : DcState) : (s.setDc c l x).mem = s.mem := rfl
@[simp] theorem State.recall_mem (s : State) (l : Nat) : (s.recall l).mem = s.mem := by
  simp only [State.recall, State.setDir_mem]
  exact State.mem_foldl (fun s c => s.setDc c l .I) (fun _ _ => rfl) _ s
@[simp] theorem State.downDc_mem (s : State) (c l : Nat) : (s.downDc c l).mem = s.mem := by unfold State.downDc; split <;> simp
@[simp] theorem State.sendBank_mem (s : State) (c l : Nat) (m : CMsg) : (s.sendBank c l m).mem = s.mem := rfl
@[simp] theorem State.sendCore_mem (s : State) (c l : Nat) (m : CMsg) : (s.sendCore c l m).mem = s.mem := rfl
@[simp] theorem State.allot_mem (s : State) (l : Nat) (p : Bool) : (s.allot l p).mem = s.mem := rfl
@[simp] theorem State.closeTxn_mem (s : State) (l : Nat) : (s.closeTxn l).mem = s.mem := by
  unfold State.closeTxn
  split
  · split
    · rfl
    · split <;> rfl
  · rfl
@[simp] theorem State.dcDropLine_mem (s : State) (c l : Nat) : (s.dcDropLine c l).mem = s.mem := by
  simp only [State.dcDropLine]
  split
  · simp
  · split
    · simp
    · split <;> simp
@[simp] theorem State.dcRoom_mem (s : State) (c l : Nat) : (s.dcRoom c l).mem = s.mem := by
  simp only [State.dcRoom]
  split
  · rfl
  · generalize s.victim (s.dcSet c (sbOf (l * 64) % 64)) = v
    cases v with
    | none => simp only [Option.map_none, Option.getD_none]
    | some v =>
      simp only [Option.map_some, Option.getD_some]
      exact State.mem_foldl _ (fun _ _ => State.dcDropLine_mem _ _ _) _ _
@[simp] theorem State.sliceRead_mem (s : State) (l : Nat) : (s.sliceRead l).mem = s.mem := by
  simp only [State.sliceRead]; split <;> simp
@[simp] theorem State.sliceWrite_mem (s : State) (l : Nat) : (s.sliceWrite l).mem = s.mem := State.recall_mem s l
@[simp] theorem State.getS_mem (s : State) (c l : Nat) : (s.getS c l).mem = s.mem := by
  simp only [State.getS]; split <;> simp
@[simp] theorem State.getX_mem (s : State) (c l : Nat) : (s.getX c l).mem = s.mem := by simp [State.getX]

@[simp] theorem State.takeCore_mem (s : State) (c l : Nat) (m : CMsg) : (s.takeCore c l m).mem = s.mem := rfl
@[simp] theorem State.request_mem (s : State) (c l : Nat) (m : CMsg) (a : Pend) : (s.request c l m a).mem = s.mem := by
  unfold State.request; split <;> rfl
@[simp] theorem State.askFor_mem (s : State) (h : Nat) (a : Pend) (w : Bool) : (s.askFor h a w).mem = s.mem := by
  unfold State.askFor; split <;> simp
@[simp] theorem State.noteRead_mem (s : State) (h : Nat) (b : Bool) (ps : List (Nat × Nat)) (va : Nat) :
    (s.noteRead h b ps va).mem = s.mem := by
  simp only [State.noteRead]; split <;> split <;> rfl
@[simp] theorem State.loadBack_mem (s : State) (h v : Nat) : (s.loadBack h v).mem = s.mem := by
  unfold State.loadBack; split <;> rfl
@[simp] theorem State.loadIn_mem (s : State) (h : Nat) (a : Pend) : (s.loadIn h a).mem = s.mem := by simp [State.loadIn]

/-! ### What keeps the form -/

theorem State.kept_wr (s : State) (a n v : Nat) (h : s.kept) : (s.wr a n v).kept := by
  unfold State.wr State.kept
  refine Memory.wf_wrNum _ _ _ _ ?_
  split
  · rw [State.mem_foldl _ fun _ _ => by simp]
    exact h
  · exact h
/-- A store in flight writes its bytes, and no other (R161). -/
theorem State.storeIn_mem (s : State) (h : Nat) (a : Pend) :
    (s.storeIn h a).mem = ((s.modHart h (fun x => { x with pend := x.pend.erase a })).wr a.loc a.size a.data).mem := by
  unfold State.storeIn; split <;> rfl
theorem State.kept_storeIn (s : State) (h : Nat) (a : Pend) (k : s.kept) : (s.storeIn h a).kept := by
  unfold State.kept
  rw [State.storeIn_mem]
  exact State.kept_wr _ _ _ _ k
theorem State.kept_lineReady (s : State) (c l : Nat) (own : Bool) (k : s.kept) : (s.lineReady c l own).kept := by
  refine State.kept_foldl _ (fun s h hs => ?_) _ s k
  have hp : State.kept ((s.hart h).pend.foldl (fun s a =>
      if !a.onLine l then s else if own then (s.setDc c l .M).storeIn h a else s.askFor h a true) s) := by
    refine State.kept_foldl _ (fun s a hs => ?_) _ s hs
    split
    · exact hs
    · split
      · exact State.kept_storeIn _ h a hs
      · unfold State.kept at *; simpa using hs
  dsimp only
  generalize List.foldl _ s (s.hart h).pend = u at hp ⊢
  unfold State.kept at *
  cases (u.hart h).loads with
  | none => exact hp
  | some a =>
    simp only
    split
    · simpa using hp
    · exact hp
theorem State.kept_enterLine (s : State) (c l : Nat) (x : DcState) (k : s.kept) : (s.enterLine c l x).kept :=
  State.kept_lineReady _ c l _ (by unfold State.kept at *; simpa using k)
theorem State.kept_replyIn (s : State) (c l : Nat) (m : CMsg) (k : s.kept) : (s.replyIn c l m).kept := by
  simp only [State.replyIn]
  split
  · exact State.kept_enterLine _ c l _ k
  · exact k
theorem State.kept_repliesIn (s : State) (l : Nat) (k : s.kept) : (s.repliesIn l).kept :=
  State.kept_foldl _ (fun _ p hs => State.kept_replyIn _ p.core p.line p.msg hs) _ s k
/-- The end of a line's transaction writes what stores in flight write, and nothing else (R159, R161). -/
theorem State.kept_quietLine (s : State) (l : Nat) (k : s.kept) : (s.quietLine l).kept := by
  have hr := State.kept_repliesIn s l k
  unfold State.quietLine
  extract_lets a put b
  split
  · extract_lets v w
    refine State.kept_repliesIn _ l ?_
    unfold State.kept at *
    rw [State.closeTxn_mem]
    change Memory.wf v.mem = true
    simp only [v]
    rw [State.mem_foldl _ fun _ _ => State.setDc_mem _ _ _ _]
    exact hr
  · split
    · exact hr
    · exact hr
theorem State.kept_quietAt (s : State) (a n : Nat) (k : s.kept) : (s.quietAt a n).kept := by
  unfold State.quietAt
  split
  · exact State.kept_quietLine _ _ (State.kept_quietLine _ _ k)
  · exact k

/-- A line dropped gives its bytes back to the backing memory (R156). -/
theorem State.kept_dropLine (s : State) (l : Nat) (h : s.kept) : (s.dropLine l).kept := by
  unfold State.dropLine
  split
  · exact Memory.wf_wrBytes _ _ _ h
  · exact h
theorem State.kept_evictLine (s : State) (l : Nat) (h : s.kept) : (s.evictLine l).kept := by
  have hr : ((s.quietLine l).recall l).kept := by
    have := State.kept_quietLine s l h
    unfold State.kept at *; simpa using this
  simp only [State.evictLine]
  split
  · exact hr
  · exact State.kept_dropLine _ l hr
theorem State.kept_evictSb (s : State) (sb : Nat) (h : s.kept) : (s.evictSb sb).kept := by
  have hk : State.kept (List.foldl State.evictLine s (s.sbLines sb)) := State.kept_foldl _ State.kept_evictLine _ _ h
  unfold State.evictSb
  generalize List.foldl State.evictLine s (s.sbLines sb) = u at *
  exact hk
theorem State.kept_fillLlc (s : State) (l : Nat) (ptr : Bool) (h : s.kept) : (s.fillLlc l ptr).1.kept := by
  unfold State.fillLlc
  split
  · exact h
  · extract_lets sb rv u
    have hu : u.kept := by
      unfold u
      generalize s.victim rv = w
      by_cases hc : ((sfind s.llc sb).isSome || decide (rv.length < if ptr = true then 4 else 12)) = true
      · rw [if_pos hc]
        exact h
      · rw [if_neg hc]
        cases w with
        | none => simpa only [Option.map_none, Option.getD_none] using h
        | some v =>
          simp only [Option.map_some, Option.getD_some]
          exact State.kept_evictSb s v h
    clear_value u
    exact hu

/-! ### Reads and writes -/

theorem State.kept_bankRead (s : State) (a n : Nat) (ptr : Bool) (h : s.kept) : (s.bankRead a n ptr).kept := by
  simp only [State.bankRead]
  split
  · refine State.kept_foldl _ (fun s l hs => ?_) _ s h
    unfold State.kept
    rw [State.sliceRead_mem]
    exact State.kept_fillLlc s l ptr hs
  · exact h
theorem State.kept_bankWrite (s : State) (a n : Nat) (ptr : Bool) (h : s.kept) : (s.bankWrite a n ptr).kept := by
  simp only [State.bankWrite]
  split
  · refine State.kept_foldl _ (fun s l hs => ?_) _ s h
    unfold State.kept
    rw [State.sliceWrite_mem]
    exact State.kept_fillLlc s l ptr hs
  · exact h
theorem State.kept_devWrite (s : State) (a n v : Nat) (h : s.kept) : (s.devWrite a n v).kept :=
  State.kept_wr _ a n v (State.kept_bankWrite _ a n false (State.kept_quietAt s a n h))
theorem State.kept_devWriteBytes (s : State) (a : Nat) (bs : List Byte) (h : s.kept) : (s.devWriteBytes a bs).kept := by
  unfold State.devWriteBytes State.kept
  refine Memory.wf_wrBytes _ _ _ ?_
  split
  · refine State.kept_foldl _ (fun s l hs => ?_) _ s h
    split
    · exact State.kept_evictLine _ l hs
    · exact hs
  · exact h

/-- A range replaced by the scheduler (R171, R288). -/
theorem State.kept_devReplace (s : State) (a n : Nat) (l : List (Nat × List Byte)) (h : s.kept) : (s.devReplace a n l).kept := by
  unfold State.devReplace State.kept
  refine Memory.wf_wrAreas _ _ _ (Memory.wf_filter _ _ ?_)
  exact State.kept_foldl _ (fun s l hs => State.kept_evictLine _ l hs) _ s h
theorem State.kept_writeFrame (s : State) (base : Nat) (c : Ctx) (maxb code cls stamp : Nat) (h : s.kept) :
    (s.writeFrame base c maxb code cls stamp).kept := State.kept_devReplace s base _ _ h

/-- A slot write applied to a copy (R227). -/
theorem Memory.wf_applyWrite (m : List Host.Cell) (t k : Nat) (w : SlotWrite) (h : Memory.wf m = true) :
    Memory.wf (applyWrite m t k w) = true := by
  unfold applyWrite
  generalize List.range (w.data.length / 4) = l
  induction l generalizing m with
  | nil => exact h
  | cons a t ih => exact ih _ (Memory.wf_wrNum _ _ _ _ h)

/-- A package reset gives the backing values (R319). -/
theorem State.wf_resetMem (s : State) (h : s.kept) : Memory.wf s.resetMem = true :=
  Memory.wf_filter _ _ (State.kept_foldl _ State.kept_dropLine _ s h)

end Sys2Proof.Machine
end

