-- ==== Sys2Proof/Laws/Calm.lean ====
section
/-! SUPPORT. Laws of a calm machine: with no transaction open and no reply on its way, a line that comes to rest completes no access of a
hart. -/

namespace Sys2Proof.Machine

/-- Of the machine, only the messages on their way and the directory may differ. -/
def State.sameButMessages (s t : State) : Prop := t.harts = s.harts ∧ t.mem = s.mem ∧ t.cores = s.cores ∧ t.llc = s.llc ∧ t.dirty = s.dirty ∧ t.stale = s.stale

theorem State.sameButMessages_refl (s : State) : s.sameButMessages s := ⟨rfl, rfl, rfl, rfl, rfl, rfl⟩
theorem State.sameButMessages_trans {s t u : State} (a : s.sameButMessages t) (b : t.sameButMessages u) : s.sameButMessages u := by
  obtain ⟨a1, a2, a3, a4, a5, a6⟩ := a
  obtain ⟨b1, b2, b3, b4, b5, b6⟩ := b
  exact ⟨b1.trans a1, b2.trans a2, b3.trans a3, b4.trans a4, b5.trans a5, b6.trans a6⟩

/-- In a calm machine no message that arrives at a cache brings a line. -/
theorem State.calm_enters {s : State} (c : s.calm) (p : Packet) (hp : p ∈ s.toCore) : p.msg.enters = none := by
  obtain ⟨-, h⟩ := c
  obtain ⟨h1, h2, h3⟩ := h p hp
  cases hm : p.msg <;> first | rfl | exact absurd hm h1 | exact absurd hm h2 | exact absurd hm h3

/-- A message taken at a cache leaves the machine calm. -/
theorem State.calm_takeCore {s : State} (core line : Nat) (m : CMsg) (c : s.calm) : (s.takeCore core line m).calm :=
  ⟨c.1, fun p hp => c.2 p (by
    simp only [State.takeCore] at hp
    exact List.mem_of_mem_eraseP hp)⟩

/-- All that the replies on their way do in a calm machine (R161). -/
theorem State.repliesIn_calm (s : State) (line : Nat) (c : s.calm) : s.sameButMessages (s.repliesIn line) ∧ (s.repliesIn line).calm := by
  unfold State.repliesIn
  have hl : ∀ p ∈ s.toCore.filter (fun p => p.line == line && !(p.msg == .inv || p.msg == .down || p.msg == .fwdX)), p.msg.enters = none :=
    fun p hp => State.calm_enters c p (List.mem_filter.1 hp).1
  generalize s.toCore.filter (fun p => p.line == line && !(p.msg == .inv || p.msg == .down || p.msg == .fwdX)) = l at hl
  induction l generalizing s with
  | nil => exact ⟨State.sameButMessages_refl s, c⟩
  | cons p l ih =>
    have e : s.replyIn p.core p.line p.msg = s.takeCore p.core p.line p.msg := by simp [State.replyIn, hl p (by simp)]
    rw [List.foldl_cons, e]
    obtain ⟨a, b⟩ := ih (s.takeCore p.core p.line p.msg) (State.calm_takeCore _ _ _ c) (fun q hq => hl q (by simp [hq]))
    exact ⟨State.sameButMessages_trans ⟨rfl, rfl, rfl, rfl, rfl, rfl⟩ a, b⟩

/-- All that ending the transaction of a line does in a calm machine: messages about it are gone (R159). -/
theorem State.quietLine_calm (s : State) (line : Nat) (c : s.calm) : s.sameButMessages (s.quietLine line) ∧ (s.quietLine line).calm := by
  obtain ⟨a, b⟩ := State.repliesIn_calm s line c
  have e : sfind (s.repliesIn line).txns line = none := by rw [b.1]; rfl
  unfold State.quietLine
  simp only [e]
  split
  · exact ⟨State.sameButMessages_trans a ⟨rfl, rfl, rfl, rfl, rfl, rfl⟩, b⟩
  · exact ⟨State.sameButMessages_trans a ⟨rfl, rfl, rfl, rfl, rfl, rfl⟩, b⟩

/-- So does bringing the lines of an access of the device to rest. -/
theorem State.quietAt_calm (s : State) (a n : Nat) (c : s.calm) : s.sameButMessages (s.quietAt a n) ∧ (s.quietAt a n).calm := by
  unfold State.quietAt
  split
  · obtain ⟨x, y⟩ := State.quietLine_calm s (a / 64) c
    obtain ⟨x', y'⟩ := State.quietLine_calm _ ((a + n - 1) / 64) y
    exact ⟨State.sameButMessages_trans x x', y'⟩
  · exact ⟨State.sameButMessages_refl s, c⟩

end Sys2Proof.Machine
end

