-- ==== Sys2Proof/Laws/Frame.lean ====
section
/-! SUPPORT. Laws of the hart frame: what a save wrote to a frame is intact, until something else writes there. -/

namespace Sys2Proof.Machine

/-- Bytes written inside a range, seen in that range. -/
theorem cellsIn_wrBytes (m : List Host.Cell) (base n a : Nat) (bs : List Byte) (h : base ≤ a) (hn : a + bs.length ≤ base + n) :
    cellsIn (wrBytes m a bs) base n = wrBytes (cellsIn m base n) a bs := by
  have hr : (runCells a bs).filter (fun c => decide (base ≤ c.1) && decide (c.1 < base + n)) = runCells a bs :=
    List.filter_eq_self.2 fun e he => by
      have := runCells_key a bs e he
      simp only [Bool.and_eq_true, decide_eq_true_eq]
      omega
  simp only [cellsIn, wrBytes, List.filter_append, List.filter_filter, hr]
  congr 1
  · congr 1
    exact List.filter_congr fun x _ => Bool.and_comm _ _
  · exact List.filter_congr fun x _ => Bool.and_comm _ _

/-- Runs of bytes written inside a range, seen in that range. -/
theorem cellsIn_wrAreas (m : List Host.Cell) (base n : Nat) (l : List (Nat × List Byte)) (h : ∀ a ∈ l, a.1 + a.2.length ≤ n) :
    cellsIn (wrAreas m base l) base n = wrAreas (cellsIn m base n) base l := by
  unfold wrAreas
  induction l generalizing m with
  | nil => rfl
  | cons a t ih =>
    have ha := h a (by simp)
    rw [List.foldl_cons, List.foldl_cons, ih _ (fun x hx => h x (by simp [hx])), cellsIn_wrBytes _ _ _ _ _ (by omega) (by omega)]

/-- The areas of a context fit in a frame. -/
def Ctx.framed (c : Ctx) (maxb code cls stamp : Nat) : Prop :=
  ∀ a ∈ frameAreas c maxb code cls stamp, a.1 + a.2.length ≤ frameSize

/-- R71: memory that holds the cells of a save holds its frame intact. -/
theorem frameIntact_cells (s : State) (base : Nat) (c : Ctx) (maxb code cls stamp : Nat) (h : c.framed maxb code cls stamp)
    (hm : s.mem = frameCells base c maxb code cls stamp) : s.frameIntact base c maxb code cls stamp = true := by
  unfold State.frameIntact
  rw [hm, frameCells, cellsIn_wrAreas _ _ _ _ h]
  simp [cellsIn]

/-- R71: a save leaves its frame intact. -/
theorem frameIntact_writeFrame (s : State) (base : Nat) (c : Ctx) (maxb code cls stamp : Nat) (h : c.framed maxb code cls stamp) :
    (s.writeFrame base c maxb code cls stamp).frameIntact base c maxb code cls stamp = true := by
  have e : ∀ m : List Host.Cell, cellsIn (m.filter (fun c => decide (c.1 < base) || decide (base + frameSize ≤ c.1))) base frameSize = [] :=
    fun m => by
      simp only [cellsIn, List.filter_filter, List.filter_eq_nil_iff]
      intro x _
      simp only [Bool.and_eq_true, Bool.or_eq_true, decide_eq_true_eq]
      omega
  simp only [State.frameIntact, State.writeFrame, State.devReplace, frameCells, cellsIn_wrAreas _ _ _ _ h, e, beq_self_eq_true]

theorem length_freeBytes (stamp off n : Nat) : (freeBytes stamp off n).length = n := by simp [freeBytes]
theorem length_bitBytes {n : Nat} (r : BitVec n) (k : Nat) : (bitBytes r k).length = k := by simp [bitBytes, length_leBytes]
theorem length_numBytes (l : List Nat) : (numBytes l).length = 8 * l.length := by
  induction l with
  | nil => rfl
  | cons a t ih => simp only [numBytes, List.flatMap_cons, List.length_append, length_leBytes, List.length_cons] at *; omega
theorem length_queueBytes (stamp off : Nat) (q : Queue) : (queueBytes stamp off q).length = 512 := by
  have h : ∀ l : List Nat, (l.flatMap (fun k => match q.ents[(k + 64 - q.head) % 64]? with
      | some w => leBytes 8 w.toNat
      | none => freeBytes stamp (off + 8 * k) 8)).length = 8 * l.length := fun l => by
    induction l with
    | nil => rfl
    | cons a t ih =>
      rw [List.flatMap_cons, List.length_append, ih]
      split <;> simp [length_leBytes, length_freeBytes] <;> omega
  exact (h (List.range 64)).trans (by rw [List.length_range])

/-- The context of a new task fits in a frame. -/
theorem Ctx.framed_init (maxb code cls stamp : Nat) : Ctx.init.framed maxb code cls stamp := by
  unfold Ctx.framed frameAreas
  simp only [List.mem_append, List.mem_cons, List.mem_map, List.mem_range, List.not_mem_nil, or_false]
  intro a h
  have hv : Ctx.init.vq = [] := rfl
  have hr : Ctx.init.regs = [] := rfl
  have hk : Ctx.init.masks = [] := rfl
  have hw : Ctx.init.vregs = [] := rfl
  have hb : ∀ f, f < 16 → 0x20000 + 8 * fibreBase Ctx.init f ≤ frameSize := by decide
  have hp : ∀ f, (Ctx.init.fibre f).pairs = [] := fun _ => rfl
  simp only [hv, hr, hk, hw, List.filter_nil, List.not_mem_nil, false_and, exists_false, or_false] at h
  rcases h with ((((((h | h) | ⟨k, hk', h⟩) | h) | ⟨k, hk', h⟩) | ⟨k, hk', h⟩) | h) | ⟨k, hk', h⟩ <;> subst h
  · simp only [length_numBytes]
    exact Nat.le_of_ble_eq_true rfl
  · simp only [length_numBytes]
    exact Nat.le_of_ble_eq_true rfl
  · simp only [List.getElem?_nil, length_freeBytes, frameSize]; omega
  · simp only [length_freeBytes]; decide
  · simp only [length_queueBytes, frameSize]; omega
  · simp only [length_bitBytes, frameSize]; omega
  · simp only [List.length_replicate]; decide
  · simpa [hp] using hb k hk'

end Sys2Proof.Machine
end

