-- ==== Sys2Proof/Laws/Memory.lean ====
section
/-! SUPPORT. Laws of memory: what a read of bytes or of a number gives after a write. -/

namespace Sys2Proof.Machine

/-- A read of bytes depends on those bytes alone. -/
theorem rdBytes_congr (m m' : List Host.Cell) (a n : Nat) (h : ∀ k, k < n → rdByte m (a + k) = rdByte m' (a + k)) :
    rdBytes m a n = rdBytes m' a n := by
  simp only [rdBytes]
  exact List.map_congr_left fun k hk => h k (List.mem_range.1 hk)

/-- A write leaves what lies outside its bytes. -/
theorem rdNum_wrNum_other (m : List Host.Cell) (a n v b k : Nat) (h : b + k ≤ a ∨ a + n ≤ b) : rdNum (wrNum m a n v) b k = rdNum m b k := by
  unfold rdNum
  rw [rdBytes_congr (wrNum m a n v) m b k fun j hj => by
    rw [rdByte_wrNum]
    have : ¬ (a ≤ b + j ∧ b + j < a + n) := by omega
    simp [this]]

/-- Little-endian bytes, the first apart. -/
theorem leBytes_succ (n v : Nat) : leBytes (n + 1) v = BitVec.ofNat 8 v :: leBytes n (v / 2 ^ 8) := by
  simp only [leBytes, List.range_succ_eq_map, List.map_cons, List.map_map]
  congr 1
  · simp
  refine List.map_congr_left fun k _ => ?_
  simp only [Function.comp, Nat.div_div_eq_div_mul, ← pow_add]
  congr 3
  omega

/-- The number of n little-endian bytes of v (R19). -/
theorem ofLe_leBytes (n v : Nat) : ofLe (leBytes n v) = v % 2 ^ (8 * n) := by
  induction n generalizing v with
  | zero => simp [leBytes, ofLe, Nat.mod_one]
  | succ n ih =>
    rw [leBytes_succ]
    have h8 : 2 ^ (8 * (n + 1)) = 2 ^ 8 * 2 ^ (8 * n) := by rw [← pow_add]; congr 1; omega
    simp only [ofLe, ih, h8, Nat.mod_mul, BitVec.toNat_ofNat]
    norm_num

/-- A read gives back what was written there. -/
theorem rdNum_wrNum_same (m : List Host.Cell) (a n v : Nat) : rdNum (wrNum m a n v) a n = v % 2 ^ (8 * n) := by
  unfold rdNum
  rw [← ofLe_leBytes]
  congr 1
  simp only [rdBytes, leBytes]
  refine List.map_congr_left fun k hk => ?_
  rw [rdByte_wrNum]
  have := List.mem_range.1 hk
  have e : a + k - a = k := by omega
  simp [this, e]

end Sys2Proof.Machine
end

