-- ==== Sys2Proof/Laws/Ops.lean ====
section
/-! SUPPORT. Laws of the shared operations of the scalar unit: completing an instruction, waiting, taking a trap. Each says once all
that the operation does. -/

namespace Sys2Proof.Machine

/-! ### Completing -/

/-- A slot replaced after an event is counted: nothing else changes. -/
theorem State.restSame_count_setHart (s : State) (h evt n : Nat) (x : Hart) : s.restSame ((s.count h evt n).setHart h x) := by
  unfold State.restSame
  rw [State.count_eq s h evt n]
  rfl

/-- All that completing an instruction of len bytes does (R83, R335). -/
theorem State.doneWith_finish (s : State) (h len : Nat) : s.doneWith (s.finish h len) h ((s.ctx h).advance len) := by
  rw [State.finish_eq]
  exact ⟨by simp, fun k hk => by simp [hk], State.restSame_count_setHart s h 2 1 _⟩

/-- The same after a change of the context. -/
theorem State.doneWith_modCtx_finish (s : State) (h len : Nat) (f : Ctx → Ctx) :
    s.doneWith ((s.modCtx h f).finish h len) h ((f (s.ctx h)).advance len) := by
  rw [State.finish_eq]
  refine ⟨by simp [State.modCtx_eq, State.ctx], fun k hk => by simp [State.modCtx_eq, hk], ?_⟩
  unfold State.restSame
  rw [State.count_eq]
  rfl

/-- All that an instruction that writes rd and completes does. -/
theorem State.doneWith_finishRd (s : State) (h d : Nat) (v : Word) :
    s.doneWith (s.finishRd h d v) h (((s.ctx h).setS d v).advance 4) := State.doneWith_modCtx_finish s h 4 _

/-- All that a jump does (R93, R94). -/
theorem State.doneWith_jump (s : State) (h : Nat) (target : BitVec 56) : s.doneWith (s.jump h target) h { s.ctx h with pc := target } := by
  rw [State.jump_eq]
  exact ⟨by simp, fun k hk => by simp [hk], State.restSame_count_setHart s h 2 1 _⟩

/-- What a completed instruction leaves: the other harts, the cores, the towers and every byte of memory. -/
theorem State.doneWith_frame (s t : State) (h : Nat) (c : Ctx) (d : s.doneWith t h c) :
    t.ctx h = c ∧ (t.hart h).wait = none ∧ s.othersSame t h ∧ t.cores = s.cores ∧ t.towers = s.towers ∧ t.mem = s.mem := by
  obtain ⟨a, b, r⟩ := d
  refine ⟨by rw [State.ctx, a], by rw [a], b, ?_, ?_, ?_⟩ <;> rw [r]

/-! ### Waiting -/

/-- All that a wait at an instruction does (R29). -/
theorem State.waitOn_eq (s : State) (h : Nat) (w : Wait) :
    (s.waitOn h w).hart h = { s.hart h with wait := some w } ∧ s.othersSame (s.waitOn h w) h ∧ s.restSame (s.waitOn h w) :=
  ⟨by simp [State.waitOn], fun k hk => by simp [State.waitOn, hk], rfl⟩

/-! ### Going on at the next instruction -/

/-- Outside the end of a nest's pass the program counter moves, and nothing else (R83). -/
theorem Ctx.advance_plain (c : Ctx) (len : Nat) (h : c.endsPass len = false) : c.advance len = { c with pc := c.pc + BitVec.ofNat 56 len } := by
  unfold Ctx.advance
  unfold Ctx.endsPass at h
  cases hn : c.nest with
  | none => simp
  | some n =>
    rw [hn] at h
    simp only [Option.any_some] at h
    simp only [h]
    rfl

/-! ### Traps -/

/-- A trap waits for the drain of earlier vector instructions (R63, R104). -/
theorem State.takeTrap_waits (s : State) (h cause : Nat) (val : Word) (p : Bool) (hq : (s.ctx h).vq ≠ []) :
    s.takeTrap h cause val p = s.waitOn h (.trap cause val p) := by
  have : (s.ctx h).vq.isEmpty = false := by simpa using hq
  simp [State.takeTrap, State.waitOn, this]

/-- A trap waits for a load in flight (R63, R104). -/
theorem State.takeTrap_waits_load (s : State) (h cause : Nat) (val : Word) (p : Bool) (hl : (s.hart h).load ≠ none) :
    s.takeTrap h cause val p = s.waitOn h (.trap cause val p) := by
  have : (s.hart h).load.isSome = true := by simpa [Option.isSome_iff_ne_none] using hl
  simp [State.takeTrap, State.waitOn, this]

/-- A trap with no handler, or with SWB.IDX above 11, freezes the hart (R104), which keeps the instruction's length (R330). -/
theorem State.takeTrap_freezes (s : State) (h cause : Nat) (val : Word) (p : Bool) (hq : (s.ctx h).vq = [])
    (hl : (s.hart h).load = none) (hh : s.handlerOf h = 0 ∨ 11 < (s.ctx h).swb) :
    s.takeTrap h cause val p =
      (s.modCtx h (fun c => { c with trapLen := if p then 8 else 4 })).freezeHart h 0x2C 0 0 (s.ctx h).pc.toNat := by
  simp [State.takeTrap, hq, hl, hh]

/-- A trap with a handler enters it (R104). -/
theorem State.takeTrap_enters (s : State) (h cause : Nat) (val : Word) (p : Bool) (hq : (s.ctx h).vq = [])
    (hl : (s.hart h).load = none) (hh : s.handlerOf h ≠ 0) (hw : (s.ctx h).swb ≤ 11) :
    s.takeTrap h cause val p = (s.trace h 4 0 0 cause (s.ctx h).pc.toNat ptrNone).modHart h (fun x =>
      { x with wait := none, ctx := x.ctx.enterHandler cause val p (s.handlerOf h) }) := by
  have : ¬ (11 < (s.ctx h).swb) := by omega
  simp [State.takeTrap, hq, hl, hh, this]

/-! ### Orders between accesses -/

/-- All that leaving orders for later accesses does: the orders that are not kept yet are held (R182, R186). -/
theorem State.keepOrders_eq (s : State) (h : Nat) (gs : List Gate) :
    s.keepOrders h gs = s.setHart h { s.hart h with
      ctx := { s.ctx h with gates := ((s.ctx h).gates ++ gs).filter (fun g => !s.gateDone h g) } } := rfl

/-- A hart that holds no order waits for none. -/
@[simp] theorem State.gated_of_none (s : State) (h : Nat) (scalar write : Bool) (id : Nat) (hg : (s.ctx h).gates = []) :
    s.gated h scalar write id = false := by simp [State.gated, hg]

/-- With nothing in flight, queued, running or unapplied every earlier access is performed (R184, R191, R207, R224). -/
theorem State.performed_quiet (s : State) (h : Nat) (g : Gate) (hl : (s.hart h).load = none) (hp : (s.hart h).pend = [])
    (he : s.enginesDone h = true) (hs : s.elecDone h = true) : s.performed h [] g = true := by
  simp [State.performed, hl, hp, he, hs]

/-- So a fence of any order and direction is ready. -/
theorem State.fenceReady_quiet (s : State) (h order dir : Nat) (hl : (s.hart h).load = none) (hp : (s.hart h).pend = [])
    (he : s.enginesDone h = true) (hs : s.elecDone h = true) : s.fenceReady h order dir [] = true :=
  List.all_eq_true.2 fun g _ => State.performed_quiet s h g hl hp he hs

/-- An acquire whose earlier reads are performed leaves no order (R186). -/
theorem State.acquireGate_quiet (s : State) (h : Nat) (hl : (s.hart h).load = none)
    (hp : (s.hart h).pend = []) (he : s.enginesDone h = true) (hs : s.elecDone h = true) (hq : (s.ctx h).vq = []) :
    ((s.acquireGate h).ctx h).gates = [] := by
  have hd : ∀ g, s.gateDone h g = true := fun g => by
    simp only [State.gateDone, hq, List.filter_nil]
    exact State.performed_quiet s h g hl hp he hs
  simp [State.acquireGate, State.keepOrders_eq, State.ctx, hd]

/-! ### Registers of the package -/

/-- A register event takes its effect once boot has not failed (R319). -/
theorem State.registerEvent_booted (s : State) (f : State → State) (h : s.boot.fail = 0) : s.registerEvent f = f s := if_pos h
/-- After a failed boot it changes nothing (R319). -/
theorem State.registerEvent_failed (s : State) (f : State → State) (h : s.boot.fail ≠ 0) : s.registerEvent f = s := if_neg h

end Sys2Proof.Machine
end

