-- ==== Sys2Proof/Laws/Turn.lean ====
section
/-! SUPPORT. Laws of the turn: the decoder's split by major opcode has no effect on what runs. -/

namespace Sys2Proof.Machine

/-- Words of the majors below 0x7A are decoded by the first part of the decoder. -/
theorem decodePair_early (pre : Option (BitVec 32)) (w : BitVec 32) (h : isLate w = false) : decodePair pre w = decodePairEarly pre w := by
  simp only [isLate, Bool.or_eq_false_iff] at h
  simp [decodePair, decodePairEarly, decodeBase, h.1, h.2]

/-- The words of majors 0x7A and 0x7B that are instructions run as those (R243, R249 to R251). -/
theorem decodePair_late (pre : Option (BitVec 32)) (w : BitVec 32) (h : isLate w = true) :
    (lateLegal pre w = false → decodePair pre w = none) ∧
    (lateLegal pre w = true → ∃ i, decodePair pre w = some i ∧ ∀ s, runLate pre w s = exec i s) := by
  have hx : ∀ v, tst w 28 4 v = (w.toNat / 2 ^ 28 % 2 ^ 4 == v) := fun _ => rfl
  simp only [isLate, Bool.or_eq_true] at h
  by_cases hA : (majorOf w == 0x7A) = true
  · simp only [lateLegal, decodePair, decodeBase, dec7A, runLate, hA, if_true, hx]
    generalize w.toNat / 2 ^ 28 % 2 ^ 4 = f
    generalize tst w 21 7 0 = b
    generalize tst w 7 7 0 = d
    by_cases h2 : f = 2
    · subst h2
      cases b <;> cases d <;> simp [Instr.wellFormed, legalWord]
      exact ⟨fun hp => by simp [hp], fun hp => ⟨_, by simp [hp]; rfl, fun s => rfl⟩⟩
    · by_cases h0 : f = 0
      · subst h0
        cases b <;> simp [Instr.wellFormed, legalWord]
        exact ⟨fun hp => by simp [hp], fun hp => ⟨_, by simp [hp]; rfl, fun s => rfl⟩⟩
      · by_cases h1 : f = 1
        · subst h1
          cases b <;> simp [Instr.wellFormed, legalWord]
          exact ⟨fun hp => by simp [hp], fun hp => ⟨_, by simp [hp]; rfl, fun s => rfl⟩⟩
        · simp [h0, h1, h2]
  · have hB : (majorOf w == 0x7B) = true := h.resolve_left hA
    simp only [Bool.not_eq_true] at hA
    simp only [lateLegal, decodePair, decodeBase, dec7B, runLate, hA, hB, if_true, hx]
    generalize w.toNat / 2 ^ 28 % 2 ^ 4 = f
    generalize tst w 21 7 0 = b
    by_cases h0 : f = 0
    · subst h0
      cases b <;> simp [Instr.wellFormed, legalWord]
      exact ⟨fun hp => by simp [hp], fun hp => ⟨_, by simp [hp]; rfl, fun s => rfl⟩⟩
    · by_cases h1 : f = 1
      · subst h1
        cases b <;> simp [Instr.wellFormed, legalWord]
        exact ⟨fun hp => by simp [hp], fun hp => ⟨_, by simp [hp]; rfl, fun s => rfl⟩⟩
      · simp [h0, h1]

/-- All that running the words of an instruction does (R29, R48, R82). -/
theorem runWords_eq (pre : Option (BitVec 32)) (base : BitVec 32) (s : State) :
    (decodePair pre base = none → runWords pre base s = execIllegalEncoding pre base s) ∧
    ∀ i, decodePair pre base = some i → runWords pre base s =
      if s.scalarHazard s.cur base then .next (s.waitOn s.cur .scalarReg) else exec i s := by
  by_cases hl : isLate base = true
  · have k := decodePair_late pre base hl
    cases hv : lateLegal pre base
    · have hp : pairLegal pre base = false := by simp [pairLegal, hl, hv]
      exact ⟨fun _ => by simp [runWords, hp], fun i hi => by simp [k.1 hv] at hi⟩
    · have hp : pairLegal pre base = true := by simp [pairLegal, hl, hv]
      obtain ⟨j, hj, hr⟩ := k.2 hv
      refine ⟨fun hn => by simp [hj] at hn, fun i hi => ?_⟩
      obtain rfl : j = i := by simpa [hj] using hi
      simp [runWords, hp, hl, hr]
  · simp only [Bool.not_eq_true] at hl
    rw [decodePair_early pre base hl]
    cases hd : decodePairEarly pre base with
    | none => exact ⟨fun _ => by simp [runWords, pairLegal, hl, hd], fun i hi => by simp at hi⟩
    | some j =>
      refine ⟨fun hn => by simp at hn, fun i hi => ?_⟩
      obtain rfl : j = i := by simpa using hi
      simp [runWords, pairLegal, hl, hd]

end Sys2Proof.Machine
end

