-- ==== Sys2Proof/Tests/Slice0.lean ====
section
/-! SUPPORT. Tests: words of the spec, one refused term for each check, single steps with results of the spec, and for each
statement a state and operands that meet its hypotheses. -/

set_option Elab.async false

namespace Sys2Proof.Tests

open Sys2Proof Sys2Proof.Machine

/-! ### Words of the spec's tables and worked examples, and the instructions they stand for -/

/-- Fields of a P word that an example leaves at their values without a prefix: rm 7. -/
def dyn (tx : BitVec 4) : Option Pfx := some { tx := tx, sat := 0, rs3 := 0, xmod := 0, rm := 7, dt := 0, pol := 0, m := 0 }
/-- Fields of a P word that holds only a type selector. -/
def typed (tx : BitVec 4) : Option Pfx := some { tx := tx, sat := 0, rs3 := 0, xmod := 0, rm := 0, dt := 0, pol := 0, m := 0 }
/-- The prefix worked in chapter 17: .up, m3, zero, rtz. -/
def upM3 : Option Pfx := some { tx := 0, sat := 0, rs3 := 0, xmod := 1, rm := 1, dt := 0, pol := 1, m := 3 }

theorem test_decode_scalar :
    decodePair none 0x054A5401 = some (.add 40 41 42) ∧ decodePair none 0x00201403 = some (.addi 40 0 1) ∧
    decodePair none 0x2345540C = some (.lih 40 0x8D15) ∧ decodePair none 0x880A1403 = some (.addi 40 40 0x440) ∧
    decodePair none 0x0009940D = some (.addpc 40 38) ∧ decodePair none 0x954A5420 = some (.fcmpLtF32 40 41 42) := by decide +kernel

theorem test_decode_memory :
    decodePair none 0x020A5414 = some (.ld 40 41 16) ∧ decodePair none 0xFF0A5412 = some (.lw 40 41 0x7F8) ∧
    decodePair none 0x010A5418 = some (.sd 40 41 8) := by decide +kernel

theorem test_decode_control :
    decodePair none 0xFFAA1499 = some (.beq 41 40 0x7FD) ∧ decodePair none 0x00100FB0 = some (.jal 31 0x40) ∧
    decodePair none 0xFFFF0030 = some (.jal 0 0x3FFFC) ∧ decodePair none 0x00400033 = some (.win 2 0) ∧
    decodePair none 0x02C024B6 = some (.srr 73 0x016) := by decide +kernel

theorem test_decode_vector :
    decodePair none 0x04C91444 = some (.vfadd 40 36 38 none) ∧
    decodePair (some 0x2000E07C) 0x04C91444 = some (.vfadd 40 36 38 (dyn 2)) ∧
    decodePair (some 0x000129FC) 0x04C91444 = some (.vfadd 40 36 38 upM3) ∧
    decodePair none 0x0648144C = some (.vreshape 40 32 50 none) ∧ decodePair none 0x01E81449 = some (.vquant 40 32 7 1 0 none) ∧
    decodePair none 0x21AC1C49 = some (.vscacc 56 48 5 1 none) ∧ decodePair none 0x8488144A = some (.vfredsum 40 32 36 none) := by
  decide +kernel

theorem test_decode_vector_memory :
    decodePair none 0x000A1060 = some (.vld 32 40 0 none) ∧ decodePair none 0x080A1063 = some (.vst 32 40 64 none) ∧
    decodePair (some 0xC000007C) 0x248A5462 = some (.vldx 40 41 36 2 (typed 0xC)) ∧
    decodePair (some 0x3000007C) 0x000E5663 = some (.vst 44 57 0 (typed 3)) := by decide +kernel

theorem test_decode_sync :
    decodePair none 0x882A5468 = some (.amo 40 41 1 0 2 4) ∧ decodePair none 0x05800069 = some (.fence 4 1 1) ∧
    decodePair none 0x152A026A = some (.waitge 4 40 41) ∧ decodePair none 0x000A01EC = some (.cpy 3 40) ∧
    decodePair none 0x068CC16D = some (.sstr 2 51 52 0) ∧ decodePair none 0x000E006E = some (.istr 0 56) := by decide +kernel

theorem test_decode_electrum :
    decodePair none 0x052A106F = some (.est 32 40 41) ∧ decodePair none 0x176DD0EF = some (.eaddS32 33 55 59) ∧
    decodePair none 0x252E106F = some (.eaddF32 32 56 41) ∧ decodePair none 0x3000146F = some (.eseq 40) ∧
    decodePair none 0x458DC16F = some (.ewait 2 55 44) := by decide +kernel

theorem test_decode_fibre :
    decodePair none 0x054A0170 = some (.fld 2 40 42 none) ∧ decodePair none 0x100A0170 = some (.fst 2 40 none) ∧
    decodePair none 0x052A00F1 = some (.fwalk 1 40 41 none) ∧ decodePair (some 0xC000E07C) 0x5000C272 = some (.fsort 4 3 5 (dyn 0xC)) ∧
    decodePair none 0x12004373 = some (.fisect 6 1 16 1 none) ∧ decodePair none 0x62649473 = some (.fisectc 40 18 19 none) ∧
    decodePair none 0x804042F3 = some (.funion 5 1 2 0 none) := by decide +kernel

theorem test_decode_fibre_more :
    decodePair none 0x00600474 = some (.fmerge 8 0 3 0 none) ∧ decodePair none 0x0000C275 = some (.fcompact 4 3 none) ∧
    decodePair none 0x1580D475 = some (.fexpand 40 3 44 none) ∧ decodePair none 0x258A01F5 = some (.fgather 3 40 44 none) ∧
    decodePair none 0x358081F5 = some (.fslice 3 2 44 none) ∧ decodePair none 0x000A0076 = some (.fcfg 0 40 none) ∧
    decodePair none 0x100001F6 = some (.fclr 3 none) ∧ decodePair none 0x2000D476 = some (.flenr 40 3 none) := by decide +kernel

theorem test_decode_matrix :
    decodePair none 0x152A0178 = some (.mtload 2 40 41 1 none) ∧ decodePair (some 0xC000007C) 0x052A0078 = some (.mtload 0 40 41 0 (typed 0xC)) ∧
    decodePair none 0x70000078 = some (.mtzero 3 none) ∧ decodePair none 0x202A9079 = some (.mrow 32 42 1 2 none) ∧
    decodePair (some 0x6000007C) 0x402A81F9 = some (.mrowg 3 42 1 0 (typed 6)) := by decide +kernel

theorem test_decode_accumulators :
    decodePair none 0x000AD47A = some (.mdrain 40 43 none) ∧ decodePair none 0x200AC07A = some (.mclr 43 none) ∧
    decodePair (some 0x0800007C) 0x100AD47A =
      some (.mdrainKeep 40 43 (some { tx := 0, sat := 1, rs3 := 0, xmod := 0, rm := 0, dt := 0, pol := 0, m := 0 })) ∧
    decodePair none 0x000AD67B = some (.mstatRow 44 43 none) := by decide +kernel

/-- R72, R75, R76, R82: unassigned words, a prefix before a scalar word, another prefix or a reserved rounding mode, and bytes that
end too soon. -/
theorem test_decode_refuses :
    decodePair none 0 = none ∧ decodePair none 0xFFFFFFFF = none ∧ decodePair (some 0x000129FC) 0x054A5401 = none ∧
    decodePair (some 0x000129FC) 0x000129FC = none ∧ decodePair (some 0x0001A9FC) 0x04C91444 = none ∧
    decodeBytes [0xFC, 0x29, 0x01, 0x00] = .short ∧ decodeBytes [] = .short := by decide +kernel

/-- Bytes lowest address first: ADD, and VFADD with the prefix of chapter 17. -/
theorem test_decode_bytes :
    decodeBytes [0x01, 0x54, 0x4A, 0x05, 0xFF] = .instr (.add 40 41 42) 4 ∧
    decodeBytes [0xFC, 0x29, 0x01, 0x00, 0x44, 0x14, 0xC9, 0x04] = .instr (.vfadd 40 36 38 upM3) 8 ∧
    decodeTableWord 32 0x054A5401 = some (.add 40 41 42) ∧ decodeTableWord 64 0x04C91444000129FC = some (.vfadd 40 36 38 upM3) := by
  decide +kernel

/-- The encoder gives the words of the examples back. -/
theorem test_encode :
    encode (.add 40 41 42) = [0x054A5401] ∧ encode (.vfadd 40 36 38 upM3) = [0x000129FC, 0x04C91444] ∧
    encode (.mrowg 3 42 1 0 (typed 6)) = [0x6000007C, 0x402A81F9] ∧ encode (.mstatRow 44 43 none) = [0x000AD67B] ∧
    encodeBytes (.beq 41 40 0x7FD) = [0x99, 0x14, 0xAA, 0xFF] := by decide +kernel

/-! ### Each check of well-formedness refuses an ill-formed term -/

theorem test_wf_registers :
    (Instr.qpush 1 16).wellFormed = false ∧ (Instr.qpop 1 16).wellFormed = false ∧ (Instr.qcnt 1 99).wellFormed = false ∧
    (Instr.qlink 16 1).wellFormed = false ∧ (Instr.sstr 16 1 2 0).wellFormed = false ∧ (Instr.mpopc 1 16 none).wellFormed = false ∧
    (Instr.mand 16 1 2 none).wellFormed = false ∧ (Instr.mset 0 1 none).wellFormed = false ∧ (Instr.vqpop 1 16 none).wellFormed = false ∧
    (Instr.smaxe 8 1 0 none).wellFormed = false ∧ (Instr.mtload 8 1 2 0 none).wellFormed = false ∧
    (Instr.fcfg 16 1 none).wellFormed = false ∧ (Instr.mrowg 16 1 0 0 (typed 6)).wellFormed = false := by decide +kernel

theorem test_wf_fields :
    (Instr.fcvt 1 2 10 10).wellFormed = false ∧ (Instr.fcvt 1 2 2 3).wellFormed = false ∧ (Instr.srr 1 0x006).wellFormed = false ∧
    (Instr.vcmp 1 2 3 6 none).wellFormed = false ∧ (Instr.vcmp 0 2 3 0 none).wellFormed = false ∧ (Instr.vcvt 1 2 10 none).wellFormed = false ∧
    (Instr.vamo 1 2 3 9 (typed 0)).wellFormed = true ∧ (Instr.vamo 1 2 3 1 none).wellFormed = false ∧
    (Instr.amo 1 2 10 0 0 0).wellFormed = false ∧ (Instr.amo 1 2 0 0 5 0).wellFormed = false ∧ (Instr.amo 1 2 0 0 0 1).wellFormed = false ∧
    (Instr.amocas 127 2 0 0 0).wellFormed = false ∧ (Instr.fence 7 0 0).wellFormed = false ∧ (Instr.bar 7 1).wellFormed = false ∧
    (Instr.waitge 7 1 2).wellFormed = false ∧ (Instr.wmpub 7 1 2).wellFormed = false ∧ (Instr.wmbind 0 7 1 2).wellFormed = false ∧
    (Instr.ewait 3 1 2).wellFormed = false ∧ (Instr.ewait 0 1 2).wellFormed = false := by decide +kernel

theorem test_wf_fibres :
    (Instr.fld 0 127 1 none).wellFormed = false ∧ (Instr.fst 0 0 none).wellFormed = false ∧ (Instr.fsort 1 1 0 none).wellFormed = false ∧
    (Instr.fsort 1 2 1 none).wellFormed = false ∧ (Instr.fisect 1 16 16 0 none).wellFormed = false ∧
    (Instr.fisect 1 2 3 5 none).wellFormed = false ∧ (Instr.fmerge 1 0 3 0 none).wellFormed = false ∧
    (Instr.fmerge 1 14 3 0 none).wellFormed = false ∧ (Instr.fmap 1 2 3 6 none).wellFormed = false ∧
    (Instr.fisectc 1 17 17 none).wellFormed = false ∧ (Instr.fcompact 1 1 none).wellFormed = false ∧
    (Instr.mrow 1 2 1 0 (typed 0xC)).wellFormed = false := by decide +kernel

/-- Fields of a prefix that the instruction does not use, and types it does not accept (R76, R120, R121). -/
theorem test_wf_prefix :
    (Instr.vadd 1 2 3 (some { tx := 0, sat := 0, rs3 := 0, xmod := 0, rm := 1, dt := 0, pol := 0, m := 0 })).wellFormed = false ∧
    (Instr.vadd 1 2 3 (some { tx := 0, sat := 1, rs3 := 0, xmod := 8, rm := 0, dt := 0, pol := 0, m := 0 })).wellFormed = false ∧
    (Instr.vand 1 2 3 (some { tx := 0, sat := 1, rs3 := 0, xmod := 0, rm := 0, dt := 0, pol := 0, m := 0 })).wellFormed = false ∧
    (Instr.vadd 1 2 3 (some { tx := 0, sat := 0, rs3 := 4, xmod := 0, rm := 0, dt := 0, pol := 0, m := 0 })).wellFormed = false ∧
    (Instr.vst 1 2 3 (some { tx := 0, sat := 0, rs3 := 0, xmod := 0, rm := 0, dt := 0, pol := 1, m := 0 })).wellFormed = false ∧
    (Instr.vperm 1 2 3 (some { tx := 0, sat := 0, rs3 := 0, xmod := 0, rm := 0, dt := 1, pol := 0, m := 0 })).wellFormed = false ∧
    (Instr.setvl 1 2 3 0 (some { tx := 0, sat := 0, rs3 := 0, xmod := 0, rm := 0, dt := 0, pol := 0, m := 1 })).wellFormed = false ∧
    (Instr.vadd 1 2 3 (typed 8)).wellFormed = false ∧ (Instr.vfadd 1 2 3 (dyn 0xA)).wellFormed = false ∧
    (Instr.vadd 1 2 3 (typed 1)).wellFormed = true := by decide +kernel

/-! ### Small states -/

/-- Reset, with the context of hart 0 changed. -/
def with0 (f : Ctx → Ctx) : State := State.reset.modCtx 0 f
/-- The state after, where there is one. -/
def after (o : Host.Outcome State Fault Refusal) : State :=
  match o with
  | .next t => t
  | _ => State.reset
/-- Scalar register n of hart 0 after an instruction. -/
def sAfter (i : Instr) (s : State) (n : Nat) : Nat := (((after (exec i s)).ctx 0).getS n).toNat
/-- A vector register of w-bit elements. -/
def vecOf (w : Nat) (l : List Nat) : VReg := BitVec.ofNat 16384 (l.zipIdx.foldl (fun x e => x + e.1 * 2 ^ (w * e.2)) 0)
/-- The first n elements of vector register v of hart 0 after an instruction. -/
def elsAfter (i : Instr) (s : State) (v w n : Nat) : List Nat :=
  (List.range n).map (getEl (((after (exec i s)).ctx 0).getV v) w)
/-- Two scalar operands in s41 and s42, and the old value of s40. -/
def ops (z a b : Nat) : State :=
  with0 (fun c => ((c.setS 40 (BitVec.ofNat 64 z)).setS 41 (BitVec.ofNat 64 a)).setS 42 (BitVec.ofNat 64 b))
/-- A prefix with a mask and a policy. -/
def masked (m : BitVec 4) (pol : BitVec 1) (xmod : BitVec 4) : Option Pfx :=
  some { tx := 0, sat := 0, rs3 := 0, xmod := xmod, rm := 0, dt := 0, pol := pol, m := m }

/-! ### Scalar instructions -/

/-- Table 13 of chapter 16: three words build 0x12_3456_789A. -/
theorem test_lih : sAfter (.addi 40 0 1) (ops 7 0 0) 40 = 1 ∧ sAfter (.lih 40 0x8D15) (ops 1 0 0) 40 = 0x48D15 ∧
    sAfter (.lih 40 0x2789A) (ops 0x48D15 0 0) 40 = 0x123456789A := by decide +kernel

/-- R85, R86: wrap, signs, and division by zero. -/
theorem test_integer :
    sAfter (.add 40 41 42) (ops 0 (2 ^ 64 - 1) 2) 40 = 1 ∧ sAfter (.sub 40 41 42) (ops 0 1 2) 40 = 2 ^ 64 - 1 ∧
    sAfter (.sra 40 41 42) (ops 0 (2 ^ 63) 127) 40 = 2 ^ 64 - 1 ∧ sAfter (.slt 40 41 42) (ops 0 (2 ^ 63) 0) 40 = 1 ∧
    sAfter (.mulh 40 41 42) (ops 0 (2 ^ 64 - 1) 5) 40 = 2 ^ 64 - 1 ∧ sAfter (.div 40 41 42) (ops 0 7 0) 40 = 2 ^ 64 - 1 ∧
    sAfter (.rem 40 41 42) (ops 0 7 0) 40 = 7 ∧ sAfter (.div 40 41 42) (ops 0 (2 ^ 63) (2 ^ 64 - 1)) 40 = 2 ^ 63 ∧
    sAfter (.clz 40 41) (ops 0 0 0) 40 = 64 ∧ sAfter (.sel 40 41 42) (ops 0 5 9) 40 = 9 ∧ sAfter (.sel 40 41 42) (ops 3 5 9) 40 = 5 := by
  decide +kernel

/-- R54: s0 reads zero and discards a write; the program counter moves on. -/
theorem test_s0 :
    sAfter (.addi 0 41 5) (ops 0 1 0) 0 = 0 ∧ ((after (exec (.addi 0 41 5) (ops 0 1 0))).ctx 0).pc = 4 := by decide +kernel

/-- R90, R33: 1/0 is +∞ with DZ; 1 + 2^-24 rounds to even with NX; an F32 result has its upper half zero. -/
theorem test_float :
    sAfter (.fdivF32 40 41 42) (ops (2 ^ 64 - 1) 0x3F800000 0) 40 = 0x7F800000 ∧
    ((after (exec (.fdivF32 40 41 42) (ops 0 0x3F800000 0))).ctx 0).fflags = 0x02 ∧
    sAfter (.faddF32 40 41 42) (ops 0 0x3F800000 0x33800000) 40 = 0x3F800000 ∧
    ((after (exec (.faddF32 40 41 42) (ops 0 0x3F800000 0x33800000))).ctx 0).fflags = 0x10 := by decide +kernel

/-- R93: BEQ −12 taken and not taken. R94: JAL links the next address. -/
theorem test_control :
    ((after (exec (.beq 41 40 0x7FD) (with0 (fun c => { c with pc := 100 })))).ctx 0).pc = 88 ∧
    ((after (exec (.beq 41 40 0x7FD) (with0 (fun c => { c.setS 41 1 with pc := 100 })))).ctx 0).pc = 104 ∧
    sAfter (.jal 31 0x40) (with0 (fun c => { c with pc := 0x1000 })) 31 = 0x1004 ∧
    ((after (exec (.jal 31 0x40) (with0 (fun c => { c with pc := 0x1000 })))).ctx 0).pc = 0x1100 := by decide +kernel

/-- R99: a move of the windows, and one out of range, which traps with cause 5 and, without a handler, freezes. -/
theorem test_win :
    ((after (exec (.win 2 0) (with0 id))).ctx 0).swb = 2 ∧
    ((after (exec (.win 15 0) (with0 id))).hart 0).run = .frozen 0x2C ∧ ((after (exec (.win 15 0) (with0 id))).ctx 0).swb = 0 := by
  decide +kernel

/-! ### Vector instructions: the worked examples of chapters 13 and 19 -/

/-- F32 elements of Table 3 of chapter 13, VL 8. -/
def cvtIn : State :=
  with0 (fun c => { c.setV 4 (vecOf 32 [0x3F800000, 0x7F800000, 0x7FC00000, 0xFF800000, 0x7FA00000, 0xBF180000, 0x42C80000, 0x38800000])
    with vl := 8 })
theorem test_vcvt_tapered :
    elsAfter (.vcvt 8 4 10 (dyn 6)) cvtIn 8 8 8 = [0x40, 0x7F, 0, 0xFF, 0, 0xB3, 0x79, 0] ∧
    ((after (exec (.vcvt 8 4 10 (dyn 6)) cvtIn)).ctx 0).fflags = 0x78 := by decide +kernel

/-- VRESHAPE of twelve elements with L in s50. -/
def shapeIn (l : Nat) : State :=
  with0 (fun c => { (c.setV 32 (vecOf 32 (List.range 12))).setS 50 (BitVec.ofNat 64 l) with vl := 12 })
theorem test_vreshape :
    elsAfter (.vreshape 40 32 50 none) (shapeIn 4) 40 32 12 = [0, 4, 8, 1, 5, 9, 2, 6, 10, 3, 7, 11] ∧
    sAfter (.srr 9 0x012) (after (exec (.vreshape 40 32 50 none) (shapeIn 5))) 9 = 0xFFFFFFFFFFFF0000 ∧
    sAfter (.srr 9 0x013) (after (exec (.vreshape 40 32 50 none) (shapeIn 5))) 9 = 0x0000FFFFFFFFFFFF := by decide +kernel

/-- VCOMPRESS of sixteen elements 0x100 + i over a destination of all ones; m2 holds bits 1, 4, 5 and 11. -/
def compressIn : State :=
  with0 (fun c => { ((c.setV 32 (vecOf 32 ((List.range 16).map (· + 0x100)))).setV 40 (vecOf 32 (List.replicate 16 0xFFFFFFFF))).setM 2 0x832
    with vl := 16 })
theorem test_vcompress :
    elsAfter (.vcompress 40 32 (masked 2 0 0)) compressIn 40 32 6 = [0x101, 0x104, 0x105, 0x10B, 0xFFFFFFFF, 0xFFFFFFFF] ∧
    elsAfter (.vcompress 40 32 (masked 2 1 0)) compressIn 40 32 16 = [0x101, 0x104, 0x105, 0x10B] ++ List.replicate 12 0 ∧
    elsAfter (.vcompress 40 32 (masked 3 1 0)) compressIn 40 32 2 = [0, 0] := by decide +kernel

/-- VADD with each modifier over twelve elements, element 3 inactive (Table 4 of chapter 19). -/
def modIn : State :=
  with0 (fun c => { ((c.setV 38 (vecOf 32 ((List.range 12).map (· + 10)))).setV 40 (vecOf 32 (List.replicate 12 0xFFFFFFFF))).setM 5
    (BitVec.ofNat 32768 (2 ^ 32768 - 9)) with vl := 12 })
theorem test_modifiers :
    elsAfter (.vadd 40 36 38 (masked 5 0 1)) modIn 40 32 12 = [0, 10, 11, 0xFFFFFFFF, 13, 14, 15, 16, 0, 18, 19, 20] ∧
    elsAfter (.vadd 40 36 38 (masked 5 0 2)) modIn 40 32 12 = [11, 12, 13, 0xFFFFFFFF, 15, 16, 17, 0, 19, 20, 21, 0] ∧
    elsAfter (.vadd 40 36 38 (masked 5 0 6)) modIn 40 32 12 = [10, 10, 10, 0xFFFFFFFF, 10, 10, 10, 10, 18, 18, 18, 18] ∧
    elsAfter (.vadd 40 36 38 (masked 5 0 7)) modIn 40 32 12 = [17, 16, 15, 0xFFFFFFFF, 13, 12, 11, 10, 0, 0, 0, 0] := by decide +kernel

/-- SMAXE over thirty-six elements, thirty-four of them active (Table 5 of chapter 19). -/
def smaxeIn : State :=
  with0 (fun c => { (c.setV 32 (vecOf 32 ([0x40400000] ++ List.replicate 8 0 ++ [0x7FC00000] ++ List.replicate 6 0 ++ [0x00080000] ++
    List.replicate 10 0 ++ [0x7F800000] ++ List.replicate 4 0 ++ [0x3C23D70A, 0x3E4CCCCD, 0x447A0000]))).setM 6
      (BitVec.ofNat 32768 (2 ^ 34 - 1)) with vl := 36 })
theorem test_smaxe :
    (List.range 5).map (((after (exec (.smaxe 1 32 0 (masked 6 0 0)) smaxeIn)).ctx 0).scale 1) = [1, -128, -127, 127, -3] ∧
    ((after (exec (.smaxe 1 32 0 (masked 6 0 0)) smaxeIn)).ctx 0).fflags = 0x40 ∧
    sAfter (.srr 9 0x013) (after (exec (.smaxe 1 32 0 (masked 6 0 0)) smaxeIn)) 9 = 0x0000001BFFFFFFFF := by decide +kernel

/-- The eight elements of chapter 19, start value +0.0: in sequence 3.0, by the tree 5.0. -/
def redIn : State :=
  with0 (fun c => { c.setV 32 (vecOf 32 [0x4B800000, 0x3F800000, 0x3F800000, 0x3F800000, 0xCB800000, 0x3F800000, 0x3F800000, 0x3F800000])
    with vl := 8 })
theorem test_vfredsum :
    elsAfter (.vfredsum 40 32 36 none) redIn 40 32 1 = [0x40400000] ∧ elsAfter (.vfredsumt 40 32 36 none) redIn 40 32 1 = [0x40A00000] ∧
    ((after (exec (.vfredsumt 40 32 36 none) redIn)).ctx 0).fflags = 0x10 := by decide +kernel

/-- R126: SETVLI gives the lesser of the request and MAXVL. -/
theorem test_setvli :
    sAfter (.setvli 42 41 0 2 none) (ops 0 5000 0) 42 = 512 ∧ ((after (exec (.setvli 42 41 3 2 none) (ops 0 12 0))).ctx 0).rows = 8 := by
  decide +kernel

/-! ### Electrum: Table 6 of chapter 26, word e0 and e1 -/

/-- Slot writes of F32 sums wait at copy 0 of tower 0 over the words of chapter 26. -/
def elecIn (old d : Nat) : State :=
  { State.reset with
    mem := wrNum [] (locElec 0 0 0) 4 old
    towers := [(0, { Tower.init with log := [{ kind := 2, lo := 0, data := leBytes 4 d }] })] }
theorem test_electrum_add :
    ofLe (rdBytes (after (exec (.electrumApply 0 0) (elecIn 0x4B800000 0x3F800000))).mem (locElec 0 0 0) 4) = 0x4B800000 ∧
    ofLe (rdBytes (after (exec (.electrumApply 0 0) (elecIn 0x40400000 0x3E800000))).mem (locElec 0 0 0) 4) = 0x40500000 ∧
    ofLe (rdBytes (after (exec (.electrumApply 0 0) (elecIn 0x40E00000 0xC0E00000))).mem (locElec 0 0 0) 4) = 0 := by decide +kernel

/-! ### Fibres: the structures of chapter 22 -/

/-- f3 and f2 of row 1 in pass 1, and a destination of capacity 4 with FPROGA and FPROGB as given. -/
def unionIn (a b : Nat) : State :=
  with0 (fun c => { ((c.setFibre 3 { cap := 256, pairs := [(0, 0), (1, 0), (2, 0), (5, 0)] }).setFibre 2
    { cap := 256, pairs := [(3, 0), (5, 0)] }).setFibre 5 { cap := 4, pairs := [] } with
      fprogA := BitVec.ofNat 64 a, fprogB := BitVec.ofNat 64 b })
theorem test_funion_overflow :
    ((after (exec (.funion 5 3 2 4 none) (unionIn 0 0))).ctx 0).fibre 5 = { cap := 4, pairs := [(0, 0), (1, 0), (2, 0), (3, 0)] } ∧
    ((after (exec (.funion 5 3 2 4 none) (unionIn 0 0))).ctx 0).fprogA = 3 ∧
    ((after (exec (.funion 5 3 2 4 none) (unionIn 0 0))).ctx 0).fprogB = 1 ∧
    sAfter (.srr 73 0x016) (after (exec (.funion 5 3 2 4 none) (unionIn 0 0))) 73 = 1 := by decide +kernel

/-! ### A task with memory -/

/-- A launch with a scratchpad page, a vault page, tile slots, two accumulator rows with Billon entries, channels, streams and a
region of Electrum; handler at 0x8000. -/
def parT : LParams :=
  { entry := 0, handler := 0x8000, arg := 9, groups := 1, irq := false, dbg := false, prio := 3, level := 0, spoff := 0, spsz := 64,
    acnt := 4, quota := 512, voff := 0, vsz := 256, tslot := 15, chan := 255, strm := 15, esz := 16, eoff := 0, eslot := 2, compl := 0,
    vec := 0 }
def launchT : Launch :=
  { handle := 0x55, par := parT, prio := 3, root := 0x10000, tlbm := true, src := .device, origin := 0, next := 1, started := 1,
    ended := 0, subm := 0, since := 0, aged := 0, rows := [(0, 3)], towers := [(0, { slots := [0], last := none, clear := 0, clearEnd := none })],
    abort := none }
def taskT : Task := { launch := 5, group := 0, index := 0, size := 1, hart := 0, frame := 0, place := 0, saved := none }
/-- Page table of one 4 KiB page: virtual page 0 at 0x100000, in DRAM. -/
def tableT : List Host.Cell :=
  wrNum (wrNum (wrNum (wrNum (wrNum [] 0x10000 8 0x20001) 0x20000 8 0x30001) 0x30000 8 0x40001) 0x40000 8 0x50001) 0x50000 8 0x100079
/-- Hart 0 runs the task, with its context changed by f. -/
def tasked (f : Ctx → Ctx) : State :=
  let s : State := { State.reset with mem := tableT, sched := { State.reset.sched with launches := [(5, launchT)], tasks := [(1, taskT)], nextTask := 2 } }
  s.modHart 0 (fun x => { x with run := .running, task := some 1, ctx := f x.ctx })
/-- Scratchpad address o of the window. -/
def spad (o : Nat) : Word := BitVec.ofNat 64 (0xFF * 2 ^ 48 + o)
/-- Numbers written to the scratchpad of core 0. -/
def fill (l : List (Nat × Nat × Nat)) (s : State) : State :=
  { s with mem := l.foldl (fun m x => wrNum m (locSpad 0 x.1) x.2.1 x.2.2) s.mem }

/-- R92: loads extend; a store writes its bytes and no other. -/
theorem test_load_store :
    sAfter (.lb 40 41 1) (fill [(0, 4, 0x8280)] (tasked (fun c => c.setS 41 (spad 0)))) 40 = 2 ^ 64 - 126 ∧
    sAfter (.lhu 40 41 0) (fill [(0, 4, 0x8280)] (tasked (fun c => c.setS 41 (spad 0)))) 40 = 0x8280 ∧
    rdBytes (after (exec (.sh 40 41 2) (fill [(0, 8, 2 ^ 64 - 1)] (tasked (fun c => (c.setS 41 (spad 0)).setS 40 0xABCD))))).mem (locSpad 0 0) 6
      = [0xFF, 0xFF, 0xCD, 0xAB, 0xFF, 0xFF] := by decide +kernel

/-- R275 to R279: a load through the page table. R84: a misaligned one traps with cause 2 to the handler, and the address in s34. -/
theorem test_load_translated :
    sAfter (.ld 40 0 8) { tasked id with mem := wrNum tableT 0x100008 8 77 } 40 = 77 ∧
    sAfter (.lw 40 0 2) (tasked id) 34 = 2 ∧ sAfter (.lw 40 0 2) (tasked id) 33 = 2 ∧
    ((after (exec (.lw 40 0 2) (tasked id))).ctx 0).pc = 0x8000 ∧ ((after (exec (.lw 40 0 2) (tasked id))).ctx 0).swb = 3 := by decide +kernel

/-- R104, R106: TRAP 5 at 0x1000 enters the handler, and TRET from there goes on after it. -/
theorem test_trap_and_return :
    sAfter (.trap 5) (tasked (fun c => { c with pc := 0x1000 })) 32 = 0x1004 ∧
    sAfter (.trap 5) (tasked (fun c => { c with pc := 0x1000 })) 35 = 0x1000 ∧
    ((after (exec .tret (after (exec (.trap 5) (tasked (fun c => { c with pc := 0x1000 })))))).ctx 0).pc = 0x1004 ∧
    ((after (exec .tret (after (exec (.trap 5) (tasked (fun c => { c with pc := 0x1000 })))))).ctx 0).swb = 0 := by decide +kernel

/-- R201: an atomic addition of 32 bits returns the old word and leaves the sum. -/
theorem test_amo :
    sAfter (.amo 40 41 1 1 0 0) (fill [(8, 4, 2 ^ 32 - 1)] (tasked (fun c => (c.setS 41 (spad 8)).setS 40 3))) 40 = 2 ^ 32 - 1 ∧
    ofLe (rdBytes (after (exec (.amo 40 41 1 1 0 0) (fill [(8, 4, 2 ^ 32 - 1)] (tasked (fun c => (c.setS 41 (spad 8)).setS 40 3))))).mem
      (locSpad 0 8) 8) = 2 := by decide +kernel

/-- R100, R101: a push, a pop and a count. -/
theorem test_queues :
    ((after (exec (.qpush 41 3) (tasked (fun c => c.setS 41 7)))).ctx 0).queue 3 = { head := 0, ents := [7] } ∧
    sAfter (.qpop 40 3) (tasked (fun c => c.push 3 9)) 40 = 9 ∧ sAfter (.qcnt 40 3) (tasked (fun c => (c.push 3 9).push 3 9)) 40 = 2 ∧
    ((after (exec (.qpop 40 3) (tasked id))).hart 0).wait = some (.qpop 40 3) := by decide +kernel

/-- R195: a unit-stride vector load and store of three F32 elements. -/
theorem test_vector_memory :
    elsAfter (.vld 32 40 0 none) (fill [(0, 4, 1), (4, 4, 2), (8, 4, 3)] (tasked (fun c => { c.setS 40 (spad 0) with vl := 3 }))) 32 32 4
      = [1, 2, 3, 0] ∧
    rdBytes (after (exec (.vst 32 40 4 none) (tasked (fun c => { (c.setS 40 (spad 0)).setV 32 (vecOf 32 [0x01020304, 5]) with vl := 2 })))).mem
      (locSpad 0 4) 8 = [4, 3, 2, 1, 5, 0, 0, 0] := by decide +kernel

/-- A tile of two rows in slot 2, an accumulator row of hart 0 at 2^23 − 1, and two S8 elements. -/
def rowIn : State :=
  (tasked (fun c => { (c.setV 32 (vecOf 8 [3, 0xFF])).setS 42 0 with vl := 2 })).modCore 0 (fun k => { k with
    tiles := [(2, { state := 1, fmt := 0, nr := 2, nc := 2, cells := [10, 20, 5, 7] })], cells := [(768, 2 ^ 23 - 1)] })
/-- R234, R238: 3 × 10 − 1 × 5 on 2^23 − 1 leaves 2^24 in the Billon count; 3 × 20 − 7 on zero does not. -/
theorem test_row_operation :
    (let t := after (exec (.mrow 32 42 0 2 (typed 0xC)) rowIn)
     [t.accVal 0 3 0, t.accVal 0 3 1, sget (t.core 0).billon 0 768, sget (t.core 0).billon 0 769]) = [2 ^ 23 + 24, 53, 1, 0] := by
  decide +kernel

/-- R312: a host request reads and writes a register. R323: without power a step faults. R108: EXIT ends the task. -/
theorem test_system :
    (after (exec (.hostRequest 0 { kind := .read, addr := 0xC000050010, size := 8, data := 0, op := 0, cmp := 0, pointer := false, direct := false }) State.reset)).port.reply
      = [(0, false, 2600)] ∧
    (match step { State.reset with powered := false } with
     | .fault .poweredOff => true
     | _ => false) = true ∧
    ((after (exec .exit (tasked id))).hart 0).task = none ∧ ((after (exec .exit (tasked id))).hart 0).run = .idle := by decide +kernel

/-- R29, R72: a word placed at the program counter runs at the next step; an illegal one traps, here with no handler. -/
theorem test_step :
    (((after (step (State.reset.withFetchWord 32 0x00201403))).ctx 0).getS 40) = 1 ∧
    ((after (step (State.reset.withFetchWord 32 0))).hart 0).run = .frozen 0x2C ∧
    (((after (step (State.reset.withFetchWord 64 0x04C91444000129FC))).ctx 0).pc) = 8 := by decide +kernel

/-! ### For each statement, values that meet its hypotheses; for each clause, at the edge of its range -/

/-- An access's result satisfies a test. -/
def okAnd {α : Type} (r : EStateM.Result Stop State α) (f : α → State → Bool) : Bool :=
  match r with
  | .ok a s => f a s
  | .error _ _ => false
/-- A meaning answers a next state. -/
def isNext (o : Host.Outcome State Fault Refusal) : Bool :=
  match o with
  | .next _ => true
  | _ => false
/-- A hart that no list names is empty; so what holds of every listed one and of an empty one holds of all. -/
theorem forall_harts (s : State) (P : Nat → Hart → Prop) (hi : ∀ h, P h Hart.init) (hl : ∀ e ∈ s.harts, P e.1 e.2) (h : Nat) :
    P h (s.hart h) := by
  unfold State.hart
  generalize s.harts = l at *
  induction l with
  | nil => exact hi h
  | cons e t ih =>
    simp only [sget]
    split
    · rename_i he; exact he ▸ hl e (by simp)
    · exact ih (fun x hx => hl x (by simp [hx]))

/-- The one entry that an instruction leaves in the queue of a task. -/
def queued (i : Instr) (s : State) : State := after (exec i (s.leaving true))
/-- Hart 0 has a load of eight bytes in flight for s40. -/
def loading (slice : Bool) (f : Ctx → Ctx) : State :=
  (tasked f).modHart 0 (fun x => { x with load := some (physS x.ctx 40, false,
    { loc := 0x100008, size := 8, va := 8, data := 0, slice := slice, pointer := false, root := 0x10000, ins := 0, task := some 1, own := (1, 0), rel := none }) })
/-- A task with one vector instruction in its queue. -/
def busy (f : Ctx → Ctx) : State := (queued (.vadd 40 36 38 none) (tasked (fun c => { f c with vl := 4 }))).leaving false

theorem test_wit_ScalarIntegerResult :
    (∃ x, scalarRR (.add 40 41 42) = some x) ∧ (∃ x, scalarRR (.popc 0 127) = some x) ∧ (∃ x, scalarImm (.addi 40 41 0x400) = some x) ∧
    (∃ x, scalarImm (.lih 40 0) = some x) := ⟨⟨_, rfl⟩, ⟨_, rfl⟩, ⟨_, rfl⟩, ⟨_, rfl⟩⟩

theorem test_wit_ScalarFloatResult :
    scalarFp (.fdivF32 40 41 42) = some (.arith .div, .f32, 40, 41, 42) ∧ scalarFp (.fmaF64 0 41 42) = some (.arith .fma, .f64, 0, 41, 42) ∧
    scalarFp (.fminF32 40 41 42) = some (.extremum false, .f32, 40, 41, 42) ∧ scalarFp (.fcmpUnF64 40 41 42) = some (.cmp .un, .f64, 40, 41, 42) ∧
    scalarFp (.fclassF32 40 41) = some (.cls, .f32, 40, 41, 0) ∧ scalarFp (.fcvt 40 41 2 11) = some (.cvt .s32, .f64, 40, 41, 0) ∧
    scalarFp (.fcvt 40 41 11 7) = some (.cvt .f64, .n64, 40, 41, 0) ∧ scalarFp (.fcvt 40 41 10 11) = some (.cvt .f32, .f64, 40, 41, 0) ∧
    scalarFp (.fcvt 40 41 2 3) = none := ⟨rfl, rfl, rfl, rfl, rfl, rfl, rfl, rfl, rfl⟩
/-- A NaN, an invalid operation, an infinite result and a finite one for each arithmetic operation; a signalling and a quiet NaN; zeros of
both signs, a subnormal, an infinity and a number for the other kinds; a number whose rounding overflows an integer. -/
theorem test_wit_ScalarFloatResult_cases :
    let f := ieee .f32
    let one := 0x3F800000
    let inf := 0x7F800000
    let neg := 0x80000000
    f.nan 0x7FC00000 = true ∧ f.sig 0x7FC00000 = false ∧ f.sig 0x7F800001 = true ∧ f.inf inf = true ∧ f.zero neg = true ∧ f.zero one = false ∧
    f.invalid .add inf (inf + neg) 0 = true ∧ f.invalid .sub inf inf 0 = true ∧ f.invalid .mul 0 inf 0 = true ∧ f.invalid .div 0 neg 0 = true ∧
    f.invalid .sqrt (one + neg) 0 0 = true ∧ f.invalid .sqrt neg 0 0 = false ∧ f.invalid .fma inf one (inf + neg) = true ∧
    [FpArith.add, .sub, .mul, .div, .sqrt, .fma].all (fun o => !f.invalid o one one one && (f.infinite o one one one).isNone) = true ∧
    f.infinite .add one (inf + neg) 0 = some true ∧ f.infinite .sub one inf 0 = some true ∧ f.infinite .mul inf one 0 = some false ∧
    f.infinite .div (one + neg) 0 0 = some true ∧ f.infinite .sqrt inf 0 0 = some false ∧ f.infinite .fma one one (inf + neg) = some true ∧
    f.val one = 1 ∧ f.val (one + neg) = -1 ∧ f.val 0 = 0 ∧ f.val 0x4F800000 = 2 ^ 32 ∧ (intRange .n32).2 < 2 ^ 32 ∧ f.expo 0x4F800000 ≠ 2 ^ 8 - 1 ∧
    intRead .s32 0xFFFFFFFF = -1 ∧ intRead .n64 0 = 0 := by
  refine ⟨?_, ?_, ?_, ?_, ?_, ?_, ?_, ?_, ?_, ?_, ?_, ?_, ?_, ?_, ?_, ?_, ?_, ?_, ?_, ?_, ?_, ?_, ?_, ?_, ?_, ?_, ?_, ?_⟩ <;> decide +kernel

theorem test_wit_ScalarFrame :
    scalarDest (.add 0 41 42) = some (0, false) ∧ scalarDest (.faddF64 40 41 42) = some (40, true) ∧
    isNext (exec (.add 0 41 42) (tasked id)) = true ∧ isNext (exec (.faddF64 40 41 42) (tasked id)) = true ∧
    ((tasked id).ctx (tasked id).cur).endsPass 4 = false := by decide +kernel

/-- One, the largest number and the smallest subnormal of F32, and zero of F64. -/
theorem test_wit_RoundingKeepsRepresentableValues :
    [Ty.f32, Ty.f64].all (fun t => [Ty.f64, Ty.f32, Ty.f16, Ty.b16].contains t) = true ∧
    [0x3F800000, 0x7F7FFFFF, 1].all (fun p => decide (p < 2 ^ ((fmtOf .f32).eb + (fmtOf .f32).fb + 1)) && (match decodeF (fmtOf .f32) p with
      | .fin _ _ _ => true
      | _ => false)) = true ∧
    (match decodeF (fmtOf .f64) 0 with
      | .fin _ _ _ => true
      | _ => false) = true := by decide +kernel

theorem test_wit_ControlTransferResult :
    (∃ x, branchOf (.beq 41 40 0x7FD) = some x) ∧ (∃ x, branchOf (.bgeu 41 40 0) = some x) ∧
    ((((with0 (fun c => c.setS 41 3)).ctx 0).getS 41).toNat + (BitVec.toInt (1 : BitVec 11)) : Int) % 2 ^ 56 % 4 = 0 ∧
    ((((with0 (fun c => c.setS 41 3)).ctx 0).getS 41).toNat + (BitVec.toInt (0 : BitVec 11)) : Int) % 2 ^ 56 % 4 ≠ 0 :=
  ⟨⟨_, rfl⟩, ⟨_, rfl⟩, by decide +kernel, by decide +kernel⟩

/-- Page tables of three pages: virtual page 0 in DRAM, page 1 at the register space, DEVICE, and page 2 with STREAM. -/
def tableR : List Host.Cell := wrNum (wrNum tableT 0x50008 8 (0xC000050000 + 0x79 + 2 ^ 60)) 0x50010 8 (0x100079 + 2 ^ 54)
def taskedR (f : Ctx → Ctx) : State := { tasked f with mem := tableR }
/-- The address of base s41 with offset 0 gives a piece that satisfies p, for an access of n bytes. -/
def pieceAt (s : State) (n : Nat) (k : AccKind) (p : Piece → State → Bool) : Bool :=
  okAnd ((spiece 0 ((s.ctx 0).getS 41).toNat n k).run s) p

theorem test_wit_LoadResult :
    (∃ x, loadOf (.ld 40 41 0) = some x) ∧ (spad 8).toNat % 8 = 0 ∧
    pieceAt (tasked (fun c => c.setS 41 (spad (64 * 4096 - 8)))) 8 .read (fun p s1 => p.window && !p.device &&
      !(s1.move.delayMiss && s1.scalarMisses 0 p false)) = true ∧
    pieceAt (taskedR (fun c => c.setS 41 0xFF8)) 8 .read (fun p s1 => !p.window && !p.device &&
      !(s1.move.delayMiss && s1.scalarMisses 0 p false)) = true ∧
    pieceAt (taskedR (fun c => c.setS 41 0x1010)) 8 .read (fun p s1 => p.device && decide (pkgOf p.loc = 0 ∧ regBase ≤ offOf p.loc) &&
      !(s1.move.delayMiss && s1.scalarMisses 0 p false)) = true := by
  refine ⟨⟨_, rfl⟩, ?_, ?_, ?_, ?_⟩ <;> decide +kernel

theorem test_wit_StoreResult :
    (∃ x, storeOf (.sd 40 41 0) = some x) ∧
    pieceAt (tasked (fun c => c.setS 41 (spad 0))) 8 .write (fun p s1 => p.window && !s1.isReg p &&
      !(s1.move.delayMiss && s1.scalarMisses 0 p true)) = true ∧
    pieceAt (taskedR (fun c => c.setS 41 0xFF8)) 8 .write (fun p s1 => !p.window && !s1.isReg p &&
      !(s1.move.delayMiss && s1.scalarMisses 0 p true)) = true ∧
    pieceAt (taskedR (fun c => c.setS 41 0x1010)) 8 .write (fun p s1 => p.device && decide (pkgOf p.loc = s1.pkg ∧ regBase ≤ offOf p.loc ∧
      s1.boot.fail = 0) && !(s1.move.delayMiss && s1.scalarMisses 0 p true)) = true := by
  refine ⟨⟨_, rfl⟩, ?_, ?_, ?_⟩ <;> decide +kernel

theorem test_wit_LoadStoreAlignment :
    (∃ d sg, loadOf (.lh 40 41 0) = some (d, 41, 0, 2, sg)) ∧ (∃ r, storeOf (.sw 40 41 0) = some (r, 41, 0, 4)) ∧
    (1 : Nat) % 2 ≠ 0 ∧ (2 ^ 56 : Nat) % 4 = 0 ∧ 2 ^ 56 ≤ (((tasked (fun c => c.setS 41 (2 ^ 56))).ctx 0).getS 41).toNat :=
  ⟨⟨_, _, rfl⟩, ⟨_, rfl⟩, by decide, by decide, by decide +kernel⟩

theorem test_wit_TrapEntering :
    let s := tasked (fun c => { c with swb := 11 })
    let u := tasked (fun c => { c with swb := 12 })
    let w := s.modHart 0 (fun x => { x with wait := some (.trap 1 7 true) })
    (trapOf s (.trap 5)).isSome = true ∧ (trapOf s (.brk 0)).isSome = true ∧ (trapOf s (.illegalEncoding none 0)).isSome = true ∧
    (trapOf w (.trapEntry 0)).isSome = true ∧ (s.ctx 0).vq = [] ∧ s.handlerOf 0 ≠ 0 ∧ (s.ctx 0).swb ≤ 11 ∧
    (u.ctx 0).vq = [] ∧ 11 < (u.ctx 0).swb ∧ (with0 id).handlerOf 0 = 0 ∧ ((with0 id).ctx 0).vq = [] ∧
    (trapOf (busy id) (.trap 5)).isSome = true ∧ ((busy id).ctx 0).vq ≠ [] ∧ (s.hart 0).load = none ∧
    (trapOf (loading true id) (.trap 5)).isSome = true ∧ ((loading true id).hart 0).load ≠ none := by decide +kernel

theorem test_wit_TrapReturn :
    let s (k x : Nat) := (tasked (fun c => { c with swb := k })).setS64 0 32 (BitVec.ofNat 64 x)
    3 ≤ ((s 3 8).ctx 0).swb ∧ (((s 3 8).ctx 0).getS 32).toNat % 4 = 0 ∧ ((s 2 8).ctx 0).swb < 3 ∧
    3 ≤ ((s 14 6).ctx 0).swb ∧ (((s 14 6).ctx 0).getS 32).toNat % 4 ≠ 0 := by decide +kernel

/-- A NEST of one ADD at 0, its descriptor of one dimension and one address register at the scratchpad: 2 passes, or none. -/
def nestIn (trips : Nat) : State :=
  let s := fill [(0, 8, 40 * 2 ^ 8 + 1 * 2 ^ 4 + 1), (8, 8, trips), (56, 8, 3)] (tasked (fun c => c.setS 41 (spad 0)))
  { s with mem := wrNum s.mem 0x100004 4 0x054A5401 }
/-- Its descriptor. -/
def nestDesc (w0 trips : Nat) : List Word := [BitVec.ofNat 64 w0, BitVec.ofNat 64 trips, 0, 0, 0, 0, 0, 3] ++ List.replicate 23 0
theorem test_wit_NestResult :
    [0, 2].all (fun n => okAnd ((nestBody 0 1).run (nestIn n)) (fun b s => b == [0x054A5401] &&
      okAnd ((nestWords 0 (((nestIn n).ctx 0).getS 41)).run s) (fun w _ => w == nestDesc 0x2811 n))) = true ∧
    ((nestIn 2).ctx 0).nest = none ∧ (((nestIn 2).ctx 0).getS 41).toNat % 8 = 0 := by decide +kernel
theorem test_wit_NestResult_offender :
    offender [0x054A5401] none ∧ offender [0x054A5401, 0] (some 0) ∧ offender [0x054A5401, 0x7C] (some 0x7C) := by
  have ok : ¬ offends none 0x054A5401 := by
    unfold offends; rw [show decodePair none 0x054A5401 = some (.add 40 41 42) by decide +kernel]; decide
  have zero : offends none 0 := by unfold offends; rw [show decodePair none 0 = none by decide +kernel]; trivial
  refine ⟨?_, ?_, ?_⟩ <;> rw [offender, if_neg (by decide)]
  · exact ⟨fun h => absurd h ok, fun _ => rfl⟩
  · refine ⟨fun h => absurd h ok, fun _ => ?_⟩
    rw [offender, if_neg (by decide)]
    exact ⟨fun _ => rfl, fun h => absurd zero h⟩
  · refine ⟨fun h => absurd h ok, fun _ => ?_⟩
    rw [offender, if_pos (by decide)]
theorem test_wit_NestResult_desc :
    ¬ badNest (nestDesc 0x2811 2) ∧ ¬ badNest (nestDesc 0x2811 0) ∧ badNest (nestDesc 0 1) ∧ badNest (nestDesc 0x2819 1) ∧
    badNest (nestDesc 0x2811 (2 ^ 32)) ∧ badNest (nestDesc 0x2851 1) ∧ badNest (nestDesc 0x2817 1) := by
  unfold badNest; decide +kernel
/-- A body with an offending word, a descriptor off its alignment, one of no dimension, and a nest that has not ended. -/
theorem test_wit_NestResult_traps :
    (let s := { nestIn 2 with mem := wrNum (nestIn 2).mem 0x100004 4 0 }
     okAnd ((nestBody 0 1).run s) (fun b _ => b == [0]) && (s.ctx 0).nest.isNone) = true ∧
    (let s := (nestIn 2).setS64 0 41 (spad 4)
     okAnd ((nestBody 0 1).run s) (fun b _ => b == [0x054A5401] && (s.ctx 0).nest.isNone &&
       decide (((s.ctx 0).getS 41).toNat % 8 ≠ 0))) = true ∧
    (let s := (nestIn 2).setS64 0 41 (spad 128)
     okAnd ((nestBody 0 1).run s) (fun b s1 => b == [0x054A5401] && (s.ctx 0).nest.isNone &&
       decide (((s.ctx 0).getS 41).toNat % 8 = 0) && okAnd ((nestWords 0 ((s.ctx 0).getS 41)).run s1) (fun w _ => w == List.replicate 31 0))) = true ∧
    ((with0 (fun c => { c with nest := some { suspended := true, start := 0, body := [], trips := [], ctrs := [], regs := [], steps := [] } })).ctx 0).nest
      ≠ none := by decide +kernel

/-- A running nest of two dimensions before the last word of its body, at the end of its first pass and of its last. -/
def inNest (k j : Nat) : Ctx :=
  { Ctx.init with pc := 4, nest := some { suspended := false, start := 0, body := [0x054A5401], trips := [2, 3], ctrs := [k, j],
                                          regs := [40], steps := [[1, 2]] } }
theorem test_wit_NestResult_advance :
    (inNest 0 0).endsPass 4 = true ∧ (inNest 0 0).endsPass 8 = false ∧
    (0 < 2 ∧ nth [0, 0] 0 + 1 < nth [2, 3] 0) ∧ (1 < 2 ∧ nth [1, 0] 1 + 1 < nth [2, 3] 1 ∧ ∀ j, j < 1 → nth [2, 3] j ≤ nth [1, 0] j + 1) ∧
    (∀ d, d < 2 → nth [2, 3] d ≤ nth [1, 2] d + 1) := by decide +kernel

theorem test_wit_WindowMove :
    let c := ((with0 (fun c => { c with swb := 14, vwb := 6 })).ctx 0)
    (0 ≤ (c.swb : Int) + (0 : BitVec 4).toInt ∧ (c.swb : Int) + (0 : BitVec 4).toInt ≤ 14 ∧ (c.vwb : Int) + (0 : BitVec 4).toInt ≤ 6) ∧
    14 < (c.swb : Int) + (1 : BitVec 4).toInt ∧ 6 < (c.vwb : Int) + (1 : BitVec 4).toInt ∧
    (Ctx.init.swb : Int) + (15 : BitVec 4).toInt < 0 ∧ (Ctx.init.vwb : Int) + (8 : BitVec 4).toInt < 0 := by decide +kernel

theorem test_wit_SystemRegisterAccess :
    (sysTable (tasked id) 0).any (fun e => e.1 == (0x042 : BitVec 11).toNat) = true ∧
    (sysTable (tasked id) 0).any (fun e => e.1 == (0x010 : BitVec 11).toNat) = true ∧
    waitsForQueue 0x010 = true ∧ ((tasked id).ctx 0).vq = [] ∧ ((busy id).ctx 0).vq ≠ [] ∧
    (∀ e ∈ sysTable (tasked id) 0, e.1 ≠ 0x006) ∧ (srwOf (.srwMctl 41)).isSome = true ∧ (srwOf (.srwFctl 41)).isSome = true := by
  decide +kernel

/-- A queue of n entries. -/
def queueOf (n : Nat) (c : Ctx) : Ctx := { (c.setQueue 3 { head := 60, ents := (List.range n).map (BitVec.ofNat 64) }) with pc := 0 }
theorem test_wit_ScalarQueueAccess :
    let s := tasked (queueOf 63)
    let u := tasked (queueOf 64)
    let w := u.modHart 0 (fun x => { x with wait := some (.qpush 3 7) })
    let z := (tasked id).modHart 0 (fun x => { x with wait := some (.qpop 40 3) })
    qpushOf s (.qpush 41 3) = some (0, 3, 0) ∧ qpushOf w (.qpushRoom 0) = some (0, 3, 7) ∧ qpopOf s (.qpop 40 3) = some (0, 40, 3) ∧
    qpopOf z (.qpopEntryArrival 0) = some (0, 40, 3) ∧ s.queueNamed 0 3 = false ∧ s.linkFrom 0 3 = none ∧ s.streamDst 0 3 = false ∧
    ((s.ctx 0).queue 3).ents.length < 64 ∧ 64 ≤ ((u.ctx 0).queue 3).ents.length ∧ ((s.ctx 0).queue 3).ents ≠ [] ∧
    ((z.ctx 0).queue 3).ents = [] ∧ s.traced 0 = false ∧ z.traced 0 = false ∧ w.queueNamed 0 3 = false ∧ w.linkFrom 0 3 = none := by
  decide +kernel
/-- Stream 0 is open on queue 3. -/
def streaming : State :=
  (tasked id).modCore 0 (fun k => { k with streams := [(0, { Stream.init with owner := some (0, 1), launch := 5, q := 3, count := 1 })] })
theorem test_wit_ScalarQueueAccess_stream :
    qpushOf streaming (.qpush 41 3) = some (0, 3, 0) ∧ streaming.queueNamed 0 3 = false ∧ streaming.linkFrom 0 3 = none ∧
    streaming.traced 0 = false ∧ streaming.streamDst 0 3 = true := by decide +kernel

/-- Harts 0 and 1 run tasks of one launch; hart 0 holds a link operand for queue 4 of hart 1 in s41. -/
def paired (f : Ctx → Ctx) : State :=
  let s := tasked f
  { (s.modHart 1 (fun x => { x with run := .running, task := some 2 })) with
      sched := { s.sched with tasks := [(1, taskT), (2, { taskT with hart := 1, index := 1 })] } }
theorem test_wit_QueueLinks :
    let v : Word := 2 ^ 63 + 1 * 2 ^ 4 + 4
    let s := paired (fun c => c.setS 41 v)
    let u := paired (fun c => c.setS 41 4)
    let w := { paired (fun c => c.setS 41 4) with links := [{ ch := 1, cq := 3, ph := 0, pq := 2, ct := 2, pt := 1 }] }
    s.queueNamed 0 2 = false ∧ ((s.ctx 0).getS 41) = v ∧ bits v.toNat 62 24 = 0 ∧ bits v.toNat 15 6 = 0 ∧ v.toNat.testBit 63 = true ∧
    (s.newLink 0 2 v.toNat).isSome = true ∧ (4 : Nat).testBit 63 = false ∧ ((u.ctx 0).queue 2).ents = [] ∧ u.queueNamed 0 2 = false ∧
    w.queueNamed 0 2 = false ∧ (w.linkFrom 0 2).any (fun l => l.ch != 0 && (w.hart l.ch).task == some l.ct &&
      decide (((w.ctx l.ch).queue l.cq).ents.length < 64) && (w.ctx l.ch).exiting == 0) = true ∧ w.streamDst 0 2 = false := by
  decide +kernel

/-- A resident, dirty line of page 0 at 0x100000, with other bytes behind it. -/
def cached (lo n : Nat) : State :=
  let s := tasked (fun c => (c.setS 41 (BitVec.ofNat 64 lo)).setS 42 (BitVec.ofNat 64 n))
  { s with llc := [(sbOf 0x100000, (false, 1))], dirty := [0x4000], stale := [(0x4000, List.replicate 64 7)] }
theorem test_wit_CacheMaintenanceResult :
    let s := cached 0 64
    let hit := fun line => lineIn (s.leaves 0 64 4 (s.rootOf 0) 0) 0 64 line
    s.fenceAll 0 2 = true ∧ s.dbgOf 0 = false ∧ (((s.ctx 0).getS 41).toNat < 2 ^ 56 ∧ ((s.ctx 0).getS 42).toNat ≠ 0) ∧
    (64 : Nat) % 64 = 0 ∧ 0x4000 ∈ s.residentLines ∧ hit 0x4000 = true ∧ (sfind s.stale 0x4000).any (fun b => b.length == 64) = true ∧
    (let u := cached 64 0
     u.fenceAll 0 2 = true ∧ u.dbgOf 0 = false ∧ ((u.ctx 0).getS 42).toNat = 0 ∧ ((u.ctx 0).getS 41).toNat < 2 ^ 56 ∧
       ((u.ctx 0).getS 41).toNat % 64 = 0) ∧
    (let u := cached 32 64
     u.fenceAll 0 2 = true ∧ u.dbgOf 0 = false ∧ ((u.ctx 0).getS 41).toNat % 64 ≠ 0) := by decide +kernel

theorem test_wit_TranslationInvalidation :
    let s := { tasked (fun c => (c.setS 41 0).setS 42 4096) with cores := [(0, { Core.init with tlb := [⟨0x10000, 0, 0, 0x100079⟩] })] }
    let u := { s with sched := { s.sched with launches := [(5, { launchT with tlbm := false })] } }
    let w := s.modHart 0 (fun x => { x with wait := some .tlbinv, inval := some (0, 4096, [0, 513]) })
    let z := s.modHart 0 (fun x => { x with wait := some .tlbinv, inval := some (0, 4096, []) })
    (s.launchOf 0).any (·.tlbm) = true ∧ s.fenceAll 0 3 = true ∧ s.dbgOf 0 = false ∧ s.move.delayMiss = false ∧
    (∀ k ∈ s.walkers, s.walkerBusy (s.rootOf 0) 0 4096 k = false) ∧ (u.launchOf 0).any (·.tlbm) = false ∧
    (w.hart 0).inval = some (0, 4096, [0, 513]) ∧ w.walkerBusy (w.rootOf 0) 0 4096 513 = false ∧
    (z.hart 0).run = .running ∧ (z.hart 0).wait = some .tlbinv ∧ (z.hart 0).inval = some (0, 4096, []) := by decide +kernel

/-- No other hart has a TLBINV in flight, so that the walker is free for all of them. -/
theorem test_wit_TranslationInvalidation_walker :
    let w := (tasked id).modHart 0 (fun x => { x with wait := some .tlbinv, inval := some (0, 4096, [0, 513]) })
    ∀ k lo n ws, (w.hart k).inval = some (lo, n, ws) → 513 ∈ ws → w.walkerBusy (w.rootOf k) lo n 513 = false := by
  intro w k lo n ws e _
  have h0 := forall_harts w (fun k x => k = 0 ∨ x.inval = none) (fun _ => .inr rfl) (by decide +kernel) k
  have h1 := forall_harts w (fun _ x => x.inval = none ∨ x.inval = some (0, 4096, [0, 513])) (fun _ => .inl rfl) (by decide +kernel) k
  rcases h1 with h1 | h1 <;> rw [h1] at e
  · cases e
  · cases e
    rcases h0 with rfl | h0
    · decide +kernel
    · rw [h1] at h0; cases h0
/-- A vector row meets the conditions of its statement in a context: multiples of ROWS, and its own. -/
def elemOk (i : Instr) (s : State) : Bool :=
  (elemRow i).any (fun R => R.swept.all (fun v => v.toNat % (s.ctx 0).rows == 0) && R.ok (s.ctx 0) (s.vleOf 0 R.w))
def wholeOk (i : Instr) (s : State) : Bool :=
  (wholeRow i).any (fun R => R.swept.all (fun v => v.toNat % (s.ctx 0).rows == 0) && R.ok (s.ctx 0) (s.vleOf 0 R.w))
/-- Rows and vector length of a task. -/
def shaped (rows vl : Nat) : State := tasked (fun c => { c with rows := rows, vl := vl })

theorem test_wit_VectorElementResult :
    elemOk (.vadd 40 36 38 upM3) (shaped 1 512) = true ∧ elemOk (.vfma 40 32 48 none) (shaped 8 512) = true ∧
    elemOk (.vcmp 1 32 48 5 none) (shaped 8 0) = true ∧ elemOk (.vnarrow 40 32 0 none) (shaped 1 4) = true ∧
    elemOk (.vscacc 56 48 5 1 none) (shaped 2 512) = true ∧
    ((shaped 8 512).ctx 0).vq = [] ∧ (shaped 8 512).move.delayIssue = false ∧ ((shaped 8 512).ctx 0).xle = false := by decide +kernel

/-- A tapered conversion with one NaN, its exception list at the scratchpad. -/
def listIn : State :=
  (cvtIn.ctx 0 |> fun c => tasked (fun _ => { c with xle := true, xbase := 0xFF * 2 ^ 36 }))
theorem test_wit_VectorElementResult_list :
    (elemRow (.vcvt 8 4 10 (dyn 6))).any (fun R => R.dst.isSome && R.swept.all (fun v => v.toNat % (listIn.ctx 0).rows == 0) &&
      R.ok (listIn.ctx 0) (listIn.vleOf 0 R.w) &&
      ((List.range ((listIn.ctx 0).rows * listIn.vleOf 0 R.w)).foldlM (R.listStep listIn (listIn.ctx 0) 0 (listIn.vleOf 0 R.w))
        ((listIn.ctx 0, [0xFFFF, 0xFFFF, 0xFFFF, 0xFFFF, 0xFFFF, 0xFFFF, 0xFFFF]), listIn.mem)).isSome) = true ∧
    (listIn.ctx 0).vq = [] ∧ listIn.move.delayIssue = false ∧ (listIn.ctx 0).xle = true ∧ (listIn.ctx 0).gates = [] ∧
    listIn.liveIlocks 0 = [] ∧ listIn.dbgOf 0 = false := by decide +kernel

/-- Thirty-two entries, and thirty-one. -/
def crowded (n : Nat) : State := (busy id).modCtx 0 (fun c => { c with vq := c.vq.flatMap (fun e => List.replicate n e) })
theorem test_wit_VectorIssue :
    (elemRow (.vadd 41 36 38 none)).any (fun R => R.swept.any (fun v => v.toNat % ((shaped 2 4).ctx 0).rows != 0)) = true ∧
    (elemRow (.vadd 40 36 40 upM3)).any (fun R => !R.ok ((shaped 1 4).ctx 0) ((shaped 1 4).vleOf 0 R.w)) = true ∧
    elemOk (.vadd 40 36 38 none) (crowded 31) = true ∧ ((crowded 31).ctx 0).vq ≠ [] ∧ ((crowded 31).ctx 0).vq.length = 31 ∧
    elemOk (.vadd 40 36 38 none) (crowded 32) = true ∧ 32 ≤ ((crowded 32).ctx 0).vq.length := by decide +kernel

theorem test_wit_VectorWholeResult :
    wholeOk (.vreshape 40 32 50 none) (shaped 8 512) = true ∧ wholeOk (.vfredsum 40 32 36 none) (shaped 1 0) = true ∧
    wholeOk (.smaxe 1 32 7 none) (shaped 2 512) = true ∧ wholeOk (.vperm 40 32 48 none) (shaped 4 3) = true ∧
    wholeOk (.mpopc 5 1 none) (shaped 1 8) = true ∧ ((shaped 8 512).ctx 0).vq = [] ∧ (shaped 8 512).move.delayIssue = false ∧
    ((shaped 8 512).ctx 0).rows ≤ 8 := by decide +kernel

theorem test_wit_MaskResult :
    (maskRow Ctx.init (.mand 1 2 3 none)).isSome = true ∧ (maskRow Ctx.init (.mset 15 41 none)).any (fun x => x.1 != 0) = true ∧
    ((shaped 1 4).ctx 0).vq = [] ∧ (shaped 1 4).move.delayIssue = false := by decide +kernel

theorem test_wit_VectorQueueTransfers :
    let s (n : Nat) : State := tasked (fun c => { (c.setQueue 3 { head := 0, ents := (List.range n).map (BitVec.ofNat 64) }) with vl := 8, rows := 2 })
    let k := ((s 0).vleOf 0 (tyW (elTy 7 none)) + 64 / tyW (elTy 7 none) - 1) / (64 / tyW (elTy 7 none))
    ((s 16).ctx 0).vq = [] ∧ (s 16).move.delayIssue = false ∧ (40 : BitVec 7).toNat % 2 = 0 ∧ (s 16).linkFrom 0 3 = none ∧
    2 * k ≤ (((s 16).ctx 0).queue 3).ents.length ∧ (((s 48).ctx 0).queue 3).ents.length + 2 * k ≤ 64 ∧ (s 48).streamDst 0 3 = false ∧
    (s 48).linkFrom 0 3 = none := by decide +kernel

/-- Conditions of the statements about vector memory that do not depend on the accesses. -/
def memOk (i : Instr) (s : State) : Bool :=
  (memRow i).any (fun R => R.swept.all (fun v => v.toNat % (s.ctx 0).rows == 0) && R.ok (s.ctx 0) (s.vleOf 0 R.gw)) &&
  (s.ctx 0).vq.isEmpty && (s.ctx 0).gates.isEmpty && !s.move.delayIssue && (s.liveIlocks 0).isEmpty && !s.dbgOf 0
/-- Three elements at the end of a scratchpad page. -/
def memIn : State := tasked (fun c => { (c.setS 40 (spad 4092)).setS 41 4 with vl := 1, wmarks := [(1, { addr := 0xFF000000000000, base := 2 ^ 63, scope := 0 })] })
theorem test_wit_VectorWindowAccess :
    [Instr.vld 32 40 0 none, .vst 32 40 0 none, .vlds 32 40 41 none, .vldx 32 40 36 2 none, .vamo 32 40 36 9 none].all (fun i => memOk i memIn &&
      (memRow i).any (fun R => ((List.range (((memIn.ctx 0).rows) * memIn.vleOf 0 R.gw)).foldlM (R.winStep memIn (memIn.ctx 0) 0 (memIn.vleOf 0 R.gw))
        (memIn.ctx 0, memIn.mem)).isSome)) = true := by decide +kernel

theorem test_wit_VectorMemoryAccesses :
    [Instr.vld 32 40 0 none, .vstx 32 40 36 1 none, .vamo 32 40 36 9 none, .vldw 32 40 1 none].all (fun i => memOk i memIn &&
      (memRow i).any (fun R => okAnd (((List.range ((memIn.ctx 0).rows * memIn.vleOf 0 R.gw)).forM (R.access (memIn.ctx 0) 0 (memIn.vleOf 0 R.gw))).run
        memIn) (fun _ _ => true))) = true ∧
    (sfind (memIn.ctx 0).wmarks 1).isSome = true ∧ memOk (.vldw 32 40 2 none) memIn = true ∧ sfind (memIn.ctx 0).wmarks 2 = none := by
  decide +kernel

/-- A store of an earlier instruction is still on its way. -/
def storing (f : Ctx → Ctx) : State :=
  (tasked f).modHart 0 (fun x => { x with pend := [{ loc := 0x100040, va := 0x40, size := 8, data := 1, slice := true, pointer := false, root := 0x10000, ins := 0, task := some 1, own := (1, 0), rel := none }] })
theorem test_wit_AtomicResult :
    let s := tasked (fun c => (c.setS 41 (spad 8)).setS 40 3)
    let u := storing (fun c => c.setS 41 (spad 8))
    (atomicOf s (.amo 40 41 1 0 2 1)).isSome = true ∧ (atomicOf s (.amocas 40 41 1 0 0)).isSome = true ∧
    (spad 8).toNat % 8 = 0 ∧ s.fenceAll 0 1 = true ∧ pieceAt s 8 .atomic (fun p s1 => !s1.move.delayMiss || p.window) = true ∧
    pieceAt (taskedR (fun c => c.setS 41 0x20)) 8 .atomic (fun p s1 => (!s1.move.delayMiss || p.window) && !p.device) = true ∧
    s.dbgOf 0 = false ∧ (4 : Nat) % 8 ≠ 0 ∧ u.fenceAll 0 1 = false ∧ (spad 8).toNat < 2 ^ 56 := by decide +kernel
/-- A vector load is queued at the task. -/
def reading (f : Ctx → Ctx) : State := (queued (.vld 32 40 0 none) (tasked (fun c => { f c with vl := 4 }))).leaving false
theorem test_wit_AtomicResult_acquire : ∃ e ∈ ((reading id).ctx 0).vq, queueReads e ∧ e.id < ((reading id).ctx 0).nextId := by
  unfold queueReads
  decide +kernel

/-- The task has its fence to wait with, and takes the order a release leaves when the move says so. -/
def delayed (s : State) : State := { s with move := { s.move with delayMiss := true } }
/-- A copy channel of the hart is running. -/
def copying : State :=
  (tasked (fun c => { c with cpys := [(1, ⟨1, 0⟩)] })).modCore 0 (fun k => { k with chans := [(1, { Channel.init with owner := some (0, 1), launch := 5, state := 1, total := 8 })] })
/-- With nothing queued, no load and no store in flight, no engine command and no slot write to apply, nothing is outstanding. -/
theorem idle_quiet : ¬ (tasked id).engineBusy 0 ∧ ¬ (tasked id).elecBehind 0 := by
  constructor
  · rintro ⟨T, -, ⟨n, x, h, -⟩ | ⟨n, x, h, -⟩ | ⟨n, l, x, h, -⟩⟩
    · exact absurd h (by rw [show ((tasked id).core (coreOf 0)).chans = [] by decide +kernel]; simp)
    · exact absurd h (by rw [show ((tasked id).core (coreOf 0)).streams = [] by decide +kernel]; simp)
    · exact absurd h (by rw [show (tasked id).engines = [] by decide +kernel]; simp)
  · rintro ⟨k, -, -, h⟩
    rw [show ((tasked id).ctx 0).elecEnd = 0 by decide +kernel, show ((tasked id).ctx 0).elecSeen = 0 by decide +kernel] at h
    omega
theorem test_wit_FenceResult :
    let s := tasked id
    let w := s.modHart 0 (fun x => { x with wait := some (.fence 4 1 1) })
    fenceOf s (.fence 4 1 1) = some (0, 4, 1, 1) ∧ fenceOf w (.fenceComplete 0) = some (0, 4, 1, 1) ∧ s.dbgOf 0 = false ∧
    fenceOf (delayed (storing id)) (.fence 0 2 0) = some (0, 0, 2, 0) ∧ (storing id).dbgOf 0 = false ∧ (s.ctx 0).vq = [] ∧
    s.move.delayIssue = false ∧ (s.hart 0).load = none ∧ (s.hart 0).pend = [] := by decide +kernel
theorem test_wit_FenceResult_free (o dir : Nat) : ¬ (tasked id).outstanding 0 o dir [] := by
  have h := idle_quiet
  have l : ((tasked id).hart 0).load = none := by decide +kernel
  have p : ((tasked id).hart 0).pend = [] := by decide +kernel
  simp [State.outstanding, h.1, h.2, l, p]
/-- A release waits for a store in flight, and an acquire for a load; a fence of the vector agent waits for a copy. -/
theorem test_wit_FenceResult_held :
    (storing id).outstanding 0 1 0 [] ∧ (delayed (storing id)).outstanding 0 1 0 [] ∧ (loading true id).outstanding 0 0 0 [] ∧
    copying.outstanding 0 0 2 [] ∧ copying.dbgOf 0 = false ∧ (copying.ctx 0).vq = [] := by
  refine ⟨.inl ⟨.inl rfl, .inr ⟨by decide, by decide +kernel⟩⟩, .inl ⟨.inl rfl, .inr ⟨by decide, by decide +kernel⟩⟩,
    .inl ⟨.inl rfl, .inl (by decide +kernel)⟩, .inr (.inl ⟨by decide, .inr ⟨1, by decide +kernel, .inl ⟨1,
      { Channel.init with owner := some (0, 1), launch := 5, state := 1, total := 8 }, ?_, rfl, rfl⟩⟩⟩), ?_, ?_⟩ <;> decide +kernel
/-- The store after a release of scalar to both, left as an order, while a store is in flight. -/
theorem test_wit_FenceResult_gate :
    let c := Ctx.init
    let s := storing (fun c => { c.setS 41 (spad 0) with gates := [releaseLeft Ctx.init 3] })
    (storeOf (.sd 40 41 0)).isSome = true ∧ (spad 0).toNat % 8 = 0 ∧
    okAnd ((resolve 0 0 (spad 0).toNat 8 .write .scalar).run s) (fun ps s1 => !ps.isEmpty && (s1.ctx 0).gates == [releaseLeft Ctx.init 3] &&
      decide (c.nextId ≤ (s1.ctx 0).nextId) && !(s1.hart 0).pend.isEmpty) = true := by decide +kernel

/-- The four harts of core 0 run a launch of level core; b is what each has arrived with. -/
def grouped (b : Nat → Option BarWait) : State :=
  let s := [1, 2, 3].foldl (fun (s : State) h => s.modHart h (fun x => { x with run := .running, task := some (h + 1) })) (tasked id)
  let s := [0, 1, 2, 3].foldl (fun (s : State) h => s.modCtx h (fun c => { c with bar := b h })) s
  { s with sched := { s.sched with launches := [(5, { launchT with par := { parT with level := 1 } })],
                                   tasks := (List.range 4).map (fun h => (h + 1, { taskT with hart := h, index := h, size := 4 })) } }
theorem test_wit_BarrierResult :
    let s := grouped (fun h => if h = 0 then none else some { scope := 1, gen := 1, tie := none, counted := true, complete := false })
    let b : BarWait := { scope := 1, gen := 1, tie := none, counted := true, complete := false }
    let w := (grouped (fun _ => some b)).modHart 0 (fun x => { x with wait := some (.bar 1 0) })
    let u := grouped (fun h => if h < 3 then some b else none)
    barOf s (.bar 1 0) = some (0, 1, 0) ∧ barOf s (.bar 0 0) = some (0, 0, 0) ∧ barOf w (.barrierDeparture 0) = some (0, 1, 0) ∧
    s.dbgOf 0 = false ∧ ((s.launchOf 0).map (·.par.level)).getD 0 = 1 ∧ (s.ctx 0).bar = none ∧ s.fenceAll 0 1 = true ∧
    s.tieDone 0 b.tie = true ∧ b.gen = sget (s.ctx 0).barGen 0 1 + 1 ∧ (w.ctx 0).bar = some b ∧ (u.ctx 0).bar = some b ∧
    u.allArrived 0 1 1 = false ∧ (s.modCtx 0 (fun c => { c with bar := some b })).allArrived 0 1 1 = true ∧ w.allArrived 0 1 1 = true := by
  decide +kernel

theorem test_wit_ProgressWords :
    let s (v : Nat) := fill [(8, 8, 5)] (tasked (fun c => (c.setS 41 (spad 8)).setS 42 (BitVec.ofNat 64 v)))
    let w := (s 5).modHart 0 (fun x => { x with wait := some (.waitge 4 (spad 8) 5) })
    (waitgeOf (s 5) (.waitge 4 41 42)).isSome = true ∧ (waitgeOf w (.waitgeSatisfied 0)).isSome = true ∧ (s 5).dbgOf 0 = false ∧
    (spad 8).toNat % 8 = 0 ∧ pieceAt (s 5) 8 .read (fun p s1 => !p.device && decide (5 ≤ ofLe (rdBytes s1.mem p.loc 8))) = true ∧
    pieceAt (s 6) 8 .read (fun p s1 => !p.device && decide (ofLe (rdBytes s1.mem p.loc 8) < 6)) = true ∧
    (s 5).fenceAll 0 1 = true ∧ pieceAt (s 5) 8 .atomic (fun _ _ => true) = true ∧ (spad 8).toNat < 2 ^ 56 := by decide +kernel

theorem test_wit_EngineStatus :
    let s := tasked (fun c => { c.setS 42 8 with cpys := [(3, ⟨0, 8⟩)], istrs := [(1, ⟨1, 2⟩)] })
    let w := s.modHart 0 (fun x => { x with wait := some (.cwait 40 3 9) })
    let z := s.modHart 0 (fun x => { x with wait := some (.iwait 40 1) })
    let n := { s with sched := { s.sched with launches := [(5, { launchT with par := { parT with chan := 0 } })] } }
    (statusOf s (.cwait 40 3 42)).any (fun x => !x.2.2.2) = true ∧ (statusOf s (.cwp 40 3)).any (fun x => !x.2.2.2) = true ∧
    (statusOf s (.iwait 40 1)).any (fun x => x.2.2.2) = true ∧ (statusOf w (.cwaitSatisfied 0)).isSome = true ∧
    (statusOf z (.iwaitSatisfied 0)).any (fun x => x.2.2.2) = true ∧
    (n.launchOf n.cur).any (fun l => l.par.chan.testBit (3 : BitVec 3).toNat) = false := by decide +kernel

/-- The Electrum window address of byte o. -/
def elecA (o : Nat) : Word := BitVec.ofNat 64 (elecBase + o)
theorem test_wit_ElectrumWaits :
    let s (a v : Word) := tasked (fun c => (c.setS 41 a).setS 42 v)
    let w := (s 0 0).modHart 0 (fun x => { x with wait := some (.ewait 0 0 0) })
    (ewaitOf (s 0 0) (.ewait 0 0 42)).isSome = true ∧ (ewaitOf w (.ewaitSatisfied 0)).isSome = true ∧ (s 0 0).dbgOf 0 = false ∧
    (0 : Word).toNat ≤ (s 0 0).eseq 0 ∧ (s 0 0).eseq 0 < (1 : Word).toNat ∧
    (elecA 2040).toNat % 8 = 0 ∧ ((s (elecA 2040) 0).winLoc 0 (elecA 2040).toNat 8 .read).any (fun l => !(s (elecA 2040) 0).pendOn 0 l) = true ∧
    (s 0 0).scalarBlocked 0 .read = false ∧ elecBase ≤ (elecA 2040).toNat ∧ (elecA 2040).toNat + 8 ≤ elecBase + elecSize ∧ (elecA 2044).toNat % 4 = 0 ∧
    ((s (elecA 2044) 0).winLoc 0 (elecA 2044).toNat 4 .read).any (fun l => !(s (elecA 2044) 0).pendOn 0 l) = true ∧
    (elecA 2044).toNat + 4 ≤ elecBase + elecSize := by decide +kernel

/-- The task runs, and another of its slot is saved, ready. -/
def yielding : State :=
  let s := tasked id
  let v : Saved := { ctx := Ctx.init, code := 0x10, cls := 1, ready := true, onRec := none, yielded := true, since := 0, aged := 0,
                     spilled := true, stamp := 0 }
  { s with sched := { s.sched with tasks := [(1, taskT), (2, { taskT with frame := 1, saved := some v })] } }
theorem test_wit_TaskEnd :
    (tasked id).yieldsTo 0 = false ∧ yielding.yieldsTo 0 = true ∧ (yielding.core 0).bank = .empty ∧ (yielding.hart 0).task = some 1 ∧
    (sfind yielding.sched.tasks 1).isSome = true ∧ yielding.traced 0 = false ∧ (yielding.hart 0).load = none ∧
    exitOf ((tasked id).modHart 0 (fun x => { x with wait := some .exit })) (.exitComplete 0) = some 0 ∧
    ((tasked id).ctx 0).vq = [] ∧ ((tasked id).ctx 0).exiting = 0 ∧ (tasked id).enginesDone 0 = true ∧ (tasked id).fenceAll 0 1 = true ∧
    ((tasked id).core 0).streams.any (fun e => (tasked id).owns 0 e.2.owner) = false ∧
    sfind (tasked id).sched.tasks 1 = some taskT ∧ taskT.hart = 0 ∧ (sfind (tasked id).sched.launches taskT.launch).isSome = true ∧
    ((busy id).ctx 0).vq ≠ [] := by decide +kernel

/-- A parameter block of one group of harts with its entry at 0x40, in the scratchpad at 0. -/
def launching (n : Nat) : State :=
  let s := fill [(0, 8, 0x40), (24, 8, 2 ^ 32)] (tasked (fun c => c.setS 41 (spad 0)))
  { s with sched := { s.sched with launches := (5, launchT) :: (List.range n).map (fun k => (k + 6, launchT)) } }
theorem test_wit_LaunchResult :
    (spad 0).toNat % 64 = 0 ∧ (launching 0).fenceAll 0 1 = true ∧
    okAnd ((blockRead 0 ((launching 0).getS64 0 41)).run (launching 0)) (fun w s1 => !blockBad w && (s1.launchOf 0).any (fun l => !l.par.dbg) &&
      decide ((s1.sched.launches.filter (fun e => e.2.src == .device)).length < 4096)) = true := by decide +kernel
/-- 4096 launches from the device are in flight. -/
theorem test_wit_LaunchResult_full :
    (launching 4095).fenceAll 0 1 = true ∧
    okAnd ((blockRead 0 ((launching 4095).getS64 0 41)).run (launching 4095)) (fun w s1 => !blockBad w && (s1.launchOf 0).any (fun l => !l.par.dbg) &&
      decide (4096 ≤ (s1.sched.launches.filter (fun e => e.2.src == .device)).length)) = true := by decide +kernel

/-- Sources of the fibre statements: ascending fibres f1, f2 and f3, a queue q0 with a terminator. -/
def fibreIn : State :=
  tasked (fun c => { ((((c.setFibre 1 { cap := 8, pairs := [(1, 0x3F800000), (4, 0), (2 ^ 32 - 1, 0x40000000)] }).setFibre 2
    { cap := 8, pairs := [(4, 0x3F800000)] }).setFibre 3 { cap := 8, pairs := [] }).setQueue 0 { head := 63, ents := [3, 4, terminator, 9] }).setFibre 5
      { cap := 2, pairs := [] } with vl := 4 })
/-- The conditions of a fibre row: its sources can be read whole, and its result fits. -/
def fibreOk (i : Instr) (s : State) : Bool :=
  let C := s.ctx 0
  (fibreRow C i).any (fun R =>
    let l := R.srcs.filterMap (sourcePairs C)
    C.vq.isEmpty && !s.move.delayIssue && C.fprogA == 0 && C.fprogB == 0 && C.nest.isNone && !R.srcs.contains R.d.toNat &&
    R.srcs.map (sourcePairs C) == l.map some && decide (R.srcs.filter (fun x => decide (16 ≤ x))).Nodup &&
    R.srcs.all (fun x => decide (x < 16) || (R.queues && (s.linkFrom 0 (x - 16)).isNone)) &&
    l.all (fun ps => decide (ps.length < 65536) && ps.all (fun p => decide (p.1 < 2 ^ 32)) &&
      (!R.asc || decide ((ps.map (·.1)).Pairwise (· < ·)))) && decide ((R.out l).length ≤ (C.fibre R.d.toNat).cap))
theorem test_wit_FibreResults :
    [Instr.fsort 4 1 0 none, .fisect 4 1 16 1 none, .funion 4 1 2 0 none, .fmerge 4 1 2 0 none, .fcompact 4 1 none, .fslice 4 16 41 none,
      .fmap 4 1 41 0 none].all (fun i => fibreOk i fibreIn) = true ∧
    (let l := [1, 16].filterMap (sourcePairs (fibreIn.ctx 0))
     l.length = 2 ∧ ([16] : List Nat).Nodup ∧ (∀ ps ∈ l, ps.length < 65536 ∧ (∀ p ∈ ps, p.1 < 2 ^ 32) ∧ (ps.map (·.1)).Pairwise (· < ·))) := by
  decide +kernel

/-- FCOMPACT: all three pairs of f1 fit, or two of three from the start with room for one. -/
theorem test_wit_FibreResults_resume :
    let ps := ((fibreIn.ctx 0).fibre 1).pairs
    let keep (l : List (Nat × Nat)) := l.filter (fun p => !zeroVal (elTy 10 none) p.2)
    (fibreIn.ctx 0).vq = [] ∧ (1 : BitVec 7).toNat < 16 ∧ (1 : BitVec 7) ≠ 5 ∧ ps = [] ++ ps ∧ ps.length < 65536 ∧
    (fibreIn.ctx 0).fprogA = BitVec.ofNat 64 ([] : List Nat).length ∧ (keep ps).length ≤ ((fibreIn.ctx 0).fibre 5).cap ∧
    (let u := fibreIn.modCtx 0 (fun c => c.setFibre 5 { cap := 1, pairs := [] })
     ((u.ctx 0).fibre 5).cap < (keep ps).length) ∧
    (let u := fibreIn.modCtx 0 (fun c => { c with fprogA := 2 })
     (u.ctx 0).fprogA = BitVec.ofNat 64 (ps.take 2).length ∧ ps = ps.take 2 ++ ps.drop 2) := by decide +kernel

/-- Arrays of two coordinates at 0 and two values at 16, a descriptor of a compressed level at 64 with pointers at 128. -/
def arraysIn : State :=
  (fill [(0, 4, 5), (4, 4, 9), (16, 4, 0x3F800000), (20, 4, 0x40000000), (64, 8, (spad 128).toNat), (72, 8, (spad 0).toNat), (80, 8, 0), (88, 8, 0),
    (128, 4, 0), (132, 4, 2)] (tasked (fun c => { ((((c.setS 40 (spad 0)).setS 41 (spad 16)).setS 42 2).setS 43 (spad 64)).setFibre 2
      { cap := 8, pairs := [(7, 1)] } with wmarks := [] })))
theorem test_wit_FibreMemory :
    let s := arraysIn
    (s.ctx 0).vq = [] ∧ (s.ctx 0).gates = [] ∧ s.move.delayIssue = false ∧ s.liveIlocks 0 = [] ∧ s.dbgOf 0 = false ∧ (s.ctx 0).fprogA = 0 ∧
    (spad 0).toNat % 4 = 0 ∧ (spad 16).toNat % 4 = 0 ∧ (((s.ctx 0).getS 42).toNat % 2 ^ 32 ≤ ((s.ctx 0).fibre 2).cap) ∧
    [0, 1].map (fun i => s.winRead 0 (spad 0 + BitVec.ofNat 64 (4 * i)).toNat 4) = [some 5, some 9] ∧
    [0, 1].map (fun i => s.winRead 0 (spad 16 + BitVec.ofNat 64 (4 * i)).toNat 4) = [some 0x3F800000, some 0x40000000] ∧
    (s.winLoc 0 (spad 0).toNat 4 .write).isSome = true ∧ (s.winLoc 0 (spad 16).toNat 4 .write).isSome = true ∧
    [0, 1, 2, 3].map (fun k => s.winRead 0 (spad 64 + BitVec.ofNat 64 (8 * k)).toNat 8) = [some (spad 128).toNat, some (spad 0).toNat, some 0, some 0] ∧
    s.winRead 0 (spad 128).toNat 4 = some 0 ∧ s.winRead 0 (spad 132).toNat 4 = some 2 ∧ [5, 9].Pairwise (· < ·) := by decide +kernel

theorem test_wit_FibreTransfers :
    let s := fibreIn
    let rest := (((List.range 16).filter (fun g => decide (g ≠ (1 : BitVec 7).toNat))).map (fun g => ((s.ctx 0).fibre g).cap)).sum
    (s.ctx 0).vq = [] ∧ s.move.delayIssue = false ∧ (40 : BitVec 7).toNat % (s.ctx 0).rows = 0 ∧ (0 : Nat) % 4 = 0 ∧ 0 + rest ≤ 16384 ∧
    (2 : Nat) % 4 ≠ 0 ∧ 16384 < 16384 + rest := by decide +kernel

/-- The conditions of a row operation. -/
def macOk (i : Instr) (s : State) : Bool :=
  let C := s.ctx 0
  (macRow C (s.vleOf 0) i).any (fun R =>
    let x := sget (s.core 0).tiles Tile.init R.slot
    C.vq.isEmpty && C.gates.isEmpty && !s.move.delayIssue && R.m / 2 ^ 28 % 2 ^ 4 == 0 && R.m / 2 ^ 14 % 2 ^ 2 == 0 && (R.kbase || decide (R.m < 2 ^ 32)) &&
    (s.launchOf 0).any (fun l => l.par.tslot.testBit R.slot) && decide (R.m % 2 ^ 14 < s.acnt 0) &&
    (x.state == 0 || x.state == 1 && fourBit x.fmt == R.four) && (!C.xle || R.integer) && !s.traced 0)
/-- Every count lies in range; and the Billon entries in use stay within the quota. -/
def macFits (i : Instr) (s : State) (p : Bool → Bool → Bool) : Bool :=
  (macRow (s.ctx 0) (s.vleOf 0) i).any (fun R =>
    let x := sget (s.core 0).tiles Tile.init R.slot
    p ((List.range 256).all (fun j => decide (-32768 ≤ countOf (R.new s 0 x j) ∧ countOf (R.new s 0 x j) ≤ 32767)))
      (decide (R.usedAfter s 0 x ≤ s.quota 0)))
theorem test_wit_RowOperationResult :
    macOk (.mrow 32 42 0 2 (typed 0xC)) rowIn = true ∧ macFits (.mrow 32 42 0 2 (typed 0xC)) rowIn (fun a b => a && b) = true ∧
    macOk (.mrowg 1 42 0 2 (typed 0xE)) rowIn = true := by decide +kernel
/-- The largest count in column 0, and a launch without quota. -/
def rowFull : State := rowIn.modCore 0 (fun k => { k with billon := [(768, 32767)] })
def rowPoor (mode tmo : Nat) : State :=
  { (rowIn.modCtx 0 (fun c => { c with mode := mode, tmo := tmo })) with
      sched := { rowIn.sched with launches := [(5, { launchT with par := { parT with quota := 0 } })] } }
theorem test_wit_RowOperationStops :
    macOk (.mrow 32 42 0 2 (typed 0xC)) rowFull = true ∧ macFits (.mrow 32 42 0 2 (typed 0xC)) rowFull (fun a _ => !a) = true ∧
    [(1, 5), (0, 0), (0, 5)].all (fun x => macOk (.mrow 32 42 0 2 (typed 0xC)) (rowPoor x.1 x.2) &&
      macFits (.mrow 32 42 0 2 (typed 0xC)) (rowPoor x.1 x.2) (fun a b => a && !b)) = true := by decide +kernel
/-- A row operation that waits for room: at its time limit, and one cycle before it. -/
def rowWait (dt : Nat) : State :=
  let s := after (exec (.mrow 32 42 0 2 (typed 0xC)) (rowPoor 0 5))
  { s with time := s.time + dt }
theorem test_wit_RowOperationStops_wait :
    (match ((rowWait 0).ctx 0).vq with
     | [e] => e.word == encBase (.mrow 32 42 0 2 (typed 0xC)) && e.pre == (typed 0xC).map pfxWord && e.begun && e.pendRec.isNone &&
         e.part.any (fun y => y.flags.isEmpty && y.recs.isEmpty) && e.stallSince == some 0
     | _ => false) = true ∧ (Instr.mrow 32 42 0 2 (typed 0xC)).wellFormed = true ∧ ((rowWait 0).core 0).failed = [0] ∧
    ((rowWait 0).hart 0).run = .running ∧ (rowWait 0).canMove 0 = true ∧ (rowWait 0).traced 0 = false ∧ ((rowWait 5).ctx 0).tmo ≤ (rowWait 5).time - 0 ∧
    (rowWait 4).time - 0 < ((rowWait 4).ctx 0).tmo ∧
    (let s := (rowWait 0).modCore 0 (fun k => { k with fell := [5] })
     (s.core 0).failed = [0] ∧ (s.taskOf 0).any (fun k => (s.core 0).fell.contains k.launch) = true) := by decide +kernel

/-- A tile of two rows of two S8 cells at 0 of the scratchpad, row stride 8. -/
def tileIn : State := fill [(0, 2, 0x0201), (8, 2, 0x0403)] (tasked (fun c => (c.setS 40 (spad 0)).setS 41 (BitVec.ofNat 64 (8 * 2 ^ 40 + 2 * 2 ^ 16 + 2))))
theorem test_wit_TileResult :
    let s := tileIn
    let g := ((s.ctx 0).getS 41).toNat
    (s.ctx 0).vq = [] ∧ (s.ctx 0).gates = [] ∧ s.move.delayIssue = false ∧ s.traced 0 = false ∧ s.dbgOf 0 = false ∧ s.liveIlocks 0 = [] ∧
    (s.ctx 0).xle = false ∧ (s.launchOf 0).any (fun l => l.par.tslot.testBit 3) = true ∧ (sget (s.core 0).tiles Tile.init 3).state ≠ 2 ∧
    g / 2 ^ 37 % 8 = 0 ∧ g / 2 ^ 25 % 2 = 0 ∧ g / 2 ^ 11 % 32 = 0 ∧ g / 2 ^ 16 % 2 ^ 9 = 2 ∧ g % 2 ^ 11 = 2 ∧ elTy 12 (typed 0xC) = .s8 ∧
    g / 2 ^ 40 = 8 ∧ [0, 1, 8, 9].map (fun o => s.winRead 0 (spad o).toNat 1) = [some 1, some 2, some 3, some 4] := by decide +kernel

theorem test_wit_AccumulatorReads :
    let s := rowIn.setS64 0 43 (BitVec.ofNat 64 (255 * 2 ^ 16 + 3))
    let u := rowIn.setS64 0 43 (BitVec.ofNat 64 (4 * 2 ^ 16))
    (s.ctx 0).vq = [] ∧ (s.ctx 0).gates = [] ∧ s.move.delayIssue = false ∧ s.traced 0 = false ∧ ((s.ctx 0).getS 43).toNat < 2 ^ 24 ∧
    ((s.ctx 0).getS 43).toNat / 2 ^ 14 % 4 = 0 ∧ ((s.ctx 0).getS 43).toNat % 2 ^ 14 < s.acnt 0 ∧
    ((u.ctx 0).getS 43).toNat < 2 ^ 30 ∧ ((u.ctx 0).getS 43).toNat % 2 ^ 14 + 4 ≤ u.acnt 0 ∧ 3 < u.acnt 0 ∧
    (u.launchOf 0).any (fun l => l.par.tslot.testBit 3) = true := by decide +kernel

/-- Each of the instructions that may be left in the queue is legal and has its event. -/
theorem test_wit_QueueTurns :
    (tasked id).cur = 0 ∧ ((tasked id).ctx 0).vq = [] ∧ ((tasked id).ctx 0).gates = [] ∧ (tasked id).canMove 0 = true ∧
    [Instr.cpy 3 40, .sstr 2 51 52 0, .istr 0 56, .sclose 1, .vldw 32 40 1 none, .mtload 2 40 41 1 none, .mrow 32 42 1 2 none,
      .mrowg 3 42 1 0 (typed 6), .fence 4 1 2].all Instr.wellFormed = true ∧
    queueTurn (tasked id) (.cpy 3 40) (.engineDispatch 0) ∧ queueTurn (tasked id) (.sclose 1) (.scloseComplete 0) ∧
    queueTurn (tasked id) (.vldw 32 40 1 none) (.vldwElementReady 0) ∧ queueTurn (tasked id) (.mtload 2 40 41 1 none) (.tileLoadComplete 0) ∧
    queueTurn (tasked id) (.mrow 32 42 1 2 none) (.rowOperationCommit 0) ∧ queueTurn (tasked id) (.fence 4 1 2) (.fenceComplete 0) := by
  refine ⟨by decide +kernel, by decide +kernel, by decide +kernel, by decide +kernel, by decide +kernel, ⟨rfl, ?_⟩, rfl, ⟨rfl, ?_⟩, rfl, rfl, rfl, rfl⟩ <;> decide +kernel

/-- Eight F32 elements fill one group. -/
theorem test_wit_QueueTurns_beat :
    elemOk (.vadd 40 36 38 none) (shaped 1 8) = true ∧ (Instr.vadd 40 36 38 none).wellFormed = true ∧ ((shaped 1 8).ctx 0).vq = [] ∧
    ((shaped 1 8).ctx 0).xle = false ∧ (shaped 1 8).canMove 0 = true ∧ ((shaped 1 8).ctx 0).rows = 1 ∧
    0 < (shaped 1 8).vleOf 0 32 ∧ (shaped 1 8).vleOf 0 32 * 32 ≤ 256 ∧ ((shaped 1 8).tower 0).stop = false ∧
    (∀ k, ((shaped 1 8).ctx k).vq = [] ∨ (shaped 1 8).canMove k = false) ∧ ((shaped 1 8).ctx 0).ilocks.length ≤ 0 := by
  refine ⟨?_, ?_, ?_, ?_, ?_, ?_, ?_, ?_, ?_, fun k => .inl ?_, ?_⟩
  case refine_10 => exact forall_harts (shaped 1 8) (fun _ x => x.ctx.vq = []) (fun _ => rfl) (by decide +kernel) k
  all_goals decide +kernel

/-- A copy of eight bytes in one run, from 0 to 64, its descriptor at 512 of the scratchpad; or of none. -/
def copyWords (n : Nat) : List Word :=
  [spad 0, spad 64, BitVec.ofNat 64 8, if n = 0 then 18 else 2, BitVec.ofNat 64 n] ++ List.replicate 14 0 ++ [if n = 0 then spad 1024 else 0, 0]
def copyIn (n : Nat) : State :=
  fill ((copyWords n).zipIdx.map (fun x => (512 + 8 * x.2, 8, x.1.toNat))) (tasked (fun c => (c.setS 40 (spad 512)).setS 42 3))
theorem test_wit_EngineCommands :
    [0, 1].all (fun n =>
      let s := copyIn n
      (s.ctx 0).vq.isEmpty && (s.ctx 0).gates.isEmpty && !s.move.delayIssue && !s.traced 0 && !s.dbgOf 0 && (s.hart 0).task == some 1 && (s.launchOf 0).isSome &&
      (s.liveIlocks 0).isEmpty && (s.launchOf 0).any (fun l => l.par.chan.testBit 7 && l.par.strm.testBit 3) && (copyWords n).length == 21 &&
      (List.range 21).all (fun k => s.winRead 0 (spad 512 + BitVec.ofNat 64 (8 * k)).toNat 8 == some (wnth (copyWords n) k)) &&
      (!(wnth (copyWords n) 3).testBit 4 || decide (wnth (copyWords n) 19 % 8 = 0) && (s.winLoc 0 (wnth (copyWords n) 19) 8 .write).isSome) &&
      decide (copyTrips (copyWords n) = [n]) && decide (copyBytes (copyWords n) = 8 * n) && ((s.core 0).chan 7).owner.isNone &&
      ((s.core 0).stream 3).owner.isNone && ((s.core 0).stream 3).hold == .run) = true ∧
    (spad 512).toNat % 8 = 0 ∧ (spad 0).toNat % 4 = 0 ∧ (streaming.core 0).stream 0 = { Stream.init with owner := some (0, 1), launch := 5, q := 3, count := 1 } := by
  decide +kernel

/-- A gather of one row of eight bytes: index 2 at 64, rows at 128 with pitch 16, output at 256. -/
def istrWords (w1 : Nat) : List Word := [spad 64, BitVec.ofNat 64 w1, spad 128, 8, 16, 3, spad 256, 8]
def istrIn (w1 : Nat) : State :=
  fill ((istrWords w1).zipIdx.map (fun x => (512 + 8 * x.2, 8, x.1.toNat)) ++ [(64, 4, 2), (160, 8, 77)]) (tasked (fun c => c.setS 56 (spad 512)))
theorem test_wit_EngineCommands_istr :
    let s := istrIn 1
    (∀ x, sfind (s.ctx 0).istrs 0 = some x → x.state ≠ 1) ∧ ((s.ctx 0).getS 56).toNat % 64 = 0 ∧ (istrWords 1).length = 8 ∧
    (List.range 8).all (fun k => s.winRead 0 (spad 512 + BitVec.ofNat 64 (8 * k)).toNat 8 == some (wnth (istrWords 1) k)) = true ∧
    wnth (istrWords 1) 0 % 4 = 0 ∧ (8 ≤ wnth (istrWords 1) 3 ∧ wnth (istrWords 1) 3 ≤ 65536 ∧ wnth (istrWords 1) 3 % 8 = 0) ∧
    wnth (istrWords 1) 5 ≠ 0 ∧ (s.winLoc 0 (wnth (istrWords 1) 0) 1 .read).isSome = true := by
  refine ⟨fun x hx => ?_, ?_, ?_, ?_, ?_, ?_, ?_, ?_⟩
  case refine_1 => exact absurd hx (by rw [show sfind ((istrIn 1).ctx 0).istrs 0 = none by decide +kernel]; simp)
  all_goals decide +kernel

/-- The same with its index array in DRAM, at 0x200. -/
theorem test_wit_EngineCommands_istr_memory :
    let w : List Word := [0x200, 1, spad 128, 8, 16, 3, spad 256, 8]
    let s := fill (w.zipIdx.map (fun x => (512 + 8 * x.2, 8, x.1.toNat))) (tasked (fun c => c.setS 56 (spad 512)))
    (List.range 8).all (fun k => s.winRead 0 (spad 512 + BitVec.ofNat 64 (8 * k)).toNat 8 == some (wnth w k)) = true ∧
    okAnd ((resolve 0 0 (wnth w 0) 1 .read .vector).run s) (fun ps _ => !ps.isEmpty) = true := by decide +kernel

/-- Channel 1 of the task runs the copy of eight bytes. -/
def copyRun : State :=
  (copyIn 1).modCore 0 (fun k => { k with chans := [(1, { Channel.init with owner := some (0, 1), launch := 5, words := copyWords 1, total := 8, state := 1 })] })
theorem test_wit_EngineProgress :
    let s := copyRun
    let x := (s.core 0).chan 1
    (s.hart 0).task = some 1 ∧ s.dbgOf 0 = false ∧ s.traced 0 = false ∧ x.owner = some (0, 1) ∧ x.state = 1 ∧ x.hold = .run ∧ x.ahead = 0 ∧
    x.pubDue = false ∧ wnth x.words 3 < 8 ∧ 1 ≤ wnth x.words 3 ∧ wnth x.words 2 ≠ 0 ∧ x.total = copyBytes x.words ∧ x.wp < x.total ∧
    (List.range 8).map (fun n => s.winLoc 0 (copyAt x.words 0 9 n) 1 .read) = (List.range 8).map (fun n => some (locSpad 0 n)) ∧
    (List.range 8).map (fun n => s.winLoc 0 (copyAt x.words 1 14 n) 1 .write) = (List.range 8).map (fun n => some (locSpad 0 (64 + n))) ∧
    (∀ n, n < 8 → sfind x.orig (locSpad 0 n) = none) ∧ sfind s.sched.tasks 1 = some taskT ∧
    (∀ n, n < 8 → ∀ m, m < 8 → locSpad 0 n ≠ locSpad 0 (64 + m)) := by decide +kernel

theorem test_wit_EngineProgress_stream :
    let s := { streaming with mem := wrNum streaming.mem (locSpad 0 0) 4 6 }
    let s := s.modCore 0 (fun k => { k with streams := [(0, { (k.stream 0) with base := (spad 0).toNat })] })
    let x := (s.core 0).stream 0
    x.owner = some (0, 1) ∧ x.hold = .run ∧ (s.ctx 0).exiting = 0 ∧ ((s.ctx 0).queue x.q).ents.length < 64 ∧ x.pos < x.count ∧
    s.winRead 0 ((x.base + 4 * x.pos) % 2 ^ 64) 4 = some 6 ∧ ({ x with pos := 1 } : Stream).count ≤ 1 := by decide +kernel

/-- Engine 0 runs the gather: to memory, to queue 2, and with an index out of bounds. -/
def istrRun (w1 : Nat) : State :=
  let s := istrIn w1
  { s with engines := [(0, [{ hart := 0, task := 1, k := 0, launch := 5, id := 0, addr := 0, words := istrWords w1, base := (spad 128).toNat, ver := 0, begun := false,
                              row := 0, unit := 0, idx := none, buf := [], hold := .run }])] }
theorem test_wit_EngineProgress_rows :
    [1, 2 * 2 ^ 40 + 2 ^ 35 + 1].all (fun w1 =>
      let s := istrRun w1
      (s.engine 0).all (fun x => x.hart == 0 && x.task == 1 && x.hold == .run && !(wnth x.words 1).testBit 47 && decide (x.row < wnth x.words 1 % 2 ^ 32) &&
        x.unit == 0 && x.idx.isNone && x.buf.isEmpty && s.winRead 0 ((wnth x.words 0 + x.row * 4) % 2 ^ 64) 4 == some 2 && decide (2 < wnth x.words 5) &&
        decide (8 ≤ wnth x.words 3 ∧ wnth x.words 3 ≤ 65536 ∧ wnth x.words 3 % 8 = 0) &&
        s.winRead 0 ((x.base + 2 * wnth x.words 4) % 2 ^ 64) 8 == some 77 && (s.winLoc 0 ((wnth x.words 6) % 2 ^ 64) 8 .write).isSome) &&
      !(s.engine 0).isEmpty) = true ∧
    (let s := { istrRun 1 with mem := wrNum (istrRun 1).mem (locSpad 0 64) 4 3 }
     s.winRead 0 ((wnth (istrWords 1) 0) % 2 ^ 64) 4 = some 3 ∧ wnth (istrWords 1) 5 ≤ 3) ∧
    (let s := after (exec (.istrRowDeliver 0) (istrRun 1))
     (s.engine 0).all (fun x => x.begun && x.row == wnth x.words 1 % 2 ^ 32 && x.hold == .run) = true ∧ (s.engine 0) ≠ []) := by decide +kernel

/-- No watchpoint is set, so that none is hit. -/
theorem test_wit_ElectrumWrites_watch (va k : Nat) : (tasked id).watched 0 va k .write = false := by
  unfold State.watched
  simp [show (tasked id).dbgOf 0 = false by decide +kernel]
theorem test_wit_ElectrumWrites :
    let s (x n : Nat) := tasked (fun c => (c.setS 40 (BitVec.ofNat 64 (elecBase + x))).setS 41 (BitVec.ofNat 64 n))
    ((s 0 0).ctx 0).vq = [] ∧ ((s 0 0).ctx 0).gates = [] ∧ (s 0 0).move.delayIssue = false ∧ (s 0 0).traced 0 = false ∧ (s 0 0).liveIlocks 0 = [] ∧
    (elecBase + 2044) % 4 = 0 ∧ (4 : Nat) % 4 = 0 ∧ 4 ≤ (s 2044 4).maxvl 0 ∧ ((s 2044 4).launchOf 0) = some launchT ∧
    elecBase + 2044 + 4 ≤ elecBase + elecSize ∧ parT.eslot ≠ 0 ∧ launchT.hasElec 0 2044 4 = true ∧ (0 : Nat) ≤ (s 0 0).maxvl 0 := by
  decide +kernel

/-- A launch with a clearing write due; and, with none due, hart 0 has 132 bytes to send from byte 0. -/
def slotsIn (clear : Nat) : State :=
  let s := after (exec (.est 32 40 41) (tasked (fun c => (c.setS 40 (BitVec.ofNat 64 elecBase)).setS 41 132)))
  { s with sched := { s.sched with launches := [(5, { launchT with towers := [(0, { slots := [0], last := none, clear := clear, clearEnd := none })] })] } }
theorem test_wit_ElectrumWrites_slot :
    let s := slotsIn 0
    (sfind s.sched.launches 5).bind (fun l => sfind l.towers 0) = some { slots := [0], last := none, clear := 0, clearEnd := none } ∧
    s.sched.launches.length = 1 ∧ (s.tower 0).stop = false ∧ (1 : Nat) ≠ 0 ∧ (slotsIn 1).sched.launches.length = 1 ∧
    s.traced 0 = false ∧ ((s.ctx 0).vq).length = 1 ∧ 0 ∈ s.members 3 0 ∧ (s.taskOf 0).any (fun x => x.launch == 5) = true ∧
    (s.hart 0).run = .running ∧ ((s.ctx 0).vq).all (fun e => decide (e.word.toNat % 2 ^ 7 = 0x6F ∧ e.word.toNat / 2 ^ 28 < 3 ∧ e.begun = true ∧
      e.estart < e.opB.toNat / 4 ∧ (e.opA.toNat - elecBase) % 4 = 0 ∧ e.opB.toNat = 132)) = true := by decide +kernel
/-- Hart 0 is the lowest, so that the turn is its own. -/
theorem test_wit_ElectrumWrites_turn (h : State.sends (slotsIn 0) 5 0 0) : inTurn none (State.sends (slotsIn 0) 5 0) 0 :=
  ⟨h, fun _ _ => Nat.zero_le _⟩
theorem test_wit_ElectrumWrites_apply :
    let s := elecIn 0 0
    (8 : Nat) < 9 ∧ (s.tower 0).awake 0 = true ∧ (s.tower 0).applied.length = 9 ∧ nth (s.tower 0).applied 8 = (s.tower 0).base + 0 ∧
    ((s.tower 0).log[0]?).any (fun w => w.data.length % 4 == 0 && w.data.length != 0) = true := by decide +kernel

/-- Layer 7 of tower 0 in a given state at a given time, LPOL set for it. -/
def layered (l : Layer) (idle : Option Nat) (now : Nat) : State :=
  { State.reset with
    time := now
    power := { State.reset.power with lpol := 2 ^ 7 }
    towers := [(0, { Tower.init with layers := Tower.init.layers.set 7 l, idleSince := Tower.init.idleSince.set 7 idle })] }
/-- A saved task of layer 7 waits to be restored. -/
def sleepy : State :=
  let v : Saved := { ctx := Ctx.init, code := 0x10, cls := 1, ready := true, onRec := none, yielded := true, since := 0, aged := 0,
                     spilled := true, stamp := 0 }
  { layered .sleep none 0 with sched := { State.reset.sched with launches := [(5, launchT)], tasks := [(1, { taskT with hart := 28, saved := some v })] } }
theorem test_wit_LayerPower :
    let s := layered .active (some 0) 0x100000
    (s.tower 0).layers.length = 8 ∧ (s.tower 0).idleSince.length = 8 ∧ (s.tower 0).applied.length = 9 ∧ (7 : Nat) < 8 ∧
    (s.tower 0).idleSince.getD 7 none = some 0 ∧ s.power.slpdly ≤ s.time - 0 ∧ (s.tower 0).layers.getD 7 .sleep = .active ∧
    s.layerIdle 0 7 = true ∧ (sleepy.tower 0).layers.getD 7 .active = .sleep ∧ sleepy.layerNeeded 0 7 = true ∧
    (∀ t ∈ [60000, 59999], ((layered (.powering 60000) none t).tower 0).layers.getD 7 .active = .powering 60000) ∧
    ((layered (.listening 5) none 4101).tower 0).layers.getD 7 .active = .listening 5 ∧ 5 + 4096 ≤ (4101 : Nat) ∧ (4100 : Nat) < 5 + 4096 ∧
    nth ((layered (.listening 5) none 4101).tower 0).applied 8 = ((layered (.listening 5) none 4101).tower 0).base +
      ((layered (.listening 5) none 4101).tower 0).log.length := by decide +kernel

/-- A message from core 1 about line 0x4000, which its bank holds with the directory entry d. -/
def bankIn (d : DirEnt) (m : CMsg) : State :=
  { State.reset with llc := [(sbOf 0x100000, (false, 1))], dir := [(0x4000, d)], toBank := [⟨1, 0x4000, m, false, none⟩] }
/-- Sharers of the line other than core 1. -/
def othersOf (d : DirEnt) : List Nat := ((bankIn d .getX).sharers 0x4000 d).filter (fun c => decide (c ≠ 1))
theorem test_wit_DirectoryTransitions :
    (∀ m ∈ [CMsg.getS, .getX, .upg], sfind (bankIn ⟨0, 0, 0, 0⟩ m).txns 0x4000 = none ∧ (bankIn ⟨0, 0, 0, 0⟩ m).llcValid 0x4000 = true ∧
      (bankIn ⟨0, 0, 0, 0⟩ m).toBank = [⟨1, 0x4000, m, false, none⟩]) ∧
    (bankIn ⟨1, 0, 0, 6⟩ .getS).dirOf 0x4000 = ⟨1, 0, 0, 6⟩ ∧ othersOf ⟨1, 0, 0, 2⟩ = [] ∧ othersOf ⟨1, 0, 0, 6⟩ = [2] ∧
    ((bankIn ⟨2, 2, 0, 0⟩ .getX).dirOf 0x4000).own ≠ 1 ∧ ((bankIn ⟨2, 1, 0, 0⟩ .upg).dirOf 0x4000).own = 1 := by decide +kernel
/-- An open transaction of the line for core 3 that waits for the cores of ws. -/
def txnOf (f : CMsg) (req : CMsg) (ws : List Nat) : Txn := { core := 3, req := req, fwd := f, waiting := ws, own := none, ptr := false }
def txnIn (f : CMsg) (m : CMsg) (req : CMsg) (ws : List Nat) : State :=
  { bankIn ⟨2, 1, 0, 0⟩ m with txns := [(0x4000, txnOf f req ws)] }
theorem test_wit_DirectoryTransitions_ack :
    sfind (txnIn .inv .ack .getX [1, 2]).txns 0x4000 = some (txnOf .inv .getX [1, 2]) ∧ [1, 2].erase 1 ≠ [] ∧ [1].erase 1 = [] ∧
    (txnIn .down .ackData .getS [1]).toBank = [⟨1, 0x4000, .ackData, false, none⟩] ∧ (sfind (txnIn .down .ackData .getS [1]).txns 0x4000).isSome = true ∧
    (sfind (txnIn .fwdX .putM .getX [1]).txns 0x4000).any (fun x => x.waiting == [1] && x.req != .getS && x.fwd != .inv) = true ∧
    (sfind (txnIn .inv .putE .getX [1]).txns 0x4000).any (fun x => x.fwd == .inv) = true ∧
    (txnIn .fwdX .putM .getX [1]).toBank = [⟨1, 0x4000, .putM, false, none⟩] ∧ sfind (bankIn ⟨2, 1, 0, 0⟩ .putE).txns 0x4000 = none := by decide +kernel

/-- A message to core 0 about line 0x4000, which its cache holds in state x, its bank, and the directory as d. -/
def coreIn (d : DirEnt) (x : DcState) (m : CMsg) : State :=
  { ((tasked id).setDc 0 0x4000 x) with toCore := [⟨0, 0x4000, m, false, none⟩], llc := [(sbOf 0x100000, (false, 1))], dir := [(0x4000, d)] }
/-- Hart 0 has a load of the line in flight. -/
def loadWait : State :=
  (coreIn ⟨1, 0, 0, 1⟩ .I .replyS).modHart 0 (fun x => { x with load := some (physS x.ctx 40, false,
    { loc := 0x100008, size := 8, va := 8, data := 0, slice := false, pointer := false, root := 0x10000, ins := 0, task := some 1, own := (1, 0), rel := none }) })
theorem test_wit_CacheTransitions :
    (∀ m ∈ [CMsg.inv, .down, .fwdX, .replyE, .replyS, .replyM], (coreIn ⟨2, 0, 0, 0⟩ .M m).toCore = [⟨0, 0x4000, m, false, none⟩]) ∧
    (coreIn ⟨2, 0, 0, 0⟩ .M .down).dcOf 0 0x4000 = .M ∧
    (coreIn ⟨2, 0, 0, 0⟩ .I .replyE).dcSpace 0 0x4000 ∧ loadWait.dcSpace 0 0x4000 ∧ loadWait.dbgOf 0 = false ∧
    (loadWait.llcValid 0x4000 = true ∧ (loadWait.dirOf 0x4000).st = 1 ∧ 0 ∈ loadWait.sharers 0x4000 (loadWait.dirOf 0x4000)) ∧
    ((coreIn ⟨2, 0, 0, 0⟩ .I .replyE).llcValid 0x4000 = true ∧ ((coreIn ⟨2, 0, 0, 0⟩ .I .replyE).dirOf 0x4000) = ⟨2, 0, 0, 0⟩) ∧
    ((coreIn ⟨0, 0, 0, 0⟩ .I .replyE).dirOf 0x4000).st ≠ 2 ∧ coreOf 0 = 0 ∧ 0x100008 / 64 = 0x4000 ∧ (0x100008 : Nat) < 2 ^ 56 ∧
    (sfind (bankIn ⟨1, 0, 0, 6⟩ .getS).llc (sbOf 0x100000)).isSome = true ∧
    ((bankIn ⟨1, 0, 0, 6⟩ .getS).sbLines (sbOf 0x100000)).all (fun l => !{ bankIn ⟨1, 0, 0, 6⟩ .getS with toBank := [] }.lineBusy l) = true := by
  unfold State.dcSpace
  decide +kernel
theorem test_wit_CacheTransitions_quiet : (coreIn ⟨2, 0, 0, 0⟩ .I .replyE).quietCore 0 none ∧ loadWait.quietCore 0 (some 0) := by
  constructor
  · intro k _ _
    exact forall_harts (coreIn ⟨2, 0, 0, 0⟩ .I .replyE) (fun _ x => x.pend = [] ∧ x.load = none) (fun _ => ⟨rfl, rfl⟩) (by decide +kernel) k
  · intro k _ hk
    exact (forall_harts loadWait (fun n x => n = 0 ∨ x.pend = [] ∧ x.load = none) (fun _ => .inr ⟨rfl, rfl⟩) (by decide +kernel) k).resolve_left
      (fun e => hk (by rw [e]))

/-- A scalar store and a scalar atomic on their way to a slice. -/
def sliceWait : State :=
  (storing id).modHart 0 (fun x => { x with wait := some (.amo 40 1 2 0 0 0 { loc := 0x100080, size := 8, va := 0x80, data := 0, slice := true, pointer := false, root := 0x10000, ins := 0, task := some 1, own := (1, 0), rel := none }) })
theorem test_wit_SliceAndBusAccesses_slice :
    (loading true id).dbgOf 0 = false ∧ ((loading true id).hart 0).load.any (fun x => x.2.2.slice) = true ∧ (loading true id).accBusy 0x100008 8 = false ∧
    (((storing id).hart 0).pend.find? (·.slice)).isSome = true ∧ (storing id).accBusy 0x100040 8 = false ∧
    ((sliceWait.hart 0).wait).isSome = true ∧ sliceWait.accBusy 0x100080 8 = false ∧ (sliceWait.hart 0).run = .running := by decide +kernel
/-- An access to memory, and to a register. -/
def bus (k : AccKind) (addr : Nat) : BusAccess := { kind := k, addr := addr, size := 8, data := 5, op := 1, cmp := 0, pointer := false, direct := false }
theorem test_wit_SliceAndBusAccesses_bus :
    State.reset.plain (bus .atomic (hostBase - 8)) ∧ (bus .read (hostBase - 8)).addr % 2 ^ 40 + 8 ≤ hostBase ∧ State.reset.port.held = [] ∧
    State.reset.boot.fail = 0 ∧ rdNum State.reset.mem (State.reset.port.rqBase + 16 * 3 + 8) 8 % 2 ^ 2 = 0 ∧
    (rdNum (wrNum [] (16 * 3 + 8) 8 2) (16 * 3 + 8) 8).testBit 1 = true ∧ (bus .read (regEnd - 8)).addr % 8 = 0 ∧
    (bus .read (regEnd - 8)).addr / 2 ^ 40 = State.reset.pkg ∧ regBase ≤ (bus .read regBase).addr % 2 ^ 40 ∧
    (bus .read (regEnd - 8)).addr % 2 ^ 40 + 8 ≤ regEnd := by
  unfold State.plain
  decide +kernel
theorem test_wit_SliceAndBusAccesses_errors :
    ((tasked id).hart 0).run = .running ∧ ((tasked id).hart 0).task.isSome = true ∧ ((tasked id).ctx 0).vq = [] ∧ ((tasked id).hart 0).load = none := by decide +kernel

/-- Queue 0 with a descriptor at 0x200000, served, its ring of sixteen entries at 0x201000, HEAD 0, tail 1; entry 0 of kind k. -/
def queueIn (k w1 : Nat) : State :=
  let m := wrNum (wrNum (wrNum tableT 0x200000 8 0x201000) 0x200008 8 (0x10000 + 2 ^ 4 + 7)) 0x200010 8 0
  let m := wrNum (wrNum m 0x201000 8 k) 0x201008 8 w1
  { State.reset with mem := m, boot := { State.reset.boot with done := true }, sched := { State.reset.sched with wqtBase := 0x200000, wqs := [(0, { (State.reset.wq 0) with tail := 1 })] } }
def entryWords (s : State) : List Word := (List.range 4).map (fun k => BitVec.ofNat 64 (rdNum s.mem (0x201000 + 8 * k) 8))
theorem test_wit_QueueEntries :
    (∀ x ∈ [(3, 8), (1, 0x40), (2, 0x40)], let s := queueIn x.1 x.2
      (s.desc 0 1).testBit 4 = true ∧ 0 = s.desc 0 2 % 2 ^ 32 ∧ 0 ≠ (s.wq 0).tail ∧ (s.wq 0).ahead = 0 ∧ (s.wq 0).items = [] ∧ (entryWords s).length = 4 ∧
      (List.range 4).all (fun k => wnth (entryWords s) k == rdNum s.mem (s.desc 0 0 / 2 ^ 6 % 2 ^ 50 * 2 ^ 6 + 32 * (0 % 2 ^ (s.desc 0 0 % 2 ^ 4 + 4)) + 8 * k) 8) ∧
      wnth (entryWords s) 0 < 2 ^ 5 ∧ wnth (entryWords s) 3 = 0 ∧ wnth (entryWords s) 2 = 0 ∧ wnth (entryWords s) 0 % 2 ^ 4 = x.1) := by decide +kernel
/-- A parameter block of one group, or a graph block of one node, at 0x40. -/
def blockIn (k : Nat) (l : List (Nat × Nat)) : State :=
  let s := queueIn k 0x40
  { s with mem := l.foldl (fun m x => wrNum m (0x100040 + x.1) 8 x.2) s.mem }
theorem test_wit_QueueEntries_blocks :
    okAnd ((readBlock 0x10000 0x40).run ((blockIn 1 [(0, 0x80), (24, 2 ^ 32)]).modWq 0 id)) (fun _ _ => true) = true ∧
    okAnd ((readGraph 0x10000 0x40).run ((blockIn 2 [(0, 1), (0x40, 0)]).modWq 0 id)) (fun x _ => x.2.length == 1) = true ∧
    (let s := blockIn 1 [(0, 0x80), (24, 2 ^ 32)]
     s.desc 0 1 / 2 ^ 12 % 2 ^ 44 * 2 ^ 12 = 0x10000) := by decide +kernel
/-- The queue holds a wait, for a word that has and one that has not reached its threshold. -/
def waitItem (thr : Nat) : State :=
  let s := queueIn 3 8
  { s with sched := { s.sched with wqs := [(0, { (s.wq 0) with items := [{ idx := 0, ser := false, work := .wait 8 thr false }] })] } }
theorem test_wit_QueueEntries_wait :
    ((waitItem 0).desc 0 1).testBit 4 = true ∧ ((waitItem 0).wq 0).items = [{ idx := 0, ser := false, work := .wait 8 0 false }] ∧
    okAnd ((schedRead 0x10000 8).run (waitItem 0)) (fun v _ => decide (0 ≤ v.toNat ∧ v.toNat < 1)) = true ∧
    okAnd ((schedRead 0x10000 8).run (waitItem 1)) (fun v _ => decide (v.toNat < 1)) = true := by decide +kernel
/-- Two waits with SER 0, the first of which is not satisfied. -/
def waitItems (thr : Nat) : State :=
  let s := waitItem 1
  { s with sched := { s.sched with wqs := [(0, { (s.wq 0) with items := [{ idx := 0, ser := false, work := .wait 8 1 false },
                                                                          { idx := 1, ser := false, work := .wait 16 thr false }] })] } }
theorem test_wit_QueueEntries_waits :
    okAnd ((schedRead 0x10000 8).run (waitItems 5)) (fun v s1 => decide (v.toNat < 1) &&
      (let u := s1.modWq 0 (fun w => { w with items := [{ idx := 0, ser := false, work := .wait 8 1 true }, { idx := 1, ser := false, work := .wait 16 5 false }] })
       (u.desc 0 1).testBit 4 && okAnd ((schedRead (u.desc 0 1 / 2 ^ 12 % 2 ^ 44 * 2 ^ 12) 16).run u) (fun _ _ => true))) = true ∧
    (((after (exec (.waitEntryComplete 0) (waitItems 0))).wq 0).items.map (·.work) = [.wait 8 1 true]) := by decide +kernel
/-- A graph of one node without predecessors and without a block is done as it is taken. -/
theorem test_graph_taken :
    ((sfind (after (exec (.ringEntryTake 0) (blockIn 2 [(0, 1), (0x40, 0)]))).sched.graphs 1).map (fun g => g.nodes.map (·.state))) = some [.done] := by
  decide +kernel
/-- A graph whose node 0, with a block and a predicate, has node 1 as its successor, which waits for npred nodes. -/
def node0 (block pred : Nat) : GNode := { block := block, pred := pred, npred := 0, succ := [1], got := 0, state := .waiting }
def node1 (npred : Nat) : GNode := { block := 0x40, pred := 0, npred := npred, succ := [], got := 0, state := .waiting }
def graphOf (block pred npred : Nat) : Graph :=
  { handle := 0, wq := 0, subm := 0, root := 0x10000, tlbm := false, maxp := 7, compl := 0, irq := false, vec := 0,
    nodes := [node0 block pred, node1 npred], abort := none }
def graphIn (block pred npred : Nat) : State :=
  let s := blockIn 2 [(0, 0x80), (24, 2 ^ 32)]
  { s with sched := { s.sched with graphs := [(9, graphOf block pred npred)] } }
theorem test_wit_QueueEntries_nodes :
    sfind (graphIn 0 0 1).sched.graphs 9 = some (graphOf 0 0 1) ∧ ((graphIn 0 0 1).desc 0 1).testBit 4 = true ∧
    (graphOf 0 0 1).nodes[0]? = some (node0 0 0) ∧ 0 ∉ (node0 0 0).succ ∧ (graphOf 0 0 1).nodes[1]? = some (node1 1) ∧ (node1 1).block ≠ 0 ∧
    okAnd ((readBlock 0x10000 0x40).run (graphIn 0x40 0 1)) (fun _ _ => true) = true ∧
    okAnd ((readBlock 0x10000 0x40).run ((graphIn 0 0 1).modGraph 9 (fun g => g.nodeDone 0))) (fun _ _ => true) = true ∧
    okAnd ((schedRead 0x10000 0x20).run (graphIn 0x40 0x20 1)) (fun v _ => decide (v = 0)) = true := by decide +kernel
theorem test_wit_QueueEntries_predicate (s : State) : s.predicate s (graphOf 0 0 1) (node0 0 0) true := ⟨rfl, rfl⟩
/-- With two predecessors node 1 does not become ready with node 0; with one it does, and no other node. -/
theorem test_wit_QueueEntries_ready :
    (∀ k, ¬ (graphOf 0 0 2).madeReady (node0 0 0) k) ∧ ∀ j, (graphOf 0 0 1).madeReady (node0 0 0) j ↔ j = 1 := by
  constructor
  · rintro (_ | _ | k) ⟨z, e, -, h1, h2⟩
    · cases e; exact absurd h1 (by decide)
    · cases e; exact absurd h2 (by decide)
    · cases e
  · intro j
    constructor
    · rintro ⟨z, e, -, h1, h2⟩
      rcases j with _ | _ | k
      · cases e; exact absurd h1 (by decide)
      · rfl
      · cases e
    · rintro rfl
      exact ⟨node1 1, rfl, rfl, by decide, by decide⟩

/-- A launch of one group of level hart that nothing has started, and a frame pool of two frames. -/
def startIn : State :=
  let l : Launch := { launchT with par := { parT with eslot := 0, esz := 0, acnt := 0, quota := 0 }, next := 0, started := 0, rows := [], towers := [] }
  { State.reset with coreMask := 1, boot := { State.reset.boot with done := true }, sched := { State.reset.sched with launches := [(5, l)], frBase := 0x1000000, nfr := 2, nextTask := 3 } }
theorem test_wit_GroupsAndCompletions_start :
    (sfind startIn.sched.launches 5).any (fun l => startIn.wants 5 l && !startIn.neverFits l && startIn.canPlace 5 l 0 startIn.slotFree &&
      !startIn.outranked 5 l 0 && l.par.eslot == 0 && l.towers.isEmpty && decide (startIn.members l.par.level 0).Nodup) = true ∧
    startIn.waitingGroup 5 0 = [] ∧ startIn.sched.tasks = [] := by decide +kernel
/-- A saved task and a waiting group, 2^20 cycles on. -/
def agedIn : State := { sleepy with time := 2 ^ 20, sched := { sleepy.sched with launches := [(5, { launchT with next := 0 })] } }
theorem test_wit_GroupsAndCompletions_ageing :
    (sfind agedIn.sched.tasks 1).any (fun x => x.saved.any (fun v => decide ((v.aged + 1) * 2 ^ 20 ≤ agedIn.time - v.since))) = true ∧
    (sfind agedIn.sched.launches 5).any (fun l => decide (l.next < l.par.groups ∧ (l.aged + 1) * 2 ^ 20 ≤ agedIn.time - l.since)) = true := by
  decide +kernel
/-- A launch whose only task has ended: with no completion word, and with one at 0x80; one that is aborted; a graph that is done. -/
def endIn (compl : Nat) (ab : Option (Nat × Nat)) : State :=
  let l : Launch := { launchT with par := { parT with compl := compl }, next := 1, started := 1, ended := 1, abort := ab }
  { State.reset with mem := tableT, sched := { State.reset.sched with launches := [(5, l)], tasks := [] } }
theorem test_wit_GroupsAndCompletions_end :
    okAnd ((schedLoc 0x10000 0x80 .write).run ((endIn 0x80 none).dropLaunch 5)) (fun _ _ => true) = true ∧
    (sfind (endIn 0x80 none).sched.launches 5).any (fun l => l.root == 0x10000 && l.abort.isNone && l.next == l.par.groups && l.started == l.ended &&
      !l.par.irq) = true ∧
    (sfind (endIn 0 (some (3, 0))).sched.launches 5).any (fun l => l.par.compl == 0 && l.abort == some (3, 0) && !l.par.irq) = true := by decide +kernel
/-- The launch of node 0 of a graph has ended; its successor waits for another node too. -/
def nodeEnd : State :=
  let s := endIn 0 none
  { s with sched := { s.sched with launches := s.sched.launches.map (fun e => (e.1, { e.2 with src := .node 9 0 })),
                                   graphs := [(9, graphOf 0x40 0 2)] } }
theorem test_wit_GroupsAndCompletions_node :
    (sfind nodeEnd.sched.launches 5).any (fun l => l.src == .node 9 0 && l.next == l.par.groups && l.started == l.ended) = true ∧
    sfind nodeEnd.sched.graphs 9 = some (graphOf 0x40 0 2) ∧ (graphOf 0x40 0 2).nodes[0]? = some (node0 0x40 0) ∧
    0 ∉ (node0 0x40 0).succ ∧ (∀ g n, launchT.src ≠ .node g n) := by
  exact ⟨by decide +kernel, by decide +kernel, by decide +kernel, by decide +kernel, fun g n h => by cases h⟩
def doneGraph : State :=
  let n : GNode := { block := 0, pred := 0, npred := 0, succ := [], got := 0, state := .done }
  { State.reset with sched := { State.reset.sched with graphs := [(9, ⟨0, 0, 0, 0x10000, false, 7, 0, false, 0, [n], none⟩)] } }
theorem test_wit_GroupsAndCompletions_graph :
    sfind doneGraph.sched.launches 9 = none ∧ (sfind doneGraph.sched.graphs 9).any (fun g => g.abort.isNone && !g.irq && g.compl == 0 &&
      g.nodes.all (fun x => x.state == .done)) = true := by decide +kernel
/-- A window of a completion vector that ends at 100. -/
def windowIn (t : Nat) (arrived : Bool) : State :=
  { State.reset with time := t, irq := { State.reset.irq with windows := [((false, 2), 100, arrived)] }, sched := { State.reset.sched with ciwin := 50 } }
theorem test_wit_GroupsAndCompletions_window :
    (windowIn 99 true).irq.windows = [((false, 2), 100, true)] ∧ (windowIn 99 true).time < 100 ∧ 100 ≤ (windowIn 100 false).time ∧
    (windowIn 100 true).sched.ciwin ≠ 0 ∧ (rdNum (windowIn 100 true).mem (16 * 2 + 8) 8).testBit 32 = false ∧
    (rdNum (wrNum [] (16 * 2 + 8) 8 (2 ^ 32)) (16 * 2 + 8) 8).testBit 32 = true := by decide +kernel

/-- A saved task of hart 0 of higher priority, spilled and ready. -/
def preempted (frozen : Bool) : State :=
  let s := yielding
  let s := { s with sched := { s.sched with launches := [(5, launchT), (6, { launchT with prio := 4 })],
                                            tasks := s.sched.tasks.map (fun e => if e.1 = 2 then (2, { e.2 with launch := 6 }) else e) } }
  if frozen then s.modHart 0 (fun x => { x with run := .frozen 0x27 }) else s
theorem test_wit_ContextSwitches_preemption :
    ((preempted false).hart 0).task = some 1 ∧ (sfind (preempted false).sched.tasks 1).isSome = true ∧ (preempted false).traced 0 = false ∧
    (preempted false).savedPreempts 0 = true ∧ ((preempted false).hart 0).run = .running ∧ ((preempted false).core 0).bank = .empty ∧
    ((preempted false).hart 0).wait = none ∧ ((preempted false).hart 0).load = none ∧
    (((preempted false).modCore 0 (fun k => { k with bank := .outgoing 3 })).core 0).bank = .outgoing 3 ∧
    (tasked id).groupPreempts 0 = false ∧ (tasked id).savedPreempts 0 = false := by decide +kernel
/-- The bank is empty, or stages a task of hart 1. -/
theorem test_wit_ContextSwitches_bank :
    (preempted false).bankFree 0 ∧ ({ (preempted false).modCore 0 (fun k => { k with bank := .staging 3 }) with
      sched := { (preempted false).sched with tasks := [(3, { taskT with hart := 1 })] } } : State).bankFree 0 :=
  ⟨.inl (by decide +kernel), .inr ⟨3, { taskT with hart := 1 }, by decide +kernel, by decide +kernel, by decide⟩⟩
/-- The task waits at CWAIT for channel 1, which a record holds. -/
def heldIn (frozen : Bool) : State :=
  let s := copyRun.modCore 0 (fun k => { k with chans := k.chans.map (fun e => (e.1, { e.2 with hold := .fault 7 })) })
  let s := s.modHart 0 (fun x => { x with wait := some (.cwait 40 1 8), ctx := { x.ctx with cpys := [(1, ⟨1, 0⟩)] } })
  if frozen then s.modHart 0 (fun x => { x with run := .frozen 0x27 }) else s
theorem test_wit_ContextSwitches_hold :
    (heldIn false).heldRec 0 = some 7 ∧ (heldIn true).heldRec 0 = some 7 ∧ ((heldIn true).hart 0).run = .frozen 0x27 ∧
    ((heldIn false).hart 0).run = .running ∧ ((heldIn false).hart 0).wait = some (.cwait 40 1 8) ∧ ((heldIn false).hart 0).load = none ∧
    ((heldIn false).core 0).bank = .empty ∧ ((heldIn false).hart 0).task = some 1 ∧
    (sfind (heldIn false).sched.tasks 1).isSome = true ∧ (heldIn false).traced 0 = false := by decide +kernel
/-- The saved task 1 is on its way out of core 0, or on its way in. -/
def bankOf (b : Bank) : State :=
  let v : Saved := { ctx := Ctx.init, code := 0x10, cls := 1, ready := true, onRec := none, yielded := true, since := 0, aged := 0,
                     spilled := true, stamp := 0 }
  { State.reset with
    cores := [(0, { Core.init with bank := b })]
    sched := { State.reset.sched with launches := [(5, launchT)], tasks := [(1, { taskT with saved := some v })], frBase := 0x1000000, nfr := 2 } }
theorem test_wit_ContextSwitches_spill :
    ((bankOf (.outgoing 1)).core 0).bank = .outgoing 1 ∧ ((sfind (bankOf (.outgoing 1)).sched.tasks 1).bind (·.saved)).isSome = true ∧
    (∀ h, ((bankOf (.outgoing 1)).hart h).task ≠ some 1) ∧ (bankOf (.outgoing 1)).dbg.trOn = false ∧ keysUp Ctx.init.regs = true ∧
    (∀ e ∈ Ctx.init.regs, e.1 < 512) := by
  refine ⟨?_, ?_, fun h => ?_, ?_, ?_, ?_⟩
  case refine_3 => exact forall_harts (bankOf (.outgoing 1)) (fun _ x => x.task ≠ some 1) (fun _ => by decide) (by decide +kernel) h
  all_goals decide +kernel

/-- A boot with two cores, whose checks of step 1 pass or not. -/
def bootIn (pass : Bool) : BootInput :=
  { rsa := [pass], slh := [], image := [1], recSigs := [], fwVer := 3, cfgVer := 1, coreMask := 3, laneMasks := [], coord := (0, 0, 0), dims := (1, 1, 1), up := 0 }
theorem test_wit_ContextSwitches_quiet :
    (bankOf (.staging 1)).keepsNone 0 1 ∧ (bankOf (.staging 1)).evictQuiet 0 ∧ (bankOf (.outgoing 1)).evictQuiet 0 := by
  refine ⟨⟨fun e h => ?_, fun e h => ?_, fun e h => ?_⟩, fun h _ => .inl ?_, fun h _ => .inl ?_⟩
  · exact absurd h (by rw [show ((bankOf (.staging 1)).core (coreOf 0)).chans = [] by decide +kernel]; simp)
  · exact absurd h (by rw [show ((bankOf (.staging 1)).core (coreOf 0)).streams = [] by decide +kernel]; simp)
  · exact absurd h (by rw [show (bankOf (.staging 1)).engines = [] by decide +kernel]; simp)
  · exact forall_harts (bankOf (.staging 1)) (fun _ x => x.evict = false) (fun _ => rfl) (by decide +kernel) h
  · exact forall_harts (bankOf (.outgoing 1)) (fun _ x => x.evict = false) (fun _ => rfl) (by decide +kernel) h

theorem test_wit_RegisterSpace :
    State.reset.boot.fail = 0 ∧ (after (exec (.packageReset (bootIn false)) State.reset)).boot.fail ≠ 0 ∧
    State.reset.sched.launches = [] ∧ State.reset.fb.head = State.reset.fb.tail ∧ State.reset.boot.nonce.length = 4 ∧
    State.reset.dbg.watch.length = 4 ∧ State.reset.port.launched = false ∧ State.reset.dbg.trOn = false ∧ State.reset.boot.rptGo = false ∧
    (0x20008, 7) ∈ regBack 0xFF ∧ (0x62008 + 16 * 63, 5) ∈ regBack 5 := by decide +kernel
theorem test_wit_RegisterSpace_event (v : Word) : writesRegister (.fbctl v) 0x20008 v ∧ writesRegister (.registerWrite 0x10018 v) 0x10018 v :=
  ⟨.inr (.inr (.inr (.inr (.inl ⟨rfl, rfl⟩)))), .inl rfl⟩
/-- A record that saved task 1 waits for. -/
def recordIn : State :=
  let v : Saved := { ctx := Ctx.init, code := 0x20, cls := 2, ready := false, onRec := some 7, yielded := false, since := 0, aged := 0,
                     spilled := true, stamp := 0 }
  { State.reset with
    fb := { State.reset.fb with out := [{ num := 7, seq := some 0, body := { cause := 0, master := .hart 0, acc := 0, level := 0, va := 0, lh := 5, core := 0, hart := 0, pc := 0 } }] }
    sched := { State.reset.sched with tasks := [(1, { taskT with saved := some v })] } }
/-- The saved task 1 staged on core 0, its frame as its save wrote it. -/
def stagedIn : State := { bankOf (.staging 1) with mem := frameCells 0x1000000 Ctx.init ((bankOf (.staging 1)).maxvl 0) 0x10 1 0 }
theorem test_wit_ContextSwitches_staged :
    (stagedIn.core 0).bank = .staging 1 ∧ ((sfind stagedIn.sched.tasks 1).bind (·.saved)).isSome = true ∧ coreOf 0 = 0 ∧
    (∀ h, (stagedIn.hart h).task = none) ∧ stagedIn.dbg.trOn = false ∧
    ((1 : Nat) = 3 ∨ Ctx.init.dueStop = none) ∧ stagedIn.frameIntact (stagedIn.sched.frBase + 768 * 2 ^ 10 * 0) Ctx.init (stagedIn.maxvl 0) 0x10 1 0 = true :=
  ⟨by decide, by decide, rfl, fun h => forall_harts stagedIn (fun _ x => x.task = none) (fun _ => rfl) (fun e he => absurd he List.not_mem_nil) h,
    rfl, .inr rfl, by
      have e : stagedIn.sched.frBase + 768 * 2 ^ 10 * 0 = 0x1000000 := by decide +kernel
      have v : stagedIn.maxvl 0 = (bankOf (.staging 1)).maxvl 0 := by decide +kernel
      rw [e, v]
      exact frameIntact_cells _ _ _ _ _ _ _ (Ctx.framed_init _ _ _ _) (by simp only [stagedIn])⟩

/-- Tail n of queue 0, whose ring holds 16 entries and whose HEAD is 0. -/
def tailOf (n : Nat) : Nat := n * 2 ^ 32
theorem test_wit_RegisterSpace_doorbell :
    (tailOf 16 / 2 ^ 32 + 2 ^ 32 - State.reset.desc 0 2 % 2 ^ 32) % 2 ^ 32 ≤ 2 ^ (State.reset.desc 0 0 % 2 ^ 4 + 4) ∧
    2 ^ (State.reset.desc 0 0 % 2 ^ 4 + 4) < (tailOf 17 / 2 ^ 32 + 2 ^ 32 - State.reset.desc 0 2 % 2 ^ 32) % 2 ^ 32 ∧
    sfind (tasked id).sched.launches 5 = some launchT ∧ launchT.handle = 0x55 := by decide +kernel
theorem test_wit_RegisterSpace_fback :
    (recordIn.fb.out.map (fun o => (o.seq, o.num)) = [(some 0, 7)]) ∧
    [1, 2 ^ 31].all (fun v => decide (1 ≤ (v % 2 ^ 32 + 2 ^ 32 - 0) % 2 ^ 32 ∧ (v % 2 ^ 32 + 2 ^ 32 - 0) % 2 ^ 32 ≤ 2 ^ 31)) = true ∧
    ((sfind recordIn.sched.tasks 1).bind (·.saved)).any (fun y => y.onRec == some 7) = true ∧ recordIn.harts = [] ∧ recordIn.boot.fail = 0 ∧ Ctx.init.dueStop = none := by decide +kernel
theorem test_wit_RegisterSpace_fbtail :
    State.reset.fb.held = [] ∧ (State.reset.fb.head + 2 ^ 32 - (2 ^ 32 - 64) % 2 ^ 32) % 2 ^ 32 ≤ 2 ^ (State.reset.fb.sz + 6) ∧
    2 ^ (State.reset.fb.sz + 6) < (State.reset.fb.head + 2 ^ 32 - (2 ^ 32 - 65) % 2 ^ 32) % 2 ^ 32 := by decide +kernel
/-- A report under way, to an address. -/
def reportIn (a : Nat) : State := { State.reset with boot := { State.reset.boot with rptGo := true, rptAddr := a } }
theorem test_wit_RegisterSpace_report :
    State.reset.boot.rptGo = false ∧ (1 : Word).toNat % 2 = 1 ∧ (0 : Word).toNat % 2 = 0 ∧ (reportIn hostBase).boot.rptGo = true ∧
    (reportIn hostBase).boot.rptNonce.length = 4 ∧ hostBase / 2 ^ 40 = (reportIn hostBase).pkg ∧ hostBase + 16760 ≤ regBase ∧
    (regBase - 16760) % 2 ^ 40 + 16760 ≤ regBase ∧ hostBase ≤ (regBase - 16760) % 2 ^ 40 ∧
    ¬ (regBase - 16752) % 2 ^ 40 + 16760 ≤ regBase := by decide +kernel

/-- The debugger's word that names hart 0 and the launch with log handle 5. -/
def handleV (op : Nat) : Word := BitVec.ofNat 64 (5 * 2 ^ 32 + op)
/-- The task of hart 0 is frozen. -/
def frozenIn (code : Nat) : State := (tasked id).modHart 0 (fun x => { x with run := .frozen code })
theorem test_wit_DebugCommands :
    [0, 1, 2, 3, 4, 5, 18].all (fun n => (tasked id).dbgTarget (handleV n) == some 0 && (frozenIn 0x2C).dbgTarget (handleV n) == some 0 &&
      decide ((handleV n).toNat % 2 ^ 4 = n % 16)) = true ∧
    ((tasked id).hart 0).run = .running ∧ ((tasked id).ctx 0).vq = [] ∧ ((frozenIn 0x2C).hart 0).run = .frozen 0x2C ∧
    ((frozenIn 0x2C).hart 0).heldEvent = none ∧ (handleV 2).toNat.testBit 4 = false ∧ (handleV 18).toNat.testBit 4 = true ∧
    ((frozenIn 0x2C).ctx 0).dueStop = none ∧ (frozenIn 0x2C).boot.fail = 0 ∧ ((tasked id).hart 0).load = none ∧ (tasked id).traced 0 = false ∧
    sfind (frozenIn 0x27).sched.tasks 1 = some taskT ∧ taskT.hart = 0 ∧ taskT.launch = 5 ∧ launchT.abort = none ∧
    ((frozenIn 0x27).core 0).bank = .empty ∧ ((frozenIn 0x27).hart 0).task = some 1 ∧ keysUp ((frozenIn 0x27).ctx 0).regs = true ∧
    (((frozenIn 0x27).ctx 0).regs.all (fun e => decide (e.1 < 512))) = true := by decide +kernel
/-- Task 1 of launch 5 was evicted from hart 0. -/
def evictedIn : State :=
  let v : Saved := { ctx := Ctx.init, code := 0x27, cls := 3, ready := false, onRec := none, yielded := false, since := 0, aged := 0,
                     spilled := true, stamp := 0 }
  { State.reset with sched := { State.reset.sched with launches := [(5, launchT)], tasks := [(1, { taskT with saved := some v })] } }
theorem test_wit_DebugCommands_restore :
    evictedIn.boot.fail = 0 ∧ evictedIn.dbgTarget (handleV 2) = none ∧ evictedIn.physical ((handleV 2).toNat / 2 ^ 16 % 2 ^ 8) = some 0 ∧
    (handleV 2).toNat / 2 ^ 32 = 5 ∧ 4 * 0 + (handleV 2).toNat / 2 ^ 8 % 2 ^ 2 = 0 ∧ keysUp evictedIn.sched.tasks = true ∧
    ((sfind evictedIn.sched.tasks 1).bind (·.saved)).any (fun y => y.cls == 3) = true ∧ evictedIn.harts = [] ∧
    (evictedIn.sched.tasks.map (·.1)) = [1] := by decide +kernel
/-- Completion vector 2 is pending. -/
def pendingIn (ev : Bool) : State := { State.reset with irq := { State.reset.irq with pending := [(ev, 2)] } }
theorem test_wit_DebugCommands_unmask :
    [false, true].all (fun ev => (pendingIn ev).irq.pending.contains (ev, 2)) = true ∧
    (rdNum (pendingIn false).mem ((pendingIn false).irq.cmpBase + 16 * 2 + 8) 8).testBit 32 = false ∧
    (rdNum (wrNum [] (16 * 2 + 8) 8 (2 ^ 32)) ((pendingIn true).irq.evtBase + 16 * 2 + 8) 8).testBit 32 = true := by decide +kernel

theorem test_wit_SystemEvents_boot :
    (∀ k, k < 3 → (bootIn true).rsa.getD k true = true ∧ (bootIn true).slh.getD k true = true) ∧ State.reset.boot.accepted = [] ∧
    (bootIn false).rsa.getD 0 true = false ∧
    (let newer := recordBody 2 3 (fun _ => 0xFF)
     newer ≠ [] ∧ newer ≠ bootRecord (bootIn true) ∧ (bootIn true).cfgVer.toNat ≤ ofLe (newer.take 8)) := by decide +kernel
/-- A core with nothing on it that is to be tested, is under test, or has a lane group or itself to retire. -/
def wornIn (k : Core → Core) : State :=
  { State.reset with cores := [(0, k Core.init)], time := 2 ^ 32, coreMask := 3 }
theorem test_wit_SystemEvents_core :
    (((wornIn id).core 0).bank = .empty ∧ (wornIn id).sched.tasks = [] ∧ (wornIn id).harts = [] ∧ (wornIn id).sched.launches = []) ∧
    (((wornIn (fun k => { k with test := true })).core 0).test = true ∧ ((wornIn (fun k => { k with test := true })).core 0).testing = none) ∧
    ((wornIn (fun k => { k with testing := some (2 ^ 32) })).core 0).testing = some (2 ^ 32) ∧
    (wornIn (fun k => { k with retire := [7] })).time = 2 ^ 32 ∧ ((wornIn (fun k => { k with retire := [7] })).core 0).retire.contains 7 = true ∧
    ((wornIn (fun k => { k with retire := [7] })).core 0).lanes.testBit 7 = true ∧
    ((wornIn (fun k => { k with retire := [7], lanes := 2 ^ 7 })).core 0).lanes = 2 ^ 7 ∧ ((wornIn id).core 0).lanes ≠ 2 ^ 7 ∧
    ((wornIn (fun k => { k with retireCore := true })).core 0).retireCore = true ∧
    (wornIn (fun k => { k with retireCore := true })).working 0 = true ∧ ((tasked id).hart 0).task ≠ none ∧
    (wornIn id).ras.raswin ≤ (wornIn id).time - (wornIn id).ras.winStart ∧ State.reset.time - State.reset.ras.winStart < State.reset.ras.raswin := by
  decide +kernel

/-- The next move is hart 0's, with words at its program counter. -/
def turnIn (w : Nat) (f : Hart → Hart) : State :=
  let s := (tasked id).modHart 0 f
  { s with mem := wrNum s.mem 0x100000 8 w, agenda := [{ Move.init with who := .hart 0 }] }
/-- The same with a queued reduction that writes s40. -/
def reducing (w : Nat) : State :=
  let s := queued (.mpopc 40 1 none) (tasked (fun c => { c with vl := 4 }))
  { s.modCtx 0 (fun c => { c with pc := 0 }) with mem := wrNum s.mem 0x100000 4 w, agenda := [{ Move.init with who := .hart 0 }] }
def turned (s : State) : State := s.turnOf { Move.init with who := .hart 0 } [] 0
/-- A test of what the turn of hart 0 fetches. -/
def fetched (s : State) (f : Option (BitVec 32) → BitVec 32 → State → Bool) : Bool :=
  (turned s).canMove 0 && !((turned s).hart 0).halt && Wait.refetches ((turned s).hart 0).wait &&
  match (fetchInstr 0).run (turned s) with
  | .ok (pre, base) t => f pre base t
  | .error _ _ => false
theorem test_wit_StepRunsDecoded_turn :
    (turned State.reset).canMove 0 = false ∧ ((turned (turnIn 0 (fun x => { x with halt := true }))).hart 0).halt = true ∧
    (turned (turnIn 0 (fun x => { x with halt := true }))).canMove 0 = true ∧
    fetched (turnIn 0x054A5401 id) (fun p w t => decodePair p w == some (.add 40 41 42) && !t.scalarHazard 0 w) = true ∧
    fetched (turnIn 0 id) (fun p w _ => decodePair p w == none) = true ∧ fetched (turnIn 0x04C91444000129FC id) (fun p w _ => (decodePair p w).isSome) = true ∧
    fetched (reducing 0x054A5401) (fun p w t => decodePair p w == some (.add 40 41 42) && t.scalarHazard 0 w) = true ∧
    (match (fetchInstr 0).run (turned (turnIn 0 (fun x => { x with ctx := { x.ctx with pc := 2 ^ 55 } }))) with
     | .ok _ _ => false
     | .error _ _ => true) = true := by decide +kernel
/-- The end of a pass that a queued instruction, which writes the nest's address register or another, has held open. -/
def passing (reg : Nat) : State :=
  (reducing 0x054A5401).modCtx 0 (fun c => { c with
    pc := 8, nest := some { suspended := false, start := 0, body := [0x054A5401], trips := [2], ctrs := [0], regs := [reg], steps := [[1]] } })
theorem test_wit_StepRunsDecoded_pass :
    ((turned (passing 40)).ctx 0).passOpen = true ∧ (turned (passing 40)).passHazard 0 = true ∧ (turned (passing 50)).passHazard 0 = false ∧
    (turned (passing 40)).canMove 0 = true ∧ ((turned (turnIn 0 id)).ctx 0).passOpen = false ∧
    (match (fetchInstr 0).run ((turned (passing 50)).modCtx 0 Ctx.closePass) with
     | .ok _ _ => true
     | .error _ _ => false) = true := by decide +kernel
/-- A nest of one word whose body is captured. -/
def loopIn : State := tasked (fun c => { c with nest := some { suspended := false, start := 0, body := [0x054A5401], trips := [2], ctrs := [0], regs := [], steps := [] } })
theorem test_wit_StepRunsDecoded_words :
    okAnd ((instrWord 0 0).run (turnIn 0x054A5401 id)) (fun w _ => decide (w.toNat % 128 ≠ 0x7C)) = true ∧
    okAnd ((instrWord 0 0).run (turnIn 0x04C91444000129FC id)) (fun w u => decide (w.toNat % 128 = 0x7C) &&
      okAnd ((instrWord 0 4).run u) (fun _ _ => true)) = true ∧
    okAnd ((resolve 0 0 0 4 .fetch .scalar).run (turnIn 0 id)) (fun _ _ => true) = true ∧ ((turnIn 0 id).ctx 0).nest = none ∧
    (loopIn.ctx 0).nest.any (fun n => n.body[0]? == some 0x054A5401 && !n.suspended && decide (n.body.length ≤ 1024 ∧ n.start < 2 ^ 56)) = true := by
  decide +kernel
theorem test_wit_StepRunsDecoded_rest :
    State.reset.powered = true ∧ State.reset.agenda = [] ∧ ({ State.reset with powered := false } : State).agenda = [] := by decide
theorem test_wit_RoundTrip : [Instr.add 40 41 42, .amo 40 41 1 0 2 4, .vadd 40 36 38 none].all (fun i => hasWord i && i.wellFormed) = true := by
  decide +kernel
theorem test_wit_OneSpelling : decodeBytes [0x01, 0x54, 0x4A, 0x05, 0] = .instr (.add 40 41 42) 4 := by decide +kernel
theorem test_wit_MemoryInvariant : (tasked id).powered = true ∧ Memory.wf (tasked id).mem = true := by decide +kernel


/-! ### Further clauses -/

/-- No transaction and no message of the caches: an access of another hart completes in no passing step. -/
theorem calm_of {s : State} (h : s.txns = []) (g : s.toCore = []) : s.calm := ⟨h, fun _ hp => absurd (g ▸ hp) List.not_mem_nil⟩
theorem tasked_calm (f : Ctx → Ctx) : (tasked f).calm ∧ (taskedR f).calm := ⟨calm_of rfl rfl, calm_of rfl rfl⟩
/-- An untraced hart is quiet; so is a traced one of a calm machine. -/
theorem test_wit_quiet (f : Ctx → Ctx) : (tasked f).quietFor 0 := .inr (tasked_calm f).1
/-- The states that meet the other hypotheses of the statements which ask for a calm machine. -/
theorem test_wit_calm :
    [tasked id, busy id, reading id, storing id, sliceWait, loading true id, nestIn 2, cached 0 64, arraysIn, fibreIn, memIn, copyRun, endIn 0 none, doneGraph,
      nodeEnd, queueIn 3 8, queueIn 1 0x40, queueIn 2 0x40, waitItem 1, waitItems 0, graphIn 0 0 1, frozenIn 0x27, reportIn hostBase, pendingIn false,
      pendingIn true, loopIn].all (fun s => s.txns.isEmpty && s.toCore.isEmpty && s.dbg.trOn == false) = true := by decide +kernel

/-- An access is not performed, or the address is the first beyond the space. -/
theorem test_wit_CacheMaintenanceResult_waits :
    (storing id).fenceAll 0 2 = false ∧ (tasked id).fenceAll 0 2 = true ∧ (BitVec.ofNat 64 (2 ^ 56)).toNat % 64 = 0 ∧
    2 ^ 56 ≤ (BitVec.ofNat 64 (2 ^ 56)).toNat := by decide +kernel

/-- A release that is left as an order still waits, where it acquires too, for a load in flight. -/
theorem test_wit_FenceResult_left :
    (delayed (loading true id)).move.delayMiss = true ∧ (delayed (loading true id)).outstanding 0 0 0 ((delayed (loading true id)).ctx 0).vq ∧
    (delayed (tasked id)).move.delayMiss = true ∧ (∀ e ∈ ((delayed (tasked id)).ctx 0).vq, e.word.toNat % 2 ^ 7 ≠ 0x6F) :=
  ⟨rfl, .inl ⟨.inl rfl, .inl (by decide +kernel)⟩, rfl, by decide +kernel⟩

/-- All four members have arrived: hart 3's is saved. And a hart whose generation is complete. -/
def savedMember : State :=
  let b : BarWait := { scope := 1, gen := 1, tie := none, counted := true, complete := false }
  let s := (grouped (fun _ => some b)).modHart 3 (fun _ => Hart.init)
  let v : Saved := { ctx := { Ctx.init with bar := some b }, code := 0x10, cls := 1, ready := true, onRec := none, yielded := false, since := 0,
                     aged := 0, spilled := true, stamp := 0 }
  { s with sched := { s.sched with tasks := s.sched.tasks.map (fun e => if e.1 = 4 then (4, { e.2 with saved := some v }) else e) } }
theorem test_wit_BarrierResult_members :
    let b : BarWait := { scope := 1, gen := 1, tie := none, counted := true, complete := false }
    let w := savedMember.modHart 0 (fun x => { x with wait := some (.bar 1 0) })
    barOf w (.barrierDeparture 0) = some (0, 1, 0) ∧ w.allArrived 0 1 1 = true ∧ some 2 ∈ w.barTasks 0 1 ∧ some 4 ∈ w.barTasks 0 1 ∧
    (w.hart 1).task = some 2 ∧ (w.ctx 1).bar = some b ∧ (w.hart 3).task ≠ some 4 ∧
    ((sfind w.sched.tasks 4).bind (·.saved)).any (fun v => v.ctx.bar == some b) = true ∧
    ((w.modCtx 0 (fun c => { c with bar := some { b with complete := true } })).ctx 0).bar.any (·.complete) = true := by decide +kernel

/-- EXIT with a stream open, running or held by a record; with a copy or an access outstanding, before and after it has closed them. -/
def held (n : Hold) : State := streaming.modCore 0 (fun k => { k with streams := k.streams.map (fun e => (e.1, { e.2 with hold := n })) })
theorem test_wit_TaskEnd_open :
    (streaming.ctx 0).vq = [] ∧ (streaming.ctx 0).exiting = 0 ∧ streaming.traced 0 = false ∧ keysUp (streaming.core 0).streams = true ∧
    (streaming.core 0).streams.any (fun e => streaming.owns 0 e.2.owner && e.2.hold == .run) = true ∧
    ((held (.fault 7)).core 0).streams.any (fun e => (held (.fault 7)).owns 0 e.2.owner && e.2.hold == .fault 7) = true ∧
    (streaming.hart 0).load = none ∧ (streaming.hart 0).pend = [] ∧ ((storing id).hart 0).pend ≠ [] ∧ (copying.ctx 0).vq = [] ∧
    (((storing (fun c => { c with exiting := 1 })).ctx 0).exiting ≠ 0) ∧
    ((held .frozen).core 0).streams.any (fun e => (held .frozen).owns 0 e.2.owner && e.2.hold != .frozen) = false := by decide +kernel
theorem test_wit_TaskEnd_command : copying.commandOut 0 :=
  ⟨1, by decide +kernel, .inl ⟨1, { Channel.init with owner := some (0, 1), launch := 5, state := 1, total := 8 }, by decide +kernel, rfl, rfl⟩⟩
theorem test_wit_TaskEnd_idle : ¬ streaming.commandOut 0 ∧ ¬ streaming.elecBehind 0 := by
  constructor
  · rintro ⟨T, -, ⟨n, x, h, -⟩ | ⟨n, l, x, h, -⟩⟩
    · exact absurd h (by rw [show (streaming.core (coreOf 0)).chans = [] by decide +kernel]; simp)
    · exact absurd h (by rw [show streaming.engines = [] by decide +kernel]; simp)
  · rintro ⟨k, -, -, h⟩
    rw [show (streaming.ctx 0).elecEnd = 0 by decide +kernel, show (streaming.ctx 0).elecSeen = 0 by decide +kernel] at h
    omega

/-- Each of the seven with a destination one pair too small. -/
theorem test_wit_FibreResults_full :
    [Instr.fsort 4 1 0 none, .fisect 4 1 16 1 none, .funion 4 1 2 0 none, .fmerge 4 1 2 0 none, .fcompact 4 1 none, .fslice 4 16 41 none,
      .fmap 4 1 41 0 none].all (fun i =>
        let s := fibreIn
        let C := s.ctx 0
        (fibreRow C i).any (fun R =>
          let l := R.srcs.filterMap (sourcePairs C)
          C.vq.isEmpty && C.fprogA == 0 && C.fprogB == 0 && !R.srcs.contains R.d.toNat && R.srcs.map (sourcePairs C) == l.map some &&
          (R.out l).isEmpty || (let u := s.modCtx 0 (fun c => c.setFibre 4 { cap := (R.out l).length - 1, pairs := [] })
            decide (((u.ctx 0).fibre 4).cap < (R.out l).length) && R.srcs.map (sourcePairs (u.ctx 0)) == l.map some))) = true := by decide +kernel
/-- A fibre whose third coordinate falls back to its second, beside one that reaches it, and a queue that does. -/
def brokenIn : State :=
  fibreIn.modCtx 0 (fun c => (c.setFibre 1 { cap := 8, pairs := [(1, 0), (4, 0), (4, 0), (9, 0)] }).setQueue 0
    { head := 0, ents := [3, 4, 2, terminator] })
theorem test_wit_FibreResults_broken :
    let x : List (Nat × Nat) := [(1, 0), (4, 0), (4, 0), (9, 0)]
    let y : List (Nat × Nat) := [(4, 0x3F800000)]
    brokenAt [1, 2] [x, y] 0 4 [(1, 0), (4, 0)] [(9, 0)] (4, 0) True ∧
    [1, 2].map (sourcePairs (brokenIn.ctx 0)) = [some x, some y] ∧ sourcePairs (brokenIn.ctx 0) 16 = some [(3, 0), (4, 0), (2, 0)] ∧
    brokenAt [16] [[(3, 0), (4, 0), (2, 0)]] 0 4 [(3, 0), (4, 0)] [] (2, 0) False ∧ (brokenIn.ctx 0).fprogA = 0 ∧ (brokenIn.ctx 0).nest = none := by
  refine ⟨⟨rfl, rfl, by decide, by decide, fun k ps e hk => ?_⟩, by decide +kernel, by decide +kernel, ⟨rfl, rfl, by decide, by decide, fun k ps e hk => ?_⟩,
    by decide +kernel, by decide +kernel⟩
  · rcases k with _ | _ | k
    · exact absurd rfl hk
    · cases e; exact ⟨by decide, fun _ => .inr ⟨_, List.mem_singleton.2 rfl, by decide⟩⟩
    · cases e
  · rcases k with _ | k
    · exact absurd rfl hk
    · cases e

/-- The arrays of the statement with a fibre of one pair; a segment that falls back, and one that ends before it begins. -/
def arraysTo (cap c1 hi lo : Nat) : State :=
  let s := arraysIn.modCtx 0 (fun c => c.setFibre 2 { cap := cap, pairs := [] })
  fill [(4, 4, c1), (128, 4, lo), (132, 4, hi)] s
theorem test_wit_FibreMemory_stops :
    (let s := arraysTo 1 9 2 0
     1 < ((s.ctx 0).getS 42).toNat % 2 ^ 32 ∧ ((s.ctx 0).fibre 2).cap = 1 ∧ s.winRead 0 (spad 0).toNat 4 = some 5 ∧
       s.winRead 0 (spad 16).toNat 4 = some 0x3F800000 ∧ s.winRead 0 (spad 4).toNat 4 = some 9 ∧ s.winRead 0 (spad 132).toNat 4 = some 2 ∧
       [5, 9].Pairwise (· < ·)) ∧
    (let s := arraysTo 8 5 2 0
     [0, 1].map (fun i => s.winRead 0 (spad (4 * i)).toNat 4) = [some 5, some 5] ∧ nth [5, 5] 1 ≤ nth [5, 5] 0 ∧
       s.winRead 0 (spad 20).toNat 4 = some 0x40000000) ∧
    (let s := arraysTo 8 9 1 3
     s.winRead 0 (spad 128).toNat 4 = some 3 ∧ s.winRead 0 (spad 132).toNat 4 = some 1) := by decide +kernel

/-- The copy of eight bytes with PUB to byte 1024, with CRC against the word at byte 1032 (R211: of 77, 0, …), or both. -/
def pubWords (w3 : Nat) : List Word := [spad 0, spad 64, 8, BitVec.ofNat 64 (w3 + 2), 1] ++ List.replicate 14 0 ++ [spad 1024, spad 1032]
def pubRun (w3 crc : Nat) : State :=
  (fill [(0, 8, 77), (1032, 4, crc)] (copyIn 1)).modCore 0 (fun k => { k with
    chans := [(1, { Channel.init with owner := some (0, 1), launch := 5, words := pubWords w3, total := 8, state := 1, crc := 2 ^ 32 - 1 })] })
theorem test_wit_EngineProgress_words :
    [16, 8, 24].all (fun w3 =>
      let s := pubRun w3 (crc32c [77, 0, 0, 0, 0, 0, 0, 0])
      let x := (s.core 0).chan 1
      let w := x.words
      decide (wnth w 3 < 32 ∧ 1 ≤ wnth w 3 % 8 ∧ wnth w 2 ≠ 0 ∧ x.total = copyBytes w ∧ x.wp < x.total ∧ x.wp % 4096 = 0 ∧ x.ahead = 0 ∧ x.beyond = [] ∧
        x.undo = [] ∧ x.crc < 2 ^ 32 ∧ 2 ^ 32 - 1 - x.crc = crc32c []) &&
      s.winLoc 0 (wnth w 19) 8 .write == some (locSpad 0 1024) && s.winLoc 0 ((wnth w 20 + 4 * (x.wp / 4096)) % 2 ^ 64) 4 .read == some (locSpad 0 1032) &&
      ofLe (rdBytes s.mem (locSpad 0 1032) 4) == crc32c [77, 0, 0, 0, 0, 0, 0, 0] && (s.launchOf 0).any (fun L => L.abort.isNone) &&
      (List.range 8).all (fun n => s.winLoc 0 (copyAt w 0 9 n) 1 .read == some (locSpad 0 n) && s.winLoc 0 (copyAt w 1 14 n) 1 .write == some (locSpad 0 (64 + n)) &&
        rdByte s.mem (locSpad 0 n) == [(77 : Byte), 0, 0, 0, 0, 0, 0, 0].getD n 0)) = true ∧
    ofLe (rdBytes (pubRun 8 5).mem (locSpad 0 1032) 4) ≠ crc32c [77, 0, 0, 0, 0, 0, 0, 0] ∧
    copyClear (fun n => locSpad 0 n) (fun n => locSpad 0 (64 + n)) 0 8 (locSpad 0 1024) 8 ∧
    copyClear (fun n => locSpad 0 n) (fun n => locSpad 0 (64 + n)) 0 8 (locSpad 0 1032) 4 := by
  refine ⟨by decide +kernel, by decide +kernel, fun k _ hk => ?_, fun k _ hk => ?_⟩ <;> (simp only [locSpad]; omega)
/-- R211: CRC32C of the nine digits 123456789. -/
theorem test_crc32c : crc32c [0x31, 0x32, 0x33, 0x34, 0x35, 0x36, 0x37, 0x38, 0x39] = 0xE3069283 := by decide +kernel

/-- The gather of a versioned table whose descriptor is at 128 (base page 0xFF000000000, version 3, no reader yet). -/
def tableIn : State :=
  let s := istrRun (2 ^ 47 + 1)
  { s with mem := wrNum s.mem (locSpad 0 128) 8 (0xFF000000000 + 3 * 2 ^ 44) }
/-- The command once it has read the descriptor, and memory then, with one reader. -/
def tableRow : Istr :=
  { hart := 0, task := 1, k := 0, launch := 5, id := 0, addr := 0, words := istrWords (2 ^ 47 + 1), base := 0xFF * 2 ^ 48, ver := 3,
    begun := true, row := 0, unit := 0, idx := none, buf := [], hold := .run }
def tableMem : List Host.Cell := wrBytes tableIn.mem (locSpad 0 128) (leBytes 8 (2 ^ 48 + 0xFF000000000 + 3 * 2 ^ 44))
theorem test_wit_EngineProgress_table :
    tableIn.engine 0 = [{ tableRow with begun := false, base := (spad 128).toNat, ver := 0 }] ∧
    tableIn.tableRead 0 { tableRow with begun := false, base := (spad 128).toNat, ver := 0 } tableRow tableMem ∧
    ({ tableIn with mem := tableMem } : State).winRead 0 (wnth tableRow.words 0 % 2 ^ 64) 4 = some 2 ∧ tableRow.hold = .run ∧
    (istrRun 1).tableRead 0 { tableRow with words := istrWords 1, begun := false } { tableRow with words := istrWords 1 } (istrRun 1).mem ∧
    (tableIn.winLoc 0 ((wnth tableRow.words 2 + 8 + 8 * tableRow.ver) % 2 ^ 64) 8 .atomic).isSome = true := by
  refine ⟨by decide +kernel, ?_, by decide +kernel, by decide +kernel, ?_, by decide +kernel⟩
  · rw [State.tableRead, if_neg (by decide +kernel)]
    exact ⟨locSpad 0 128, by decide +kernel, by decide +kernel, by decide +kernel⟩
  · rw [State.tableRead, if_pos (by decide +kernel)]
    exact ⟨by decide +kernel, rfl⟩

/-- A PutM of the owner meets the Down of a GetS. -/
theorem test_wit_DirectoryTransitions_down :
    (sfind (txnIn .down .putM .getS [1]).txns 0x4000).any (fun x => x.waiting == [1] && x.req == .getS && x.fwd == .down) = true ∧
    (txnIn .down .putM .getS [1]).toBank = [⟨1, 0x4000, .putM, false, none⟩] := by decide +kernel
/-- Hart 0 has a store of the line in flight. -/
def storeWait (x : DcState) (m : CMsg) : State :=
  { ((storing id).setDc 0 0x4001 x) with toCore := [⟨0, 0x4001, m, false, none⟩], llc := [(sbOf 0x100000, (false, 1))], dir := [(0x4001, ⟨2, 0, 0, 0⟩)] }
def storeAcc : Pend := { loc := 0x100040, va := 0x40, size := 8, data := 1, slice := false, pointer := false, root := 0x10000, ins := 0, task := some 1, own := (1, 0), rel := none }
def storeIn : State := (storeWait .I .replyM).modHart 0 (fun x => { x with pend := [storeAcc] })
theorem test_wit_CacheTransitions_store :
    (storeIn.hart 0).load = none ∧ (storeIn.hart 0).pend = [storeAcc] ∧ storeAcc.slice = false ∧ storeAcc.loc / 64 = 0x4001 ∧
    sfind storeIn.txns 0x4001 = none ∧ storeIn.toBank = [] ∧ storeIn.dcSpace 0 0x4001 ∧ (∀ c, (loadWait.hart 0).run ≠ .frozen c) := by
  refine ⟨by decide +kernel, by decide +kernel, rfl, rfl, by decide +kernel, by decide +kernel, ?_, fun c => ?_⟩
  · unfold State.dcSpace; decide +kernel
  · rw [show (loadWait.hart 0).run = .running by decide +kernel]; exact Run.noConfusion
theorem test_wit_CacheTransitions_storeQuiet : storeIn.quietCore 0 (some 0) := by
  intro k _ hk
  exact (forall_harts storeIn (fun n x => n = 0 ∨ x.pend = [] ∧ x.load = none) (fun _ => .inr ⟨rfl, rfl⟩) (by decide +kernel) k).resolve_left
    (fun e => hk (by rw [e]))

/-- An error reported for the load in flight, and a host's request for a word of the registers. -/
theorem test_wit_SliceAndBusAccesses_flight :
    ((loading true id).hart 0).load.any (fun x => x.2.2.va == 8) = true ∧ ((loading true id).ctx 0).vq = [] ∧
    ((loading true id).hart 0).run = .running ∧ ((loading true id).hart 0).task.isSome = true := by decide +kernel

/-- Ageing: 2^20 cycles after the swap and the submission, neither event has come. -/
theorem test_wit_GroupsAndCompletions_aged :
    (sfind agedIn.sched.tasks 1).any (fun x => x.saved.any (fun v => decide (v.aged ≤ (agedIn.time - v.since) / 2 ^ 20)) &&
      (sfind agedIn.sched.launches x.launch).isSome) = true ∧
    (sfind agedIn.sched.launches 5).any (fun l => decide (l.aged ≤ (agedIn.time - l.since) / 2 ^ 20)) = true := by decide +kernel
/-- A graph of one node that is done, or aborted, with a completion word at 0x80, or an interrupt. -/
def wordGraph (compl : Nat) (irq : Bool) (ab : Option (Nat × Nat)) : State :=
  let n : GNode := { block := 0, pred := 0, npred := 0, succ := [], got := 0, state := .done }
  { State.reset with mem := tableT, sched := { State.reset.sched with graphs := [(9, ⟨0, 0, 0, 0x10000, false, 7, compl, irq, 0, [n], ab⟩)] } }
theorem test_wit_GroupsAndCompletions_words :
    [none, some (3, 0)].all (fun ab =>
      let s := wordGraph 0x80 false ab
      s.txns.isEmpty && s.toCore.isEmpty && (sfind s.sched.launches 9).isNone && (sfind s.sched.graphs 9).any (fun g => g.abort == ab && !g.irq &&
        okAnd ((schedLoc g.root g.compl .write).run { s with sched := { s.sched with graphs := serase s.sched.graphs 9 } }) (fun _ _ => true) &&
        g.nodes.all (fun x => x.state == .done))) = true ∧
    (sfind (wordGraph 0 true none).sched.graphs 9).any (fun g => g.irq && g.compl == 0 && g.abort.isNone) = true ∧
    (sfind (endIn 0x80 (some (3, 0))).sched.launches 5).any (fun l => l.par.compl == 0x80 && l.abort == some (3, 0)) = true ∧
    (endIn 0x80 (some (3, 0))).sched.tasks = [] := by decide +kernel
/-- A launch with IRQ 1 has ended, or been aborted; a window of its vector is open, or none. -/
def irqEnd (ab : Option (Nat × Nat)) (w : List ((Bool × Nat) × Nat × Bool)) : State :=
  let s := endIn 0 ab
  { s with irq := { s.irq with windows := w }, sched := { s.sched with ciwin := 50, launches := s.sched.launches.map (fun e => (e.1, { e.2 with par := { e.2.par with irq := true } })) } }
theorem test_wit_GroupsAndCompletions_irq :
    [none, some (3, 0)].all (fun ab => (sfind (irqEnd ab []).sched.launches 5).any (fun l => l.par.irq && l.par.compl == 0 && l.abort == ab &&
      l.next == l.par.groups && l.started == l.ended)) = true ∧ (irqEnd none []).sched.tasks = [] ∧
    (irqEnd none [((false, 0), 9, false)]).time < 9 ∧ (irqEnd none []).sched.ciwin ≠ 0 := by decide +kernel

/-- A task in the middle of a CLEAN. -/
theorem test_wit_ContextSwitches_cleaning :
    ∃ drop a n, (((preempted false).modHart 0 (fun x => { x with wait := some (.clean true 64 64) })).hart 0).wait = some (.clean drop a n) :=
  ⟨true, 64, 64, by decide +kernel⟩
/-- A context at reset, with the capacities of a fibre pool in use, fits its frame. -/
theorem test_wit_ContextSwitches_fits : Ctx.init.fits ∧ (bankOf (.outgoing 1)).maxvl 0 ≤ 2048 := by
  exact ⟨⟨⟨rfl, by decide⟩, ⟨rfl, by decide⟩, ⟨rfl, by decide⟩, by decide, fun _ => by simp [Ctx.fibre, Ctx.init, sget, Fibre.init], by decide +kernel,
    fun _ => by simp [Ctx.queue, Ctx.init, sget, Queue.init]⟩, by decide +kernel⟩
/-- The task on its way out waits for a record. -/
def heldOut : State :=
  let s := bankOf (.outgoing 1)
  { s with sched := { s.sched with tasks := s.sched.tasks.map (fun e => (e.1, { e.2 with saved := e.2.saved.map (fun v => { v with ready := false }) })) } }
theorem test_wit_ContextSwitches_emptied :
    (∀ e ∈ (heldOut).sched.tasks, coreOf e.2.hart = 0 → e.2.saved.all (fun v => !v.ready) = true) ∧
    ∀ h, coreOf h = 0 → (∀ code, (heldOut.hart h).run ≠ .stopped code) ∧ (heldOut.hart h).evict = false := by
  refine ⟨by decide +kernel, fun h _ => forall_harts heldOut (fun _ x => (∀ code, x.run ≠ .stopped code) ∧ x.evict = false)
    (fun _ => ⟨fun _ => Run.noConfusion, rfl⟩) (fun e he => absurd he List.not_mem_nil) h⟩

/-- A hart stopped in place; one to be evicted whose bank is free, and one in the middle of a CLEAN. -/
def stoppedIn : State := (tasked id).modHart 0 (fun x => { x with run := .stopped 0x10 })
theorem test_wit_DebugCommands_stopped :
    (stoppedIn.hart 0).run = .stopped 0x10 ∧ stoppedIn.dbgTarget (handleV 1) = some 0 ∧ (tasked id).bankFree 0 ∧ ((tasked id).hart 0).wait = none ∧
    (tasked id).dbgTarget (handleV 4) = some 0 ∧ (frozenIn 0x27).bankFree 0 ∧ (frozenIn 0x27).dbgTarget (handleV 5) = some 0 ∧
    (frozenIn 0x27).ctx 0 = Ctx.init ∧ (frozenIn 0x27).maxvl (coreOf 0) ≤ 2048 :=
  ⟨by decide +kernel, by decide +kernel, .inl (by decide +kernel), by decide +kernel, by decide +kernel, .inl (by decide +kernel), by decide +kernel,
    by decide +kernel, by decide +kernel⟩
/-- An evicted task, and a move that asks to restore it. -/
theorem test_wit_DebugCommands_restored :
    ({ Move.init with restore := some 1 } : Move).restore = some 1 ∧ (sfind evictedIn.sched.tasks 1).isSome = true ∧ evictedIn.dbgTarget (handleV 4) = none ∧
    ∀ h, (evictedIn.hart h).task ≠ some 1 :=
  ⟨rfl, by decide +kernel, by decide +kernel, fun h => forall_harts evictedIn (fun _ x => x.task ≠ some 1) (fun _ => by decide)
    (fun e he => absurd he List.not_mem_nil) h⟩

/-- A booted package, with a core to retire, idle or with an access of its own in flight, that owns a line. -/
def retiring (f : State → State) : State :=
  let s := wornIn (fun k => { k with retireCore := true, dc := [(0x4000, .M)] })
  f { s with boot := { s.boot with done := true }, dir := [(0x4000, ⟨2, 0, 0, 0⟩)], llc := [(sbOf 0x100000, (false, 1))] }
theorem test_wit_SystemEvents_retire :
    (retiring id).boot.done = true ∧ (retiring id).harts = [] ∧ (retiring id).toBank = [] ∧ (retiring id).toCore = [] ∧ (retiring id).txns = [] ∧
    ((retiring id).dirOf 0x4000).st = 2 ∧ ((retiring id).dirOf 0x4000).own = 0 ∧ (retiring id).dcOf 0 0x4000 = .M ∧ (retiring id).lineBusy 0x4000 = false ∧
    (retiring id).working 0 = true ∧ ((retiring id).core 0).retireCore = true ∧ (wornIn id).boot.done = false ∧
    (retiring (fun s => { s with toBank := [⟨0, 0x4000, .upg, false, none⟩] })).toBank ≠ [] := by decide +kernel

/-- A hart in the middle of a CLEAN, at a move that restores nothing. -/
theorem test_wit_StepRunsDecoded_clean :
    ((turned (turnIn 0 (fun x => { x with wait := some (.clean true 64 64) }))).hart 0).wait = some (.clean true 64 64) ∧
    (turned (turnIn 0 (fun x => { x with wait := some (.clean true 64 64) }))).canMove 0 = true ∧ Move.init.restore = none := by decide +kernel

/-- A scope above the level of a core, one beyond the package, and a tie of nine. -/
theorem test_wit_BarrierResult_stops :
    let s := (grouped (fun _ => none)).setS64 0 41 9
    barOf s (.bar 2 0) = some (0, 2, 0) ∧ barOf s (.bar 5 0) = some (0, 5, 0) ∧ barOf s (.bar 1 41) = some (0, 1, 9) ∧
    ((s.launchOf 0).map (·.par.level)).getD 0 = 1 := by decide +kernel
/-- The fields at reset fit; and an SRW. -/
theorem test_wit_SystemRegisterAccess_fits : Ctx.init.fieldsFit ∧ (srwOf (.srwFexca 41)).isSome = true :=
  ⟨⟨by decide, by decide, by decide, by decide, by decide, by decide⟩, rfl⟩

/-- XLE with a list at 4096 of the scratchpad, and a NaN at element 0 of v32 in F16 and of fibre 1 in F32. -/
def nanIn : State :=
  rowIn.modCtx 0 (fun c => { (c.setV 32 (vecOf 16 [0x7E00, 0x3C00])).setFibre 1 { cap := 4, pairs := [(0, 0x7FC00000), (1, 0x3F800000)] } with
    xle := true, xbase := 0xFF * 2 ^ 36 + 1 })
theorem test_wit_RowOperationResult_records :
    [Instr.mrow 32 42 0 2 (typed 4), .mrowg 1 42 0 2 (typed 6)].all (fun i =>
      let C := nanIn.ctx 0
      i.wellFormed && macFits i nanIn (fun a b => a && b) && (macRow C (nanIn.vleOf 0) i).any (fun R => R.nans C.xle == [0] &&
        (nanIn.listedAll C 0 C.pc.toNat (R.nans C.xle)).any (fun x => !x.2) && (nanIn.liveIlocks 0).isEmpty && !nanIn.dbgOf 0)) = true := by
  decide +kernel
/-- A row operation that waits with a record to append. -/
theorem test_wit_RowOperationStops_records :
    let s := after (exec (.mrow 32 42 0 2 (typed 4)) { (nanIn.modCtx 0 (fun c => { c with tmo := 5 })) with
      sched := { rowIn.sched with launches := [(5, { launchT with par := { parT with quota := 0 } })] } })
    let s := s.modCore 0 (fun k => { k with cells := [(768, -(2 ^ 23))] })
    (match (s.ctx 0).vq with
     | [e] => e.begun && e.xle && e.pendRec.isNone && e.part.any (fun y => y.recs == [0] &&
         (s.listedAll { s.ctx 0 with xbase := e.xbase, xsz := e.xsz } 0 e.addr (if e.xle then y.recs else [])).isSome)
     | l => l.isEmpty) = true ∧ s.dbgOf 0 = false := by decide +kernel
/-- A tile of F16 whose second row begins with a NaN. -/
def tileNan : State :=
  fill [(0, 4, 0x40003C00), (8, 4, 0x3C007E00)] (tasked (fun c => { ((c.setS 40 (spad 0)).setS 41 (BitVec.ofNat 64 (8 * 2 ^ 40 + 2 * 2 ^ 16 + 2))) with
    xle := true, xbase := 0xFF * 2 ^ 36 + 1 }))
theorem test_wit_TileResult_records :
    (Instr.mtload 0 40 41 3 (typed 4)).wellFormed = true ∧ (arrayVal (elTy 12 (typed 4)) 0x7E00 ((tileNan.ctx 0).scale 0 0)).2.testBit 5 = true ∧
    (tileNan.listedAll (tileNan.ctx 0) 0 (tileNan.ctx 0).pc.toNat [1]).isSome = true ∧
    [0, 2, 8, 10].map (fun o => tileNan.winRead 0 (spad o).toNat 2) = [some 0x3C00, some 0x4000, some 0x7E00, some 0x3C00] ∧
    tileNan.liveIlocks 0 = [] ∧ tileNan.dbgOf 0 = false := by decide +kernel

/-- Numbers written to the translated page of memory. -/
def fillD (l : List (Nat × Nat × Nat)) (s : State) : State := { s with mem := l.foldl (fun m x => wrNum m (0x100000 + x.1) x.2.1 x.2.2) s.mem }
/-- The words w that hart 0 reads from a on, and the state then. -/
def readsB : State → Word → List Word → Option State
  | s, _, [] => some s
  | s, a, w :: l => match (vread 0 0 a.toNat 8 .vector).run s with
    | .ok v u => if v = w.toNat then readsB u (a + 8) l else none
    | .error _ _ => none
theorem readsB_words {l : List Word} {s t : State} {a : Word} (h : readsB s a l = some t) : readsWords 0 s a l t := by
  induction l generalizing s a with
  | nil => exact (Option.some.inj h).symm
  | cons w l ih =>
    rw [readsB] at h
    split at h
    · next v u e =>
      split at h
      · next q => exact ⟨u, by rw [← q]; exact e, ih h⟩
      · exact absurd h (by simp)
    · exact absurd h (by simp)
/-- A copy in memory of n bytes from 0x200 to 0x303, with PUB to 0x500, its descriptor at 0x400; and the entry that its issue appends. -/
def copyMem (n : Nat) : List Word := [0x200, 0x303, BitVec.ofNat 64 (max n 1), if n = 0 then 18 else 17, 0] ++ List.replicate 14 0 ++ [0x500, 0]
def copyMemIn (n : Nat) : State :=
  fillD ((copyMem n).zipIdx.map (fun x => (0x400 + 8 * x.2, 8, x.1.toNat)) ++ [(0x200, 8, 77)]) (tasked (fun c => c.setS 40 0x400))
def issuedIn (i : Instr) (s : State) : Option State := ((queued i s).ctx 0).vq.head?.map (s.issued 0)
theorem test_wit_EngineCommands_memory :
    [0, 13].all (fun n => ((issuedIn (.cpy 1 40) (copyMemIn n)).bind (readsB · 0x400 (copyMem n))).any (fun s =>
      decide ((copyBytes (copyMem n) = 0) = (n = 0)) && okAnd ((vwrite 0 0 0 (wnth (copyMem n) 19) 8 0 .engine).run s) (fun _ _ => true))) = true := by
  decide +kernel
/-- A gather of two rows in memory: indexes at 0x600, rows of 16 bytes from 0x700 with pitch 24, to 0x803; of a versioned table, or to queue 3. -/
def gatherWords (w1 : Nat) : List Word :=
  [0x600, BitVec.ofNat 64 (w1 + 2), if w1 = 2 ^ 47 then 0x780 else 0x700, 16, 24, 3, 0x803, 40]
def gatherIn (w1 : Nat) : State :=
  fillD ((gatherWords w1).zipIdx.map (fun x => (0x400 + 8 * x.2, 8, x.1.toNat)) ++ [(0x600, 4, 2), (0x604, 4, 1), (0x730, 8, 77), (0x738, 8, 3), (0x780, 8, 0)])
    (tasked (fun c => c.setS 40 0x400))
theorem test_wit_EngineCommands_gather :
    ((issuedIn (.istr 1 40) (gatherIn 0)).bind (readsB · 0x400 (gatherWords 0))).any (fun s =>
      okAnd ((resolve 0 0 0x600 1 .read .vector).run s) (fun ps t => ps.any (fun p => (t.engine (4 * stackOf p.loc + 1)).isEmpty))) = true ∧
    ∀ e, (istrIn 1).engine e = [] := ⟨by decide +kernel, fun _ => rfl⟩
/-- Channel 1 runs that copy; with CRC too. -/
def copyMemRun (crc : Bool) : State :=
  (copyMemIn 13).modCore 0 (fun k => { k with chans := [(1, { Channel.init with
    owner := some (0, 1), launch := 5, words := if crc then (copyMem 13).set 3 25 else copyMem 13, total := 13, state := 1, crc := 2 ^ 32 - 1 })] })
theorem test_wit_EngineProgress_memory :
    [false, true].all (fun crc =>
      let x := ((copyMemRun crc).core 0).chan 1
      okAnd ((copyUnits 0 x.id 0 x.words 0 [5, 8]).run (copyMemRun crc)) (fun V s1 => V.length == 13 &&
        okAnd ((vread 0 0 (wnth x.words 20) 4 .engine).run s1) (fun _ s2 => [s1, s2].all (fun u =>
          okAnd ((vwrite 0 x.id 0 (wnth x.words 19) 8 13 .engine).run u) (fun _ _ => true))) &&
        !x.overlaps 0 && x.orig.isEmpty && x.total == copyBytes x.words && decide (wnth x.words 3 < 32) && x.crc == 2 ^ 32 - 1 - crc32c [])) = true := by
  decide +kernel
theorem test_wit_EngineProgress_sizes : unitSizes (copyMem 13) 13 13 0 [5, 8] := by simp only [unitSizes]; decide +kernel
/-- Engine 0 runs that gather. -/
def gatherRun (w1 : Nat) : State :=
  { gatherIn w1 with engines := [(0, [{ tableRow with words := gatherWords w1, base := wnth (gatherWords w1) 2, ver := 0, begun := false }])] }
theorem test_wit_EngineProgress_gather :
    [0, 2 ^ 47, 2 ^ 35 + 3 * 2 ^ 40].all (fun w1 =>
      let s := gatherRun w1
      let w := gatherWords w1
      okAnd ((if wnth w 1 / 2 ^ 47 % 2 = 1 then vatomic 0 0 256 (wnth w 2) 8 .engine (fun v => some ((v + 2 ^ 48) % 2 ^ 64)) else pure 0).run s) (fun d s0 =>
        let base := if wnth w 1 / 2 ^ 47 % 2 = 1 then d % 2 ^ 44 * 2 ^ 12 else wnth w 2
        okAnd ((vread 0 256 (wnth w 0) 4 .engine).run s0) (fun i s1 => i == 2 &&
          okAnd (((List.range 2).mapM (fun u => vread 0 256 ((base + i * wnth w 4 + 8 * u) % 2 ^ 64) 8 .engine)).run s1) (fun vs s2 => vs.length == 2 &&
            okAnd ((unitWrites 0 0 256 (wnth w 6) (vs.flatMap (leBytes 8))).run s2) (fun _ _ => true)))) &&
      (s.liveIlocks 0).isEmpty && decide ((s.ctx 0).exiting = 0 ∧ ((s.ctx 0).queue 3).ents.length + wnth w 3 / 8 ≤ 64) &&
      okAnd ((vatomic 0 0 256 (0x788) 8 .engine (fun v => some ((v + 1) % 2 ^ 64))).run s) (fun _ _ => true)) = true := by decide +kernel

/-- A store in flight of a task that has been swapped out, of which no stop is yet due. -/
def strayStore : State :=
  { evictedIn with harts := [(0, { Hart.init with pend := [storeAcc] })] }
theorem test_wit_SliceAndBusAccesses_stores :
    ((storing id).hart 0).pend.find? (fun p => p.va == 0x40 && p.task == ((storing id).hart 0).task) ≠ none ∧
    (strayStore.hart 0).pend.find? (fun p => p.va == 0x40) = some storeAcc ∧ storeAcc.task = some 1 ∧ (strayStore.hart 0).task ≠ some 1 ∧
    ((sfind strayStore.sched.tasks 1).bind (·.saved)).any (fun v => v.ctx.dueStop.isNone) = true := by decide +kernel
/-- The window in which errors are counted is over. -/
theorem test_wit_SystemEvents_over :
    let s : State := { State.reset with time := State.reset.ras.raswin }
    s.ras.raswin ≤ s.time - s.ras.winStart ∧ State.reset.time - State.reset.ras.winStart < State.reset.ras.raswin := by decide +kernel

end Sys2Proof.Tests
end

/-! PROOFS. The scalar integer instructions, branches and jumps, WIN and TRET (R85 to R88, R93, R94, R99, R106). -/

namespace Sys2Proof.Machine

/-! ### Word arithmetic as arithmetic of numbers, reduced to the width of the word -/

section Arithmetic
variable {w : Nat}

theorem sub_eq_ofInt (x y : BitVec w) : x - y = BitVec.ofInt w ((x.toNat : Int) - y.toNat) := by
  rw [Int.sub_eq_add_neg, BitVec.ofInt_add, BitVec.ofInt_neg, BitVec.ofInt_natCast, BitVec.ofInt_natCast]
  simp [BitVec.sub_eq_add_neg]

theorem mul_eq_ofNat (x y : BitVec w) : x * y = BitVec.ofNat w (x.toNat * y.toNat) := by
  simp [BitVec.ofNat_mul]

theorem shiftLeft_eq_ofNat (x : BitVec w) (k : Nat) : x <<< k = BitVec.ofNat w (x.toNat * 2 ^ k) := by
  apply BitVec.eq_of_toNat_eq
  simp [Nat.shiftLeft_eq]

theorem ushiftRight_eq_ofNat (x : BitVec w) (k : Nat) : x >>> k = BitVec.ofNat w (x.toNat / 2 ^ k) := by
  apply BitVec.eq_of_toNat_eq
  rw [BitVec.toNat_ushiftRight, Nat.shiftRight_eq_div_pow, BitVec.toNat_ofNat]
  exact (Nat.mod_eq_of_lt (Nat.lt_of_le_of_lt (Nat.div_le_self _ _) x.isLt)).symm

theorem sshiftRight_eq_ofInt (x : BitVec w) (k : Nat) : x.sshiftRight k = BitVec.ofInt w (x.toInt / 2 ^ k) := by
  rw [BitVec.sshiftRight_eq, Int.shiftRight_eq_div_pow]
  norm_cast

theorem min_toInt_eq (x y : BitVec w) : (if x.slt y then x else y) = BitVec.ofInt w (min x.toInt y.toInt) := by
  rw [min_def_lt, apply_ite (BitVec.ofInt w)]
  simp [BitVec.slt_iff_toInt_lt]

theorem max_toInt_eq (x y : BitVec w) : (if x.slt y then y else x) = BitVec.ofInt w (max x.toInt y.toInt) := by
  rw [max_def_lt, apply_ite (BitVec.ofInt w)]
  simp [BitVec.slt_iff_toInt_lt]

theorem min_toNat_eq (x y : BitVec w) : (if x.ult y then x else y) = BitVec.ofNat w (min x.toNat y.toNat) := by
  rw [min_def_lt, apply_ite (BitVec.ofNat w)]
  simp [BitVec.ult_iff_lt, BitVec.lt_def]

theorem max_toNat_eq (x y : BitVec w) : (if x.ult y then y else x) = BitVec.ofNat w (max x.toNat y.toNat) := by
  rw [max_def_lt, apply_ite (BitVec.ofNat w)]
  simp [BitVec.ult_iff_lt, BitVec.lt_def]

/-- Inserting the low bits of a word (R88). -/
theorem shiftLeft_add_setWidth_eq_ofNat {v k : Nat} (x : BitVec w) (i : BitVec v) :
    x <<< k + i.setWidth w = BitVec.ofNat w (x.toNat * 2 ^ k + i.toNat) := by
  rw [shiftLeft_eq_ofNat, ← BitVec.ofNat_toNat, BitVec.ofNat_add]

/-- Adding a sign-extended field (R87). -/
theorem add_signExtend_eq_ofInt {v : Nat} (x : BitVec w) (i : BitVec v) :
    x + i.signExtend w = BitVec.ofInt w ((x.toNat : Int) + i.toInt) := by
  rw [BitVec.ofInt_add, BitVec.ofInt_natCast, BitVec.ofNat_toNat, BitVec.setWidth_eq]
  rfl

/-- Adding a sign-extended field that counts units of k bytes (R88, R93, R94). -/
theorem add_signExtend_mul_eq_ofInt {v : Nat} (x : BitVec w) (o : BitVec v) (k : Nat) :
    x + o.signExtend w * BitVec.ofNat w k = BitVec.ofInt w ((x.toNat : Int) + k * o.toInt) := by
  rw [BitVec.ofInt_add, BitVec.ofInt_mul, BitVec.ofInt_natCast, BitVec.ofInt_natCast, BitVec.ofNat_toNat, BitVec.setWidth_eq,
    BitVec.mul_comm]
  rfl

theorem setWidth_ofInt_eq_ofNat (v : Nat) (z : Int) :
    (BitVec.ofInt w z).setWidth v = BitVec.ofNat v (z % 2 ^ w).toNat := by
  rw [← BitVec.ofNat_toNat, BitVec.toNat_ofInt]
  norm_cast

end Arithmetic

/-! ### Comparisons, division and bit counts (R85, R86) -/

theorem flag64_slt (x y : Word) : flag64 (x.slt y) = if x.toInt < y.toInt then 1 else 0 := by
  simp [flag64, BitVec.slt_iff_toInt_lt]

theorem flag64_ult (x y : Word) : flag64 (x.ult y) = if x.toNat < y.toNat then 1 else 0 := by
  simp [flag64, BitVec.ult_iff_lt, BitVec.lt_def]

theorem flag64_slt_signExtend (x : Word) (i : BitVec 11) :
    flag64 (x.slt (i.signExtend 64)) = if x.toInt < i.toInt then 1 else 0 := by
  rw [flag64_slt, BitVec.toInt_signExtend_of_le (by decide)]

/-- Division towards zero by magnitudes and signs, as DivS of R86 writes it. -/
theorem tdiv_eq_natAbs_div (a b : Int) : a.tdiv b =
    if decide (a < 0) != decide (b < 0) then -((a.natAbs / b.natAbs : Nat) : Int) else (a.natAbs / b.natAbs : Nat) :=
  match a, b with
  | .ofNat _, .ofNat _ => rfl
  | .ofNat _, .negSucc _ => by simp [Int.tdiv]
  | .negSucc _, .ofNat _ => by simp [Int.tdiv]
  | .negSucc _, .negSucc _ => by simp [Int.tdiv]

/-- The quotient that overflows is the one that reduction to 64 bits gives. -/
theorem divS_eq_tdiv (x y : Word) (hy : y ≠ 0) : divS x y = BitVec.ofInt 64 (x.toInt.tdiv y.toInt) := by
  by_cases hs : x = BitVec.intMin 64 ∧ y = BitVec.allOnes 64
  · obtain ⟨rfl, rfl⟩ := hs
    decide
  · rw [divS, if_neg hy, if_neg (by simpa using hs), tdiv_eq_natAbs_div]

theorem remS_eq_sub (x y : Word) (hy : y ≠ 0) : remS x y = x - y * divS x y := by
  by_cases hs : x = BitVec.intMin 64 ∧ y = BitVec.allOnes 64
  · obtain ⟨rfl, rfl⟩ := hs
    decide
  · rw [remS, if_neg hy, if_neg (by simpa using hs)]

theorem remS_eq_tmod (x y : Word) (hy : y ≠ 0) : remS x y = BitVec.ofInt 64 (x.toInt.tmod y.toInt) := by
  rw [remS_eq_sub x y hy, divS_eq_tdiv x y hy, Int.tmod_def, Int.sub_eq_add_neg, BitVec.ofInt_add, BitVec.ofInt_neg,
    BitVec.ofInt_mul, BitVec.ofInt_toInt, BitVec.ofInt_toInt, BitVec.sub_eq_add_neg]

theorem divS_eq (x y : Word) :
    divS x y = if y = 0 then BitVec.ofInt 64 (-1) else BitVec.ofInt 64 (x.toInt.tdiv y.toInt) := by
  split
  · next hy => rw [divS, if_pos hy]; rfl
  · next hy => exact divS_eq_tdiv x y hy

theorem remS_eq (x y : Word) : remS x y = if y = 0 then x else BitVec.ofInt 64 (x.toInt.tmod y.toInt) := by
  split
  · next hy => rw [remS, if_pos hy]
  · next hy => exact remS_eq_tmod x y hy

/-- The leading zeros of a pattern end at its highest bit that is set. -/
theorem clz_eq_find {x w : Nat} (hx : x < 2 ^ w) :
    clz x w = ((List.range w).find? (fun k => x.testBit (w - 1 - k))).getD w := by
  rw [clz, blen, Nat.mod_eq_of_lt hx]
  by_cases h0 : x = 0
  · have hnone : (List.range w).find? (fun k => x.testBit (w - 1 - k)) = none :=
      List.find?_eq_none.2 (by simp [h0])
    rw [hnone, if_pos h0]
    rfl
  · have hlog : x.log2 < w := (Nat.log2_lt h0).2 hx
    have hsome : (List.range w).find? (fun k => x.testBit (w - 1 - k)) = some (w - 1 - x.log2) := by
      refine List.find?_range_eq_some.2 ⟨?_, List.mem_range.2 (by omega), fun j hj => ?_⟩
      · rw [show w - 1 - (w - 1 - x.log2) = x.log2 by omega]
        exact Nat.testBit_log2 h0
      · rw [Nat.testBit_lt_two_pow ((Nat.log2_lt h0).1 (by omega))]
        rfl
    rw [hsome, if_neg h0, Option.getD_some]
    omega

theorem popc_eq_filter (x n : Nat) : popc x n = ((List.range n).filter (fun k => x.testBit k)).length :=
  List.countP_eq_length_filter ..

/-! ### Rows of majors 0x01 to 0x0D (R85 to R88) -/

/-- The value written may be replaced by an equal one. -/
theorem next_finishRd_congr {o : Host.Outcome State Fault Refusal} {s : State} {h d : Nat} {v u : Word}
    (ho : o = .next (s.finishRd h d v)) (hv : v = u) : o = .next (s.finishRd h d u) := hv ▸ ho

/-- Every row of majors 0x01 and 0x02 writes its result of Tables 7 and 8 and completes. -/
theorem exec_scalarRR {i : Instr} {d a b : BitVec 7} {f : Word → Word → Word → Word} (s : State)
    (hi : scalarRR i = some (d, a, b, f)) :
    exec i s = .next (s.finishRd s.cur d.toNat
      (f (s.getS64 s.cur a.toNat) (s.getS64 s.cur b.toNat) (s.getS64 s.cur d.toNat))) := by
  cases i <;> cases hi
  case add => exact next_finishRd_congr rfl (BitVec.add_def _ _)
  case sub => exact next_finishRd_congr rfl (sub_eq_ofInt _ _)
  case and => rfl
  case or => rfl
  case xor => rfl
  case andn => rfl
  case sll => exact next_finishRd_congr rfl (shiftLeft_eq_ofNat _ _)
  case srl => exact next_finishRd_congr rfl (ushiftRight_eq_ofNat _ _)
  case sra => exact next_finishRd_congr rfl (sshiftRight_eq_ofInt _ _)
  case slt => exact next_finishRd_congr rfl (flag64_slt _ _)
  case sltu => exact next_finishRd_congr rfl (flag64_ult _ _)
  case min => exact next_finishRd_congr rfl (min_toInt_eq _ _)
  case max => exact next_finishRd_congr rfl (max_toInt_eq _ _)
  case minu => exact next_finishRd_congr rfl (min_toNat_eq _ _)
  case maxu => exact next_finishRd_congr rfl (max_toNat_eq _ _)
  case sel => exact next_finishRd_congr rfl (ite_not _ _ _)
  case mul => exact next_finishRd_congr rfl (mul_eq_ofNat _ _)
  case mulh => rfl
  case mulhu => rfl
  case div => exact next_finishRd_congr rfl (divS_eq _ _)
  case divu => rfl
  case rem => exact next_finishRd_congr rfl (remS_eq _ _)
  case remu => exact next_finishRd_congr rfl (if_congr Iff.rfl rfl (congrArg w64 (Nat.mod_def _ _).symm))
  case clz => exact next_finishRd_congr rfl (congrArg w64 (clz_eq_find (BitVec.isLt _)))
  case ctz => rfl
  case popc => exact next_finishRd_congr rfl (congrArg w64 (popc_eq_filter _ _))

/-- Every row of majors 0x03 to 0x0D writes its result and completes (R87, R88). -/
theorem exec_scalarImm {i : Instr} {d a : BitVec 7} {f : Word → Word → BitVec 56 → Word} (s : State)
    (hi : scalarImm i = some (d, a, f)) :
    exec i s = .next (s.finishRd s.cur d.toNat
      (f (s.getS64 s.cur a.toNat) (s.getS64 s.cur d.toNat) (s.ctx s.cur).pc)) := by
  cases i <;> cases hi
  case addi => exact next_finishRd_congr rfl (add_signExtend_eq_ofInt _ _)
  case andi => rfl
  case ori => rfl
  case xori => rfl
  case slti => exact next_finishRd_congr rfl (flag64_slt_signExtend _ _)
  case sltiu => exact next_finishRd_congr rfl (flag64_ult _ _)
  case slli => exact next_finishRd_congr rfl (shiftLeft_eq_ofNat _ _)
  case srli => exact next_finishRd_congr rfl (ushiftRight_eq_ofNat _ _)
  case srai => exact next_finishRd_congr rfl (sshiftRight_eq_ofInt _ _)
  case lih => exact next_finishRd_congr rfl (shiftLeft_add_setWidth_eq_ofNat _ _)
  case addpc =>
    refine next_finishRd_congr rfl ?_
    rw [add_signExtend_mul_eq_ofInt, setWidth_ofInt_eq_ofNat, Int.mul_comm]
    rfl

/-- Settles O1: each row's result is the table's, written through `finishRd`. -/
theorem scalarIntegerResult : Obligations.ScalarIntegerResult :=
  ⟨fun _ _ _ _ _ s hi => ⟨_, exec_scalarRR s hi, s.doneWith_finishRd _ _ _⟩,
   fun _ _ _ _ s hi => ⟨_, exec_scalarImm s hi, s.doneWith_finishRd _ _ _⟩⟩

/-! ### Branches and jumps (R93, R94) -/

/-- All that a jump does after a change of the context. -/
theorem State.doneWith_modCtx_jump (s : State) (h : Nat) (f : Ctx → Ctx) (target : BitVec 56) :
    s.doneWith ((s.modCtx h f).jump h target) h { f (s.ctx h) with pc := target } := by
  rw [State.jump_eq]
  refine ⟨by simp [State.modCtx_eq, State.ctx], fun k hk => by simp [State.modCtx_eq, hk], ?_⟩
  unfold State.restSame
  rw [State.count_eq]
  rfl

theorem not_slt_eq_decide (x y : Word) : (!x.slt y) = decide (y.toInt ≤ x.toInt) := by
  rw [BitVec.slt, ← decide_not, decide_eq_decide, not_lt]

theorem not_ult_eq_decide (x y : Word) : (!x.ult y) = decide (y.toNat ≤ x.toNat) := by
  rw [BitVec.ult, ← decide_not, decide_eq_decide, not_lt]

theorem bne_eq_decide (x y : Word) : (x != y) = decide (x ≠ y) := (decide_not ..).symm

/-- A branch on a condition is the branch on an equal one. -/
theorem next_branch_congr {o : Host.Outcome State Fault Refusal} {p q : Word → Word → Bool} {b a : BitVec 7} {k : BitVec 11}
    {s : State} (ho : o = .next (branch p b a k s)) (hpq : ∀ x y, p x y = q x y) : o = .next (branch q b a k s) := by
  rw [ho, funext₂ hpq]

/-- Every branch tests its condition of R93. -/
theorem exec_branchOf {i : Instr} {a b : BitVec 7} {o : BitVec 11} {p : Word → Word → Bool} (s : State)
    (hi : branchOf i = some (a, b, o, p)) : exec i s = .next (branch p b a o s) := by
  cases i <;> cases hi
  case beq => rfl
  case bne => exact next_branch_congr rfl bne_eq_decide
  case blt => rfl
  case bge => exact next_branch_congr rfl not_slt_eq_decide
  case bltu => rfl
  case bgeu => exact next_branch_congr rfl not_ult_eq_decide

/-- A branch jumps when its condition holds and goes on at the next word when it does not. -/
theorem doneWith_branch (p : Word → Word → Bool) (b a : BitVec 7) (o : BitVec 11) (s : State) :
    s.doneWith (branch p b a o s) s.cur (if p ((s.ctx s.cur).getS a.toNat) ((s.ctx s.cur).getS b.toNat)
      then { s.ctx s.cur with pc := BitVec.ofInt 56 ((s.ctx s.cur).pc.toNat + 4 * o.toInt) }
      else (s.ctx s.cur).advance 4) := by
  by_cases hp : p ((s.ctx s.cur).getS a.toNat) ((s.ctx s.cur).getS b.toNat) = true
  · rw [if_pos hp, branch, State.getS64, State.getS64, if_pos hp, add_signExtend_mul_eq_ofInt]
    exact s.doneWith_jump _ _
  · rw [if_neg hp, branch, State.getS64, State.getS64, if_neg hp]
    exact s.doneWith_finish _ _

theorem nextPc_eq (c : Ctx) : nextPc c = BitVec.ofNat 64 ((c.pc.toNat + 4) % 2 ^ 56) := by
  rw [nextPc, ← BitVec.ofNat_toNat, BitVec.toNat_add]
  rfl

/-- All that JAL does (R94). -/
theorem doneWith_jal (d : BitVec 7) (o : BitVec 18) (s : State) : ∃ t, exec (.jal d o) s = .next t ∧
    s.doneWith t s.cur { (s.ctx s.cur).setS d.toNat (BitVec.ofNat 64 (((s.ctx s.cur).pc.toNat + 4) % 2 ^ 56)) with
      pc := BitVec.ofInt 56 ((s.ctx s.cur).pc.toNat + 4 * o.toInt) } := by
  refine ⟨_, rfl, ?_⟩
  rw [add_signExtend_mul_eq_ofInt, nextPc_eq]
  exact s.doneWith_modCtx_jump s.cur _ _

/-- The target of a JALR: the base plus the sign-extended offset, modulo 2^56 (R94). -/
def jalrTarget (v : Word) (i : BitVec 11) : BitVec 56 := (v + i.signExtend 64).setWidth 56

theorem toNat_jalrTarget (v : Word) (i : BitVec 11) : ((jalrTarget v i).toNat : Int) = (v.toNat + i.toInt) % 2 ^ 56 := by
  rw [jalrTarget, add_signExtend_eq_ofInt, BitVec.toNat_setWidth, BitVec.toNat_ofInt]
  omega

theorem jalrTarget_eq_ofInt (v : Word) (i : BitVec 11) : jalrTarget v i = BitVec.ofInt 56 ((v.toNat + i.toInt) % 2 ^ 56) := by
  rw [← toNat_jalrTarget, BitVec.ofInt_natCast, BitVec.ofNat_toNat, BitVec.setWidth_eq]

theorem setWidth_jalrTarget (v : Word) (i : BitVec 11) :
    (jalrTarget v i).setWidth 64 = BitVec.ofInt 64 ((v.toNat + i.toInt) % 2 ^ 56) := by
  rw [← toNat_jalrTarget, BitVec.ofInt_natCast, BitVec.ofNat_toNat]

/-- JALR to a word boundary writes the next address and jumps (R94). -/
theorem exec_jalr_aligned (d a : BitVec 7) (i : BitVec 11) (s : State)
    (hx : (jalrTarget ((s.ctx s.cur).getS a.toNat) i).toNat % 4 = 0) : exec (.jalr d a i) s =
      .next ((s.setS64 s.cur d.toNat (nextPc (s.ctx s.cur))).jump s.cur (jalrTarget ((s.ctx s.cur).getS a.toNat) i)) :=
  if_neg (not_not.2 hx)

/-- JALR off a word boundary traps (R94). -/
theorem exec_jalr_misaligned (d a : BitVec 7) (i : BitVec 11) (s : State)
    (hx : (jalrTarget ((s.ctx s.cur).getS a.toNat) i).toNat % 4 ≠ 0) : exec (.jalr d a i) s =
      .next (s.takeTrap s.cur 2 ((jalrTarget ((s.ctx s.cur).getS a.toNat) i).setWidth 64) false) :=
  if_pos hx

/-- Settles O5: a branch by `doneWith_branch`, JAL by `doneWith_jal`, JALR by the alignment of its target. -/
theorem controlTransferResult : Obligations.ControlTransferResult := by
  refine ⟨fun i a b o p s hi => ⟨_, exec_branchOf s hi, doneWith_branch p b a o s⟩, doneWith_jal,
    fun d a i s => ⟨fun hx => ?_, fun hx => ?_⟩⟩
  · rw [← toNat_jalrTarget] at hx
    refine ⟨_, exec_jalr_aligned d a i s (by omega), ?_⟩
    rw [jalrTarget_eq_ofInt, nextPc_eq]
    exact s.doneWith_modCtx_jump s.cur _ _
  · rw [← toNat_jalrTarget] at hx
    rw [exec_jalr_misaligned d a i s (by omega), setWidth_jalrTarget]

/-! ### TRET (R106, R98) -/

/-- All that an instruction does that is counted as retired and leaves its hart a context and no wait (R335). -/
theorem State.doneWith_count_modHart (s : State) (h : Nat) (g : Hart → Hart) (c : Ctx)
    (hg : g (s.hart h) = { s.hart h with wait := none, ctx := c }) : s.doneWith ((s.count h 2 1).modHart h g) h c := by
  rw [State.modHart_eq, State.hart_count, hg]
  exact ⟨by simp, fun k hk => by simp [hk], State.restSame_count_setHart s h 2 1 _⟩

/-- The nest after a return to an address: a suspended one resumes in its body and ends outside it (R98). -/
def Ctx.nestAfterReturn (c : Ctx) (pc : BitVec 56) : Option Nest :=
  if c.nest.any (·.suspended) then
    c.nest.bind (fun (n : Nest) =>
      if n.start + 4 ≤ pc.toNat && pc.toNat < n.start + 4 + 4 * n.body.length then some { n with suspended := false }
      else none)
  else c.nest

theorem Ctx.nestAfterReturn_of_none {c : Ctx} (hn : c.nest = none) (pc : BitVec 56) : c.nestAfterReturn pc = none := by
  simp [Ctx.nestAfterReturn, hn]

theorem Ctx.nestAfterReturn_of_some {c : Ctx} {n : Nest} (hn : c.nest = some n) (pc : BitVec 56) : c.nestAfterReturn pc =
    if n.suspended then
      (if n.start + 4 ≤ pc.toNat ∧ pc.toNat < n.start + 4 + 4 * n.body.length then some { n with suspended := false } else none)
    else some n := by
  simp [Ctx.nestAfterReturn, hn]

/-- All that a return does (R106). -/
theorem State.doneWith_returnTrap (s : State) (h : Nat) (hw : 3 ≤ (s.ctx h).swb) (ha : ((s.ctx h).getS 32).toNat % 4 = 0) :
    s.doneWith (s.returnTrap h) h { s.ctx h with
      swb := (s.ctx h).swb - 3
      pc := ((s.ctx h).getS 32).setWidth 56
      nest := (s.ctx h).nestAfterReturn (((s.ctx h).getS 32).setWidth 56) } := by
  rw [State.returnTrap, if_neg (by omega), if_neg (not_not.2 ha)]
  exact s.doneWith_count_modHart h _ _ rfl

theorem State.returnTrap_underflow (s : State) (h : Nat) (hw : (s.ctx h).swb < 3) :
    s.returnTrap h = s.takeTrap h 5 (BitVec.ofInt 64 (-3)) false := if_pos hw

theorem State.returnTrap_misaligned (s : State) (h : Nat) (hw : 3 ≤ (s.ctx h).swb) (ha : ((s.ctx h).getS 32).toNat % 4 ≠ 0) :
    s.returnTrap h = s.takeTrap h 2 ((s.ctx h).getS 32) false := by
  rw [State.returnTrap, if_neg (by omega), if_pos ha]

/-- Settles O10: by the three cases of `returnTrap`, and of the nest where it returns. -/
theorem trapReturn : Obligations.TrapReturn := by
  refine fun s => ⟨fun hw ha => ⟨_, rfl, ?_⟩, fun hw => congrArg _ (s.returnTrap_underflow _ hw),
    fun hw ha => congrArg _ (s.returnTrap_misaligned _ hw ha)⟩
  have hr := s.doneWith_returnTrap s.cur hw ha
  cases hn : (s.ctx s.cur).nest with
  | none =>
    rw [Ctx.nestAfterReturn_of_none hn] at hr
    simpa using hr
  | some n =>
    rw [Ctx.nestAfterReturn_of_some hn] at hr
    simpa using hr

/-! ### WIN (R99) -/

theorem windowBases_out_iff (ns nv : Int) :
    (ns < 0 || 14 < ns || nv < 0 || 6 < nv) = true ↔ ns < 0 ∨ 14 < ns ∨ nv < 0 ∨ 6 < nv := by
  simp [or_assoc]

/-- Settles O12: the range test of R99 decides between the move and the trap. -/
theorem windowMove : Obligations.WindowMove := by
  intro ds dv s h c ns nv
  constructor
  · intro hns0 hns14 hnv0 hnv6
    have hin : ¬ (ns < 0 || 14 < ns || nv < 0 || 6 < nv) = true := by
      rw [windowBases_out_iff]
      omega
    exact ⟨_, if_neg hin, s.doneWith_modCtx_finish h 4 _⟩
  · exact fun hout => if_pos ((windowBases_out_iff ns nv).2 hout)

end Sys2Proof.Machine

/-! PROOFS. SETVL and SETVLI (R126). -/

namespace Sys2Proof.Machine

/-! ### ROWS as a function of the request -/

/-- ROWS of R126 for a request of rq rows: the greatest of 8, 4, 2 and 1 at or below it, and 1 where there is none. -/
def rowsOf (rq : Nat) : Nat := if 8 ≤ rq then 8 else if 4 ≤ rq then 4 else if 2 ≤ rq then 2 else 1

/-- ROWS is the power of two, up to 8, at or below the request, which counts as 1 when it is 0. -/
theorem rowsOf_bounds (rq : Nat) : rowsOf rq ∈ [1, 2, 4, 8] ∧ rowsOf rq ≤ max 1 rq ∧ min rq 8 < 2 * rowsOf rq := by
  unfold rowsOf
  split_ifs <;> exact ⟨by simp, by omega, by omega⟩

/-- The request of SETVLI is a power of two up to 8, and becomes ROWS as it stands. -/
theorem rowsOf_two_pow (k : BitVec 2) : rowsOf (2 ^ k.toNat) = 2 ^ k.toNat := by
  revert k
  decide

/-! ### SetVL -/

/-- All that SetVL does: VL is the lesser of the request and the elements that MAXVL holds, ROWS is `rowsOf` of the request, and rd
takes VL (R126). -/
theorem doneWith_setVl (req rq : Nat) (code : BitVec 4) (d len h : Nat) (s : State) :
    s.doneWith (setVl req rq code d len h s) h
      (({ s.ctx h with vl := min req (s.maxvl (coreOf h) * 8 / tyW (tyOf code)), rows := rowsOf rq }.setS d
        (BitVec.ofNat 64 (min req (s.maxvl (coreOf h) * 8 / tyW (tyOf code))))).advance len) :=
  s.doneWith_modCtx_finish h len _

/-- Settles O23: both are SetVL, and a request of 2^k rows is met exactly. -/
theorem vectorLengthResult : Obligations.VectorLengthResult := by
  intro d a b k code px s h C vl req
  constructor
  · exact ⟨_, rowsOf req, rfl, doneWith_setVl _ req code _ _ h s, rowsOf_bounds req⟩
  · have hdone := doneWith_setVl (C.getS a.toNat).toNat (2 ^ k.toNat) code d.toNat (pxLen px) h s
    rw [rowsOf_two_pow] at hdone
    exact ⟨_, rfl, hdone⟩

end Sys2Proof.Machine
